-- ==== Sys2Proof/Word.lean ====
section
/-! DEFINITION. The word types of the part and the four streams with data held once for each. -/

namespace Sys2Proof

/-- A byte as it stands on a link or in a memory. -/
abbrev Byte := BitVec 8

/-- The four streams S0 to S3; lane n feeds stream Sn (chapter 2). -/
inductive StreamId where
  | s0 | s1 | s2 | s3
  deriving DecidableEq, Repr, Inhabited

/-- The stream's number, 0 to 3. -/
def StreamId.num : StreamId → Nat
  | .s0 => 0
  | .s1 => 1
  | .s2 => 2
  | .s3 => 3

/-- The stream a number names; none above 3. -/
def StreamId.ofNum : Nat → Option StreamId
  | 0 => some .s0
  | 1 => some .s1
  | 2 => some .s2
  | 3 => some .s3
  | _ => none

/-- S0, S1, S2, S3 in order. -/
def StreamId.all : List StreamId := [.s0, .s1, .s2, .s3]

/-- One value for each stream. -/
structure Quad (α : Type) where
  q0 : α
  q1 : α
  q2 : α
  q3 : α
  deriving DecidableEq, Repr

/-- The value held for one stream. -/
def Quad.get {α : Type} (q : Quad α) : StreamId → α
  | .s0 => q.q0
  | .s1 => q.q1
  | .s2 => q.q2
  | .s3 => q.q3

/-- Replace the value held for one stream. -/
def Quad.set {α : Type} (q : Quad α) (i : StreamId) (x : α) : Quad α :=
  match i with
  | .s0 => { q with q0 := x }
  | .s1 => { q with q1 := x }
  | .s2 => { q with q2 := x }
  | .s3 => { q with q3 := x }

/-- The same value for every stream. -/
def Quad.same {α : Type} (x : α) : Quad α := ⟨x, x, x, x⟩

end Sys2Proof
end

