-- ==== Sys2Proof/Config.lean ====
section
/-! DEFINITION. The values the manual leaves free: constants with no body. -/

namespace Sys2Proof

/-- What a word with three or more bits in error decodes to. R158 names one bit (CORRECTED) and two
(UNCORRECTABLE); a single-error-correcting code may take more bits for any of these. -/
inductive MultiOutcome where
  | looksClean | looksCorrected | uncorrectable
  deriving DecidableEq, Repr, Inhabited

/-- FREE VALUE (log 5): the outcome of a word with three or more bits in error, by its data and check
deviations. -/
opaque Config.multiBitOutcome : BitVec 64 → BitVec 8 → MultiOutcome

/-- FREE VALUE (log 5): the data bits such a word delivers, by the stored data and the deviations. -/
opaque Config.multiBitData : BitVec 64 → BitVec 64 → BitVec 8 → BitVec 64

/-- FREE VALUE (log 33): what the 6-byte field of the remaining bytes carries when their number is 2^48, which
R120 allows and the field cannot hold. -/
opaque Config.remainingField : Nat → BitVec 48

end Sys2Proof
end

