-- ==== Sys2Proof/Syntax.lean ====
section
/-! DEFINITION. The commands of the part: one constructor of `Instr` for each row of spec/opcode_table.json. -/

namespace Sys2Proof

/-- The auxiliary trigger inputs. -/
inductive AuxLine where
  | aux0 | aux1
  deriving DecidableEq, Repr

/-- A bit of one of the three protected memories that a physical upset has inverted (chapter 8: "data
that a single upset could corrupt unseen"). The read that meets it is the command that carries it. -/
inductive Upset where
  /-- Capture memory: word number (byte address divided by 8); bit 0 to 63 a data bit, 64 to 71 a check bit. -/
  | capture (word : Nat) (bit : Nat)
  /-- Staging buffer of a stream: `slot` 0 the oldest buffer awaiting flush, then the next, then the
  filling buffer; `check` a parity bit (of word `pos`), else data bit `pos` of the buffer. -/
  | staging (stream : StreamId) (slot : Nat) (check : Bool) (pos : Nat)
  /-- Replay buffer: parity bit of word `pos`, or data bit `pos` of the transfer. -/
  | replay (check : Bool) (pos : Nat)
  deriving DecidableEq, Repr

/-- The body fields of STREAM_SETUP (section 11.3), each at the width of its bytes. -/
structure SetupFields where
  stream : Byte
  width : Byte
  kmin : Byte
  kmax : Byte
  policy : Byte
  cutOnMark : Byte
  flushAge : BitVec 16
  base : BitVec 32
  count : BitVec 32
  intervalInt : BitVec 32
  intervalFrac : BitVec 32
  high : BitVec 32
  low : BitVec 32
  extent : BitVec 32
  fillValue : BitVec 16
  deriving DecidableEq, Repr

/-- The body fields of RUN_START (section 11.3). -/
structure StartFields where
  stream : Byte
  mode : Byte
  lengthPresent : Byte
  runId : BitVec 32
  startIndex : BitVec 48
  epoch : BitVec 64
  runLength : BitVec 48
  deriving DecidableEq, Repr

/-- A decoded request of the control link: its kind with its body fields (section 11.3). -/
inductive Request where
  | ident
  | streamSetup (f : SetupFields)
  | auxRoute (line edge mask : Byte)
  | runStart (f : StartFields)
  | runStop (stream : Byte)
  | runAbort (stream : Byte)
  | drainResume (stream : Byte)
  | markNow (stream : Byte)
  | windowGrant (start length : BitVec 48)
  | linkControl (action : Byte)
  | sync (mask : Byte)
  | preview (stream selection : Byte) (maxBytes : BitVec 16) (index : BitVec 48)
  | status (selector stream : Byte)
  | noticeMask (enables : BitVec 16)
  | noticeTake (selection : BitVec 16)
  | errorSetup (memory mode : Byte)
  | errorRead (memory flags : Byte)
  | inject (memory target bPresent : Byte) (a b : BitVec 16)
  | timingSet (flags : Byte) (commit sync lead : BitVec 32)
  | reset
  deriving DecidableEq, Repr

/-- The commands, in the order of the table. -/
inductive Instr where
  | powerOn
  | rst
  | pfailAssert
  | pfailDeassert
  /-- A 64-byte beat on a lane, with the offset of its trigger mark if it carries one. -/
  | beatArrival (lane : StreamId) (beat : List Byte) (mark : Option Nat)
  | beatTake (stream : StreamId)
  | sampleProcess (stream : StreamId)
  | flushAgeExpiry (stream : StreamId)
  | flushComplete (upsets : List Upset)
  | drainReadComplete (upsets : List Upset)
  | previewReadComplete (upsets : List Upset)
  | auxEdge (line : AuxLine) (rising : Bool)
  | cut
  | rePlacement
  | gateEnd
  | writeSend (upsets : List Upset)
  | durableQuerySend
  | accept
  | retry (upsets : List Upset)
  | narrow
  | refuse (code : Byte)
  | committed (address : BitVec 48)
  | refused (address : BitVec 48) (code : Byte)
  /-- Expiry of the commit timer of the entry with this stream and sequence number. -/
  | commitTimeout (stream : StreamId) (seq : Nat)
  | durable
  | notYet
  | pollWaitEnd
  | syncTimeout
  | responseTimeout
  | badFrame
  | trainingLost
  | faultWaitEnd
  | trainingReply
  | attemptEnd
  | restEnd
  | badOpener (opener : Byte)
  /-- Deassertion of CL_CS# after a write period; `bytes` are the whole bytes after the opener 0xA7. -/
  | writePeriodEnd (bytes : List Byte)
  | readPeriodStart
  /-- Deassertion of CL_CS# after `clocked` whole bytes have been clocked out after the opener 0xB4. -/
  | readPeriodEnd (clocked : Nat)
  | unknownRequest (tag kind : Byte) (body : List Byte)
  | ident (tag : Byte)
  | streamSetup (tag : Byte) (fields : SetupFields)
  | auxRoute (tag line edge mask : Byte)
  | runStart (tag : Byte) (fields : StartFields)
  | runStop (tag stream : Byte)
  | runAbort (tag stream : Byte)
  | drainResume (tag stream : Byte)
  | markNow (tag stream : Byte)
  | windowGrant (tag : Byte) (start length : BitVec 48)
  | linkControlEnable (tag : Byte)
  | linkControlDisable (tag : Byte)
  | sync (tag mask : Byte)
  | preview (tag stream selection : Byte) (maxBytes : BitVec 16) (index : BitVec 48)
  | statusDevice (tag : Byte)
  | statusStream (tag stream : Byte)
  | noticeMask (tag : Byte) (enables : BitVec 16)
  | noticeTake (tag : Byte) (selection : BitVec 16)
  | errorSetup (tag memory mode : Byte)
  | errorRead (tag memory flags : Byte)
  | inject (tag memory target bPresent : Byte) (a b : BitVec 16)
  | timingSet (tag flags : Byte) (commit sync lead : BitVec 32)
  | reset (tag : Byte)
  deriving DecidableEq, Repr

end Sys2Proof
end

