-- ==== Sys2Proof/WellFormed.lean ====
section
/-! DEFINITION. Which commands the outside world can send: a check on each operand that its type does not bound. -/

namespace Sys2Proof

/-- An upset names a bit that exists: capture memory has 2^31 words of 72 bits (R1, R158); a staging or
replay buffer has 4,096 bytes in 512 words with one parity bit each (R28, R166, R169). -/
def Upset.wf : Upset → Bool
  | .capture word bit => decide (word < 2147483648) && decide (bit < 72)
  | .staging _ slot check pos =>
    decide (slot < 2) && (if check then decide (pos < 512) else decide (pos < 32768))
  | .replay check pos => if check then decide (pos < 512) else decide (pos < 32768)

/-- Request kinds the part implements (section 11.3): 0x01 to 0x14. -/
def implementedKind (kind : Byte) : Bool :=
  decide (1 ≤ kind.toNat) && decide (kind.toNat ≤ 20)

/-- The command is one the outside world can send.
A beat is 64 bytes and a mark an offset of 0 to 63 (R25, R26); a bad opener is neither 0xA7 nor 0xB4
(R175); an unknown request has an unimplemented kind and at most 256 body bytes (R176, R183). -/
def Instr.wf : Instr → Bool
  | .beatArrival _ beat mark =>
    decide (beat.length = 64) && (match mark with | none => true | some o => decide (o < 64))
  | .flushComplete u => u.all Upset.wf
  | .drainReadComplete u => u.all Upset.wf
  | .previewReadComplete u => u.all Upset.wf
  | .writeSend u => u.all Upset.wf
  | .retry u => u.all Upset.wf
  | .badOpener o => o != 0xA7#8 && o != 0xB4#8
  | .unknownRequest _ kind body => !implementedKind kind && decide (body.length ≤ 256)
  | _ => true

end Sys2Proof
end

