-- ==== Sys2Proof/Decode.lean ====
section
/-! DEFINITION. The decoder of command words. No row of spec/opcode_table.json gives bits, so no word
spells a command; the frames of the control link are decoded in Sys2Proof/Machine/Operands.lean. -/

namespace Sys2Proof

/-- The command that a word of `nbits` bits spells by the table's bits: none, for the table gives no
row any bits. -/
def decodeTableWord (_nbits _w : Nat) : Option Instr := none

end Sys2Proof
end

