-- ==== Sys2Proof/Machine/State.lean ====
section
/-! DEFINITION. The state of the T48S as plain data, its faults and refusals, and its state after reset.
Indices, counts and addresses are natural numbers (the rules bound them); what the links carry or
the host writes whole is bits. -/

namespace Sys2Proof.Machine

/-! ### Capture memory (chapters 1 and 8) -/

/-- How a stored word of capture memory differs from a clean one: the data bits and check bits that are
inverted against what its code requires, and the poison marking (R158, R167, R173). -/
structure WordErr where
  data : BitVec 64
  check : BitVec 8
  poison : Bool
  deriving DecidableEq, Repr

/-- A word as it is written: no bit in error, not poison. -/
def WordErr.clean : WordErr := ⟨0#64, 0#8, false⟩

/-- Capture memory (R1): the stored bytes by byte address and the word deviations by word number, both
sparse and canonical (addresses rising; a byte not listed is 0, a word not listed is clean). -/
structure Memory where
  cells : List Host.Cell
  errs : List (Nat × WordErr)
  deriving DecidableEq, Repr

/-- The causes of a gap (R7, R99). -/
structure Causes where
  ringFullNew : Bool
  ringFullOld : Bool
  aborted : Bool
  deriving DecidableEq, Repr

/-- A gap_before: its length in acquired samples and its causes (R7). -/
structure Gap where
  len : Nat
  causes : Causes
  deriving DecidableEq, Repr

/-- Block states of section 1.6. -/
inductive BlockState where
  | filling | full | draining | drained
  deriving DecidableEq, Repr

/-- A capture-list entry (R7). -/
structure Entry where
  block : Nat
  st : BlockState
  first : Nat
  k : Nat
  kept : Nat
  gap : Option Gap
  pins : Nat
  retire : Bool
  deriving DecidableEq, Repr

/-! ### Stream configuration and run context (chapters 2 to 5) -/

inductive Width where
  | w8 | w16
  deriving DecidableEq, Repr

inductive Policy where
  | dropNew | dropOld | decimate
  deriving DecidableEq, Repr

inductive StartMode where
  | immediate | aux0 | aux1 | laneTrigger
  deriving DecidableEq, Repr

inductive Phase where
  | unconfigured | idle | armed | running | closing
  deriving DecidableEq, Repr

inductive DrainCond where
  | flowing | blocked
  deriving DecidableEq, Repr

inductive CloseReason where
  | noReason | hostStop | length | abort | powerFail
  deriving DecidableEq, Repr

/-- The stream configuration (section 4.2). -/
structure StreamCfg where
  base : Nat
  count : Nat
  width : Width
  intervalInt : Nat
  intervalFrac : Nat
  kmin : Nat
  kmax : Nat
  policy : Policy
  high : Nat
  low : Nat
  extent : Nat
  flushAge : Nat
  cutOnMark : Bool
  fillValue : Nat
  deriving DecidableEq, Repr

/-- A staging buffer (R28, R166): the bytes staged, the buffer's bytes in whole 64-byte lines (zero
where nothing is staged yet) and the stored parity bit of each of their words. -/
structure StageBuf where
  count : Nat
  data : List Byte
  parity : List Bool
  deriving DecidableEq, Repr

/-- An injection arming (R172): parity or check bits, or data bits, at one or two positions. -/
structure Arming where
  check : Bool
  a : Nat
  b : Option Nat
  deriving DecidableEq, Repr

/-- A staging write in progress (R173, log 7): the offset in the filling buffer of its first byte, and the flip of
STAGING it has taken. -/
structure StageWrite where
  start : Nat
  flip : Option Arming
  deriving DecidableEq, Repr

/-- An empty staging buffer. -/
def StageBuf.empty : StageBuf := ⟨0, [], []⟩

inductive WriterMode where
  | stopped | noBlock | filling | sealing | dropping
  deriving DecidableEq, Repr

/-- A held stop request (R43). -/
structure StopReq where
  index : Nat
  reason : CloseReason
  deriving DecidableEq, Repr

/-- A writer context (R28). The two staging buffers are the one filling and those awaiting flush, the
oldest first. -/
structure Writer where
  mode : WriterMode
  index : Nat
  k : Nat
  dropStart : Nat
  filling : Option Nat
  fillOffset : Nat
  fillBuf : StageBuf
  awaiting : List StageBuf
  ageRunning : Bool
  stop : Option StopReq
  /-- Bytes of the beat in hand that are not yet processed (R27, R30). -/
  beat : List Byte
  /-- The boundary at the writer index has been evaluated and its sample is still to be processed (R30). -/
  boundaryDone : Bool
  /-- The staging write in progress in the filling buffer (R173, log 7). -/
  write : Option StageWrite
  deriving DecidableEq, Repr

/-- A beat in the lane hold with the offset of its valid mark (R26, R27). -/
structure HeldBeat where
  bytes : List Byte
  mark : Option Nat
  deriving DecidableEq, Repr

inductive MarkSource where
  | lane | aux0 | aux1 | host
  deriving DecidableEq, Repr

/-- A marker-queue entry (R52). -/
structure Marker where
  index : Nat
  source : MarkSource
  lost : Nat
  deriving DecidableEq, Repr

/-- A tail gap: its span, its causes (R82) and the k in force at its end (R99). -/
structure TailGap where
  first : Nat
  stop : Nat
  causes : Causes
  k : Nat
  deriving DecidableEq, Repr

/-- The coverage end and k of the stream's last DATA record (R82, R94). -/
structure DataEnd where
  stop : Nat
  k : Nat
  deriving DecidableEq, Repr

/-- The cutter's context of a stream (R82). -/
structure Cutter where
  openDue : Bool
  cutIndex : Nat
  nextSeq : Nat
  tailGap : Option TailGap
  lastData : Option DataEnd
  closeCut : Bool
  kept : Nat
  covered : Nat
  gapTotal : Nat
  discarded : Nat
  deriving DecidableEq, Repr

/-- Everything held once for each stream. -/
structure Stream where
  cfg : StreamCfg
  phase : Phase
  drain : DrainCond
  runId : Nat
  runLen : Option Nat
  closeReason : CloseReason
  endIndex : Nat
  startIndex : Nat
  epoch : Nat
  startMode : StartMode
  spare : List Nat
  capture : List Entry
  retired : List Nat
  hold : List HeldBeat
  overrun : Nat
  writer : Writer
  markers : List Marker
  lost : Nat
  pendingLane : Option Nat
  cutter : Cutter
  commitIndex : Nat
  deriving DecidableEq, Repr

/-! ### The memory port and PREVIEW (chapter 1) -/

/-- An access the port has granted (R18). A flush whose staging buffer has been given up carries its
bytes; a read that is not live has its data discarded (R19). -/
inductive Access where
  | flush (stream : StreamId) (addr : Nat) (orphan : Option StageBuf)
  | drain (addr len pos : Nat) (live : Bool)
  | preview (addr len : Nat) (live : Bool)
  deriving DecidableEq, Repr

inductive Reader where
  | drain | preview
  deriving DecidableEq, Repr

/-- The memory port arbiter (R19). -/
structure Port where
  granted : Option Access
  rot : StreamId
  lastReader : Reader
  deriving DecidableEq, Repr

/-- A part of a PREVIEW's span still to be read: kept samples of a block, or samples copied out of staging
buffers that an abort emptied, with the number of them replaced and the capture-memory addresses of the
words in error, which are counted when the preview reader reads them (R156, R168, log 10). -/
inductive Seg where
  | held (block j n : Nat)
  | copied (bytes : List Byte) (replaced : Nat) (lost : List Nat)
  deriving DecidableEq, Repr

/-- The PREVIEW in flight (R20 to R24). -/
structure Preview where
  stream : StreamId
  tag : Byte
  k : Nat
  width : Width
  first : Nat
  segs : List Seg
  data : List Byte
  replaced : Nat
  pinned : List Nat
  deriving DecidableEq, Repr

/-! ### AUX routing (chapter 3) -/

inductive EdgeSel where
  | off | rising | falling | both
  deriving DecidableEq, Repr

structure Route where
  edge : EdgeSel
  mask : BitVec 4
  deriving DecidableEq, Repr

structure Routes where
  aux0 : Route
  aux1 : Route
  deriving DecidableEq, Repr

/-! ### Archive windows (chapter 6) -/

structure Window where
  start : Nat
  length : Nat
  next : Nat
  deriving DecidableEq, Repr

structure DeadSpan where
  address : Nat
  size : Nat
  deriving DecidableEq, Repr

/-- The placement unit (R107). `low` is the low state BELOW. -/
structure Placement where
  windows : List Window
  starved : Bool
  abandoned : Nat
  dead : Nat
  lastDead : Option DeadSpan
  rateCounter : Nat
  latchedRate : Nat
  low : Bool
  deriving DecidableEq, Repr

/-! ### The archive link (chapter 7) and records (chapters 5 and 11) -/

/-- A run of record payload in capture memory (R95). -/
structure SrcRun where
  block : Nat
  offset : Nat
  bytes : Nat
  deriving DecidableEq, Repr

/-- The header fields common to every kind (R84). -/
structure RecHeader where
  runId : Nat
  index : Nat
  stamp : Nat
  saturated : Bool
  continuation : Bool
  deriving DecidableEq, Repr

/-- The kind of a record with its kind fields (R89, R95, R99, R100, R101). -/
inductive RecBody where
  | openRec (start epoch intervalInt intervalFrac : Nat) (width : Width) (kmin kmax : Nat) (policy : Policy)
  | dataRec (first k kept : Nat) (width : Width) (runs : List SrcRun)
  | gapRec (first len : Nat) (causes : Causes) (k : Nat)
  | markRec (index : Nat) (source : MarkSource) (lost : Nat)
  | closeRec (endIndex : Nat) (reason : CloseReason) (kept covered gapTotal discarded : Nat)
  deriving DecidableEq, Repr

inductive CommitState where
  | ready | sending | awaitCommit | committed | failed | stuck
  deriving DecidableEq, Repr

inductive FailCause where
  | refuse | retryLimit | narrowLimit | refused | commitTimeout
  deriving DecidableEq, Repr

/-- A damage span: offset and count in kept samples of the payload (section 8.3). -/
structure Span where
  off : Nat
  count : Nat
  deriving DecidableEq, Repr

/-- The transfer state of a commit-list entry (R128, R165). `crc` is the register of R106 before the
final complement. -/
structure Xfer where
  accepted : Nat
  narrow : Bool
  retry : Nat
  spans : List Span
  overflow : Bool
  crc : BitVec 32
  tally : List (Nat × Nat)
  deriving DecidableEq, Repr

/-- A commit-list entry (R128). -/
structure CommitEntry where
  stream : StreamId
  seq : Nat
  header : RecHeader
  body : RecBody
  covEnd : Nat
  size : Nat
  addr : Option Nat
  st : CommitState
  placements : Nat
  xfer : Xfer
  cause : Option FailCause
  code : Option Byte
  /-- The commit timer: not running, or running for the timeout in force at its start, in ms (R137). -/
  timer : Option Nat
  deriving DecidableEq, Repr

/-- An access the drain reader still has to make: capture-memory address, length, and the offset of its
first byte in the record's payload (R18, R132). -/
structure DrainRead where
  addr : Nat
  len : Nat
  pos : Nat
  deriving DecidableEq, Repr

/-- The replay buffer with the transfer being built or held (R132, R169). `off` is the transfer's offset
in the record; `ready` says that it holds the whole transfer; `todo` the drain reads still to
make; `held` the damage spans held with the transfer; `ranges` the 64-byte ranges under rebuild
(none for a fill of the whole transfer). -/
structure Replay where
  off : Nat
  len : Nat
  bytes : List Byte
  parity : List Bool
  ready : Bool
  todo : List DrainRead
  held : List Span
  ranges : Option (List Nat)
  deriving DecidableEq, Repr

inductive LinkState where
  | disabled | training | up | faulted
  deriving DecidableEq, Repr

inductive TrainPhase where
  | attempt | rest
  deriving DecidableEq, Repr

/-- The outstanding request as it was sent (section 7.1). -/
inductive LinkRequest where
  | write (address : Nat) (bytes : List Byte)
  | durableQuery
  deriving DecidableEq, Repr

inductive LinkFault where
  | responseTimeout | badFrame | trainingLost
  deriving DecidableEq, Repr

inductive SyncPhase where
  | idle | waitLeave | queryDue | queryOut | pollWait
  deriving DecidableEq, Repr

/-- The sync context (R147 to R150). `timer` is the sync timeout in force at its start, in ms. -/
structure SyncCtx where
  phase : SyncPhase
  tag : Byte
  noted : List (StreamId × Nat)
  timer : Nat
  deriving DecidableEq, Repr

/-- The archive link controller (R123); the commit indices stand with their streams. -/
structure Link where
  state : LinkState
  train : TrainPhase
  outstanding : Option LinkRequest
  faultCount : Nat
  lastCause : Option LinkFault
  stale : Nat
  commit : List CommitEntry
  replay : Option Replay
  sync : SyncCtx
  deriving DecidableEq, Repr

/-! ### Memory integrity (chapter 8) -/

inductive MemId where
  | capture | staging | replay
  deriving DecidableEq, Repr

inductive CaptureMode where
  | first | last
  deriving DecidableEq, Repr


/-- What the integrity monitor holds for one memory (R156). -/
structure MemMon where
  corrected : Nat
  uncorrectable : Nat
  corrAddr : Option Nat
  uncorrAddr : Option Nat
  mode : CaptureMode
  arming : Option Arming
  deriving DecidableEq, Repr

structure Integrity where
  capture : MemMon
  staging : MemMon
  replay : MemMon
  deriving DecidableEq, Repr

/-! ### The control link (chapter 9) -/

/-- An inbound frame as received (R178). -/
structure InFrame where
  kind : Byte
  tag : Byte
  body : List Byte
  deriving DecidableEq, Repr

/-- An outbound reply frame with every byte as it is sent. `isReset` marks the OK reply of a RESET whose
leaving ends the RESET hold (R188). -/
structure OutFrame where
  bytes : List Byte
  isReset : Bool
  deriving DecidableEq, Repr

inductive ResetCause where
  | powerOn | rst | resetRequest
  deriving DecidableEq, Repr

/-- The timing set, in ms (R187). -/
structure Timing where
  commit : Nat
  sync : Nat
  lead : Nat
  deriving DecidableEq, Repr

/-- A read period in progress: the frame it sends after the opener, and whether it is the head of the outbound
queue or the empty frame (R180). `ReadPeriod.sdo` gives what CL_SDO carries, past the frame's end too. -/
structure ReadPeriod where
  bytes : List Byte
  fromQueue : Bool
  deriving DecidableEq, Repr

/-- The control link interface (chapter 9). `inbound` holds the frames of both inbound queues in arrival
order; which queue a frame is in is decided by its body length (R178, R182). -/
structure Control where
  inbound : List InFrame
  out : List OutFrame
  reserved : Nat
  crcErrors : Nat
  framingErrors : Nat
  shortDrops : Nat
  longDrops : Nat
  resetHold : Bool
  resetCause : ResetCause
  timing : Timing
  reading : Option ReadPeriod
  deriving DecidableEq, Repr

/-! ### Notices (chapter 10) -/

structure StreamCounts where
  run : Nat
  ringHigh : Nat
  gap : Nat
  decimation : Nat
  archiveFault : Nat
  markerLost : Nat
  deriving DecidableEq, Repr

structure DeviceCounts where
  windowLow : Nat
  windowEmpty : Nat
  memory : Nat
  injection : Nat
  power : Nat
  deriving DecidableEq, Repr

/-- The notice unit (R193); bit n of the mask enables the category of bit n in chapter 11. -/
structure Notices where
  streams : Quad StreamCounts
  device : DeviceCounts
  mask : BitVec 11
  deriving DecidableEq, Repr

/-! ### The whole part -/

/-- The state of the part and the commands waiting for it, first in first out. -/
structure State where
  pending : List Instr
  mem : Memory
  port : Port
  preview : Option Preview
  streams : Quad Stream
  routes : Routes
  pfail : Bool
  powerFail : Bool
  place : Placement
  link : Link
  integ : Integrity
  ctl : Control
  notices : Notices
  deriving DecidableEq, Repr

/-- Why the machine stops with a fault. -/
inductive Fault where
  /-- Raised when a granted access of the memory port lies outside the 17,179,869,184 bytes of capture
  memory (R1), which only a state no run reaches can hold. Safe: the machine stops. -/
  | captureAddress
  deriving DecidableEq, Repr

/-- Why a command is given no meaning. -/
inductive Refusal where
  /-- Raised by `exec` for a command that is not modelled yet. Safe: nothing is claimed of it. -/
  | notModelled (mnemonic : String)
  deriving DecidableEq, Repr

/-- What every meaning answers. -/
abbrev Result := Host.Outcome State Fault Refusal

/-! ### Reset values -/

/-- The configuration of an unconfigured stream (section 4.2, last column). -/
def StreamCfg.reset : StreamCfg where
  base := 0
  count := 0
  width := .w8
  intervalInt := 0
  intervalFrac := 0
  kmin := 0
  kmax := 0
  policy := .dropNew
  high := 0
  low := 0
  extent := 0
  flushAge := 0
  cutOnMark := false
  fillValue := 0

/-- R28, last column. -/
def Writer.reset : Writer where
  mode := .stopped
  index := 0
  k := 0
  dropStart := 0
  filling := none
  fillOffset := 0
  fillBuf := .empty
  awaiting := []
  ageRunning := false
  stop := none
  beat := []
  boundaryDone := false
  write := none

/-- R82, last column. -/
def Cutter.reset : Cutter where
  openDue := false
  cutIndex := 0
  nextSeq := 0
  tailGap := none
  lastData := none
  closeCut := false
  kept := 0
  covered := 0
  gapTotal := 0
  discarded := 0

/-- R2, R27, R28, R47, R52, R60, R63, R65, R82, R123. The start mode is DESIGN CHOICE (log 3). -/
def Stream.reset : Stream where
  cfg := .reset
  phase := .unconfigured
  drain := .flowing
  runId := 0
  runLen := none
  closeReason := .noReason
  endIndex := 0
  startIndex := 0
  epoch := 0
  startMode := .immediate
  spare := []
  capture := []
  retired := []
  hold := []
  overrun := 0
  writer := .reset
  markers := []
  lost := 0
  pendingLane := none
  cutter := .reset
  commitIndex := 0

/-- R19. -/
def Port.reset : Port := ⟨none, .s0, .drain⟩

/-- R57. -/
def Routes.reset : Routes := ⟨⟨.off, 0#4⟩, ⟨.off, 0#4⟩⟩

/-- R107, last column. -/
def Placement.reset : Placement where
  windows := []
  starved := false
  abandoned := 0
  dead := 0
  lastDead := none
  rateCounter := 0
  latchedRate := 0
  low := false

/-- The idle sync context. -/
def SyncCtx.idle : SyncCtx := ⟨.idle, 0#8, [], 0⟩

/-- R123, power-on column. -/
def Link.reset : Link where
  state := .disabled
  train := .attempt
  outstanding := none
  faultCount := 0
  lastCause := none
  stale := 0
  commit := []
  replay := none
  sync := .idle

/-- R156, power-on column. -/
def MemMon.reset : MemMon := ⟨0, 0, none, none, .first, none⟩

def Integrity.reset : Integrity := ⟨.reset, .reset, .reset⟩

/-- R187. -/
def Timing.reset : Timing := ⟨100, 2000, 500⟩

/-- R191, power-on column. -/
def Control.reset : Control where
  inbound := []
  out := []
  reserved := 0
  crcErrors := 0
  framingErrors := 0
  shortDrops := 0
  longDrops := 0
  resetHold := false
  resetCause := .powerOn
  timing := .reset
  reading := none

def StreamCounts.zero : StreamCounts := ⟨0, 0, 0, 0, 0, 0⟩

def DeviceCounts.zero : DeviceCounts := ⟨0, 0, 0, 0, 0⟩

/-- R193: RUN (bit 0), ARCHIVE_FAULT (bit 4), MEMORY (bit 8) and POWER (bit 10) enabled. -/
def Notices.reset : Notices := ⟨.same .zero, .zero, 0x511#11⟩

/-- The part right after power-on with the PFAIL# line deasserted (log 4) and no command waiting.
Capture memory's contents are undefined (R1): DESIGN CHOICE zero (log 1). -/
def State.reset : State where
  pending := []
  mem := ⟨[], []⟩
  port := .reset
  preview := none
  streams := .same .reset
  routes := .reset
  pfail := false
  powerFail := false
  place := .reset
  link := .reset
  integ := .reset
  ctl := .reset
  notices := .reset

end Sys2Proof.Machine
end

