-- ==== Sys2Proof/Machine/Ops.lean ====
section
/-! DEFINITION. Operations every other file uses: fixed capacities, saturating counts, byte order, check
codes, sparse memories, and the named updates of the state. -/

namespace Sys2Proof.Machine

/-! ### Fixed capacities -/

/-- Bytes of a block (Conventions, "Block"). -/
def blockBytes : Nat := 262144

/-- Bytes of capture memory: 65,536 blocks (R1). -/
def captureBytes : Nat := 17179869184

/-- Acquired samples of a grain (Conventions, "Grain"). -/
def grain : Nat := 131072

/-- The index limit, 2^48 − 131,072 (R43, R70). -/
def indexLimit : Nat := 281474976579584

/-- Bytes of a staging buffer and of a full flush (R32). -/
def stageBytes : Nat := 4096

def maxHold : Nat := 16
def maxMarkers : Nat := 32
def maxWindows : Nat := 16
def maxCommit : Nat := 8
def shortSlots : Nat := 16
def longSlots : Nat := 2
def outSlots : Nat := 8

/-! ### Counts -/

/-- Add to a count that saturates at `max` (Conventions, "Saturation"). -/
def satAdd (max n d : Nat) : Nat := min max (n + d)

/-- A 16-bit saturating count raised by one. -/
def inc16 (n : Nat) : Nat := satAdd 65535 n 1

/-- `n` rounded up to the next multiple of `m`. -/
def roundUp (n m : Nat) : Nat := (n + (m - 1)) / m * m

/-! ### Byte order -/

/-- The `n` bytes of a little-endian field (Conventions, "Byte order"). -/
def leBytes : Nat → Nat → List Byte
  | 0, _ => []
  | n + 1, x => BitVec.ofNat 8 x :: leBytes n (x / 256)

/-- The number a little-endian field holds. -/
def leNat : List Byte → Nat
  | [] => 0
  | b :: bs => b.toNat + 256 * leNat bs

/-- `n` zero bytes. -/
def zeros (n : Nat) : List Byte := List.replicate n 0#8

/-- `n` bytes from offset `off`. -/
def slice (bs : List Byte) (off n : Nat) : List Byte := (bs.drop off).take n

/-- Put `new` over the bytes of `bs` from offset `i` on. -/
def overwrite (bs : List Byte) (i : Nat) (new : List Byte) : List Byte :=
  bs.take i ++ new ++ bs.drop (i + new.length)

/-- A flag as a byte. -/
def boolByte (b : Bool) : Byte := if b then 1#8 else 0#8

/-! ### Check codes -/

/-- One data bit into the CRC-16 of the control link (R177 step 3). -/
def crc16Bit (r : BitVec 16) (b : Bool) : BitVec 16 :=
  let shifted := r <<< 1
  if r.msb ^^ b then shifted ^^^ 0x1021#16 else shifted

/-- A byte into the CRC-16, most significant bit first (R177 step 2). -/
def crc16Byte (r : BitVec 16) (x : Byte) : BitVec 16 :=
  [7, 6, 5, 4, 3, 2, 1, 0].foldl (fun acc i => crc16Bit acc (x.getLsbD i)) r

/-- The CRC-16 of a string of bytes (R177). -/
def crc16 (bs : List Byte) : BitVec 16 := bs.foldl crc16Byte 0xFFFF#16

/-- One data bit into the CRC-32 of archive records (R106 step 3). -/
def crc32Bit (r : BitVec 32) (b : Bool) : BitVec 32 :=
  let shifted := r >>> 1
  if r.getLsbD 0 ^^ b then shifted ^^^ 0xEDB88320#32 else shifted

/-- A byte into the CRC-32, least significant bit first (R106 step 2). -/
def crc32Byte (r : BitVec 32) (x : Byte) : BitVec 32 :=
  [0, 1, 2, 3, 4, 5, 6, 7].foldl (fun acc i => crc32Bit acc (x.getLsbD i)) r

/-- The starting value of the running CRC-32 (R106 step 1). -/
def crc32Start : BitVec 32 := 0xFFFFFFFF#32

/-- The running CRC-32 continued over a string of bytes (R106, R134). -/
def crc32Over (r : BitVec 32) (bs : List Byte) : BitVec 32 := bs.foldl crc32Byte r

/-- The CRC-32 of a string of bytes, complemented at the end (R106 step 4). -/
def crc32 (bs : List Byte) : BitVec 32 := ~~~ (crc32Over crc32Start bs)

/-! ### Sparse memories in canonical form -/

/-- What a sparse memory holds at an address: the listed value, or `d`. -/
def sparseRead {α : Type} (d : α) (m : List (Nat × α)) (a : Nat) : α :=
  match m with
  | [] => d
  | (b, x) :: rest => if a = b then x else sparseRead d rest a

/-- Write one value, keeping the addresses rising and listing no value equal to `d`. -/
def sparseWrite {α : Type} [DecidableEq α] (d : α) (m : List (Nat × α)) (a : Nat) (v : α) :
    List (Nat × α) :=
  match m with
  | [] => if v = d then [] else [(a, v)]
  | (b, x) :: rest =>
    if a < b then (if v = d then (b, x) :: rest else (a, v) :: (b, x) :: rest)
    else if a = b then (if v = d then rest else (a, v) :: rest)
    else (b, x) :: sparseWrite d rest a v

/-- Every listed address is at or above `lo`, the addresses rise strictly, and no listed value is `d`. -/
def sparseWfFrom {α : Type} [DecidableEq α] (d : α) (lo : Nat) : List (Nat × α) → Bool
  | [] => true
  | (a, v) :: rest => decide (lo ≤ a) && !decide (v = d) && sparseWfFrom d (a + 1) rest

/-- Replace the first element that satisfies `p`. -/
def modifyFirst {α : Type} (p : α → Bool) (f : α → α) : List α → List α
  | [] => []
  | x :: xs => if p x then f x :: xs else x :: modifyFirst p f xs

/-- Remove the first element that satisfies `p`. -/
def removeFirst {α : Type} (p : α → Bool) : List α → List α
  | [] => []
  | x :: xs => if p x then xs else x :: removeFirst p xs

/-! ### Small codes -/

/-- Bytes of a sample. -/
def Width.bytes : Width → Nat
  | .w8 => 1
  | .w16 => 2

/-- The width as section 11 codes it, in bits. -/
def Width.code : Width → Nat
  | .w8 => 8
  | .w16 => 16

def Policy.code : Policy → Nat
  | .dropNew => 0
  | .dropOld => 1
  | .decimate => 2

def StartMode.code : StartMode → Nat
  | .immediate => 0
  | .aux0 => 1
  | .aux1 => 2
  | .laneTrigger => 3

def Phase.code : Phase → Nat
  | .unconfigured => 0
  | .idle => 1
  | .armed => 2
  | .running => 3
  | .closing => 4

def CloseReason.code : CloseReason → Nat
  | .noReason => 0
  | .hostStop => 1
  | .length => 2
  | .abort => 3
  | .powerFail => 4

def MarkSource.code : MarkSource → Nat
  | .lane => 0
  | .aux0 => 1
  | .aux1 => 2
  | .host => 3

def EdgeSel.code : EdgeSel → Nat
  | .off => 0
  | .rising => 1
  | .falling => 2
  | .both => 3

def LinkState.code : LinkState → Nat
  | .disabled => 0
  | .training => 1
  | .up => 2
  | .faulted => 3

/-- No cause. -/
def Causes.empty : Causes := ⟨false, false, false⟩

/-- {RING_FULL_NEW}. -/
def Causes.newOnly : Causes := ⟨true, false, false⟩

/-- {RING_FULL_OLD}. -/
def Causes.oldOnly : Causes := ⟨false, true, false⟩

/-- {ABORTED}. -/
def Causes.abortedOnly : Causes := ⟨false, false, true⟩

/-- The union of two cause sets. -/
def Causes.union (a b : Causes) : Causes :=
  ⟨a.ringFullNew || b.ringFullNew, a.ringFullOld || b.ringFullOld, a.aborted || b.aborted⟩

/-- The cause set as section 11 codes it. -/
def Causes.code (c : Causes) : Nat :=
  (if c.ringFullNew then 1 else 0) + (if c.ringFullOld then 2 else 0) + (if c.aborted then 4 else 0)

/-- The causes of an optional gap; none when it is absent. -/
def gapCauses : Option Gap → Causes
  | none => .empty
  | some g => g.causes

/-- The length of an optional gap; 0 when it is absent. -/
def gapLen : Option Gap → Nat
  | none => 0
  | some g => g.len

/-! ### Named updates of the state -/

/-- What is held for one stream. -/
def State.stream (s : State) (i : StreamId) : Stream := s.streams.get i

/-- Replace what is held for one stream. -/
def State.setStream (s : State) (i : StreamId) (x : Stream) : State :=
  { s with streams := s.streams.set i x }

/-- Change what is held for one stream. -/
def State.modStream (s : State) (i : StreamId) (f : Stream → Stream) : State :=
  s.setStream i (f (s.stream i))

/-- Change a stream's writer context. -/
def State.modWriter (s : State) (i : StreamId) (f : Writer → Writer) : State :=
  s.modStream i fun x => { x with writer := f x.writer }

/-- Change a stream's cutter context. -/
def State.modCutter (s : State) (i : StreamId) (f : Cutter → Cutter) : State :=
  s.modStream i fun x => { x with cutter := f x.cutter }

def State.modLink (s : State) (f : Link → Link) : State := { s with link := f s.link }

def State.modPlace (s : State) (f : Placement → Placement) : State := { s with place := f s.place }

def State.modCtl (s : State) (f : Control → Control) : State := { s with ctl := f s.ctl }

/-- What the integrity monitor holds for a memory. -/
def Integrity.get (g : Integrity) : MemId → MemMon
  | .capture => g.capture
  | .staging => g.staging
  | .replay => g.replay

/-- Replace what the integrity monitor holds for a memory. -/
def Integrity.set (g : Integrity) (m : MemId) (x : MemMon) : Integrity :=
  match m with
  | .capture => { g with capture := x }
  | .staging => { g with staging := x }
  | .replay => { g with replay := x }

/-- Change what the integrity monitor holds for a memory. -/
def State.modMon (s : State) (m : MemId) (f : MemMon → MemMon) : State :=
  { s with integ := s.integ.set m (f (s.integ.get m)) }

end Sys2Proof.Machine
end

