-- ==== Sys2Proof/Machine/Flags.lean ====
section
/-! DEFINITION. The notice flags (chapter 10), their raising, and the ATTN# line (R190). -/

namespace Sys2Proof.Machine

/-- The per-stream categories (chapter 10). -/
inductive StreamCat where
  | run | ringHigh | gap | decimation | archiveFault | markerLost
  deriving DecidableEq, Repr

/-- The device categories (chapter 10). -/
inductive DeviceCat where
  | windowLow | windowEmpty | memory | injection | power
  deriving DecidableEq, Repr

/-- The per-stream categories in category bit order, bits 0 to 5. -/
def StreamCat.all : List StreamCat := [.run, .ringHigh, .gap, .decimation, .archiveFault, .markerLost]

/-- The device categories in category bit order, bits 6 to 10. -/
def DeviceCat.all : List DeviceCat := [.windowLow, .windowEmpty, .memory, .injection, .power]

/-- The category's bit (chapter 11, "Notice category bit"). -/
def StreamCat.bit : StreamCat → Nat
  | .run => 0
  | .ringHigh => 1
  | .gap => 2
  | .decimation => 3
  | .archiveFault => 4
  | .markerLost => 5

/-- The category's bit (chapter 11, "Notice category bit"). -/
def DeviceCat.bit : DeviceCat → Nat
  | .windowLow => 6
  | .windowEmpty => 7
  | .memory => 8
  | .injection => 9
  | .power => 10

def StreamCounts.get (n : StreamCounts) : StreamCat → Nat
  | .run => n.run
  | .ringHigh => n.ringHigh
  | .gap => n.gap
  | .decimation => n.decimation
  | .archiveFault => n.archiveFault
  | .markerLost => n.markerLost

def StreamCounts.set (n : StreamCounts) (c : StreamCat) (x : Nat) : StreamCounts :=
  match c with
  | .run => { n with run := x }
  | .ringHigh => { n with ringHigh := x }
  | .gap => { n with gap := x }
  | .decimation => { n with decimation := x }
  | .archiveFault => { n with archiveFault := x }
  | .markerLost => { n with markerLost := x }

def DeviceCounts.get (n : DeviceCounts) : DeviceCat → Nat
  | .windowLow => n.windowLow
  | .windowEmpty => n.windowEmpty
  | .memory => n.memory
  | .injection => n.injection
  | .power => n.power

def DeviceCounts.set (n : DeviceCounts) (c : DeviceCat) (x : Nat) : DeviceCounts :=
  match c with
  | .windowLow => { n with windowLow := x }
  | .windowEmpty => { n with windowEmpty := x }
  | .memory => { n with memory := x }
  | .injection => { n with injection := x }
  | .power => { n with power := x }

/-- The count of a per-stream category instance. -/
def Notices.streamCount (n : Notices) (i : StreamId) (c : StreamCat) : Nat := (n.streams.get i).get c

/-- Raise a per-stream category instance: one more, saturating (R194). -/
def Notices.raiseStream (n : Notices) (i : StreamId) (c : StreamCat) : Notices :=
  { n with streams := n.streams.set i ((n.streams.get i).set c (inc16 (n.streamCount i c))) }

/-- Raise a device category: one more, saturating (R194). -/
def Notices.raiseDevice (n : Notices) (c : DeviceCat) : Notices :=
  { n with device := n.device.set c (inc16 (n.device.get c)) }

/-- Raise a per-stream notice (R194). -/
def State.raise (s : State) (i : StreamId) (c : StreamCat) : State :=
  { s with notices := s.notices.raiseStream i c }

/-- Raise a device notice (R194). -/
def State.raiseDev (s : State) (c : DeviceCat) : State :=
  { s with notices := s.notices.raiseDevice c }

/-- The streams for which a per-stream category is pending, as a stream mask (R193). -/
def Notices.pendingStreams (n : Notices) (c : StreamCat) : Nat :=
  (StreamId.all.map fun i => if 0 < n.streamCount i c then 2 ^ i.num else 0).sum

/-- The categories pending for the device, by category bit (R193). -/
def Notices.pendingBits (n : Notices) : Nat :=
  (StreamCat.all.map fun c => if 0 < n.pendingStreams c then 2 ^ c.bit else 0).sum +
  (DeviceCat.all.map fun c => if 0 < n.device.get c then 2 ^ c.bit else 0).sum

/-- The 8 bytes of the pending set (section 11.4). -/
def Notices.pendingSet (n : Notices) : List Byte :=
  leBytes 2 n.pendingBits ++ StreamCat.all.map fun c => BitVec.ofNat 8 (n.pendingStreams c)

/-- The mask bit of POWER, which always reads as enabled (R195, R196). -/
def powerBit : BitVec 11 := 0x400#11

/-- ATTN# asserted: a filled outbound slot, or an enabled category pending, or POWER pending (R190). -/
def State.attn (s : State) : Bool :=
  !s.ctl.out.isEmpty ||
  (s.notices.mask &&& BitVec.ofNat 11 s.notices.pendingBits != 0#11) ||
  decide (0 < s.notices.device.power)

end Sys2Proof.Machine
end

