-- ==== Sys2Proof/Machine/Memory.lean ====
section
/-! DEFINITION. Capture memory with its code, staging and replay parity, error counting and injection
(chapters 1 and 8). -/

namespace Sys2Proof.Machine

/-! ### Error counting -/

/-- An address capture after an error at `a` (R157). -/
def captureAddr (mode : CaptureMode) (held : Option Nat) (a : Nat) : Option Nat :=
  match mode, held with
  | .first, some h => some h
  | .first, none => some a
  | .last, _ => some a

/-- Count a corrected error of a memory at an address (R157). -/
def State.countCorrected (s : State) (m : MemId) (a : Nat) : State :=
  s.modMon m fun x =>
    { x with corrected := inc16 x.corrected, corrAddr := captureAddr x.mode x.corrAddr a }

/-- Count an uncorrectable error of a memory at an address; each raises MEMORY (R157). -/
def State.countUncorrectable (s : State) (m : MemId) (a : Nat) : State :=
  (s.modMon m fun x =>
    { x with uncorrectable := satAdd 255 x.uncorrectable 1,
             uncorrAddr := captureAddr x.mode x.uncorrAddr a }).raiseDev .memory

/-! ### Injection -/

/-- The positions an arming inverts: one, or two when b is given and differs from a (R172). -/
def Arming.positions (g : Arming) : List Nat :=
  match g.b with
  | none => [g.a]
  | some b => if b = g.a then [g.a] else [g.a, b]

/-- Disarm a memory whose flip has been applied and raise INJECTION (R173). -/
def State.disarm (s : State) (m : MemId) : State :=
  (s.modMon m fun x => { x with arming := none }).raiseDev .injection

/-- Invert bit `q` of a string of bytes, counted from byte `base`: byte q ÷ 8, bit q mod 8 (R172). -/
def flipBit (bs : List Byte) (base q : Nat) : List Byte :=
  bs.modify (base + q / 8) fun x => x ^^^ (1#8 <<< (q % 8))

/-- Invert the parity bit of one word. -/
def flipParity (ps : List Bool) (w : Nat) : List Bool := ps.modify w (!·)

/-! ### Capture memory -/

/-- The stored byte at an address; a byte nothing has written is 0 (log 1). -/
def Memory.byteAt (m : Memory) (a : Nat) : Byte := sparseRead 0#8 m.cells a

/-- The deviation of a stored word. -/
def Memory.errAt (m : Memory) (w : Nat) : WordErr := sparseRead .clean m.errs w

/-- Capture memory is in its canonical form. -/
def Memory.wf (m : Memory) : Bool := sparseWfFrom 0#8 0 m.cells && sparseWfFrom .clean 0 m.errs

/-- Write bytes one after another from an address. -/
def writeCells (cells : List Host.Cell) (a : Nat) : List Byte → List Host.Cell
  | [] => cells
  | b :: bs => writeCells (sparseWrite 0#8 cells a b) (a + 1) bs

/-- Write one whole word with its deviation (R158: a word is always written whole). -/
def Memory.writeWord (m : Memory) (w : Nat) (bytes : List Byte) (e : WordErr) : Memory where
  cells := writeCells m.cells (8 * w) bytes
  errs := sparseWrite .clean m.errs w e

/-- Invert one stored bit of a word: data bits 0 to 63, check bits from 64 on. -/
def Memory.flip (m : Memory) (w bit : Nat) : Memory :=
  let e := m.errAt w
  if bit < 64 then
    let a := 8 * w + bit / 8
    { cells := sparseWrite 0#8 m.cells a (m.byteAt a ^^^ (1#8 <<< (bit % 8))),
      errs := sparseWrite .clean m.errs w { e with data := e.data ^^^ (1#64 <<< bit) } }
  else
    { m with errs := sparseWrite .clean m.errs w { e with check := e.check ^^^ (1#8 <<< (bit - 64)) } }

/-- The four outcomes of decoding a word (R158). -/
inductive WordOutcome where
  | clean | corrected | uncorrectable | poison
  deriving DecidableEq, Repr

/-- The number of bits set. -/
def bitCount {w : Nat} (x : BitVec w) : Nat := ((List.range w).filter fun i => x.getLsbD i).length

/-- The number of bits of a stored word that are in error. -/
def WordErr.bits (e : WordErr) : Nat := bitCount e.data + bitCount e.check

/-- Decode a word (R158). Three or more bits in error are outside the rule: FREE VALUE (log 5). -/
def WordErr.outcome (e : WordErr) : WordOutcome :=
  if e.poison then .poison
  else if e.bits = 0 then .clean
  else if e.bits = 1 then .corrected
  else if e.bits = 2 then .uncorrectable
  else match Config.multiBitOutcome e.data e.check with
    | .looksClean => .clean
    | .looksCorrected => .corrected
    | .uncorrectable => .uncorrectable

/-- The eight stored bytes of a word as one number, the lowest address least significant. -/
def Memory.wordAt (m : Memory) (w : Nat) : BitVec 64 :=
  BitVec.ofNat 64 (leNat ((List.range 8).map fun i => m.byteAt (8 * w + i)))

/-- The byte a read delivers at an address: corrected when one bit of its word is in error (R158). -/
def Memory.delivered (m : Memory) (a : Nat) : Byte :=
  let e := m.errAt (a / 8)
  if e.bits ≤ 2 then
    if e.outcome = .corrected then m.byteAt a ^^^ (e.data >>> (8 * (a % 8))).setWidth 8
    else m.byteAt a
  else (Config.multiBitData (m.wordAt (a / 8)) e.data e.check >>> (8 * (a % 8))).setWidth 8

/-- The words of unit `u` that an access of `len` bytes at `addr` reads (R158, R159). -/
def unitWords (addr len u : Nat) : List Nat :=
  ((List.range 8).map (8 * u + ·)).filter fun w => decide (8 * w < addr + len) && decide (addr < 8 * w + 8)

/-- The outcome of a unit over the words of it that an access reads (R159). -/
def Memory.unitOutcome (m : Memory) (addr len u : Nat) : WordOutcome :=
  let outs := (unitWords addr len u).map fun w => (m.errAt w).outcome
  if outs.contains .uncorrectable then .uncorrectable
  else if outs.contains .poison then .poison
  else if outs.contains .corrected then .corrected
  else .clean

/-- The units an access meets, ascending. -/
def unitsOf (addr len : Nat) : List Nat :=
  if len = 0 then [] else List.range' (addr / 64) ((addr + len - 1) / 64 - addr / 64 + 1)

/-- The units of an access whose samples are unusable: uncorrectable or poison (R160, R161). -/
def Memory.badUnits (m : Memory) (addr len : Nat) : List Nat :=
  (unitsOf addr len).filter fun u =>
    m.unitOutcome addr len u == .uncorrectable || m.unitOutcome addr len u == .poison

/-- The units of an access that are uncorrectable (R159, R165). -/
def Memory.lostUnits (m : Memory) (addr len : Nat) : List Nat :=
  (unitsOf addr len).filter fun u => m.unitOutcome addr len u == .uncorrectable

/-- Count the errors of the units an access reads (R159). That errors counted together are counted in ascending
order is the model's choice: R157 allows either order (DESIGN CHOICE, log 39). -/
def State.countUnits (s : State) (addr len : Nat) : List Nat → State
  | [] => s
  | u :: us =>
    match s.mem.unitOutcome addr len u with
    | .uncorrectable => (s.countUncorrectable .capture (64 * u)).countUnits addr len us
    | .corrected => (s.countCorrected .capture (64 * u)).countUnits addr len us
    | _ => s.countUnits addr len us

/-- The damage fill value as the bytes of one sample (R160). -/
def fillBytes (w : Width) (v : Nat) : List Byte := leBytes w.bytes v

/-- For each sample of an access in ascending order: is it replaced (R160, R161)? -/
def Memory.replaced (m : Memory) (addr len : Nat) (w : Width) : List Bool :=
  let bad := m.badUnits addr len
  (List.range (len / w.bytes)).map fun i => bad.contains ((addr + i * w.bytes) / 64)

/-- The bytes an access delivers, fill values included (R160, R161). -/
def Memory.readSamples (m : Memory) (addr len : Nat) (w : Width) (fill : Nat) : List Byte :=
  let bad := m.badUnits addr len
  (List.range (len / w.bytes)).flatMap fun i =>
    let a := addr + i * w.bytes
    if bad.contains (a / 64) then fillBytes w fill
    else (List.range w.bytes).map fun j => m.delivered (a + j)

/-! ### Parity -/

/-- The parity of a string of bytes: odd number of ones. -/
def parityOf (bs : List Byte) : Bool := (bs.map fun b => bitCount b).sum % 2 == 1

/-- The parity bits of a string of bytes by 8-byte words. -/
def parityBits (bs : List Byte) : List Bool :=
  (List.range (bs.length / 8)).map fun w => parityOf (slice bs (8 * w) 8)

/-! ### Staging buffers (R166) -/

/-- Write bytes at the end of a staging buffer and set the parity of every word they touch over all its 8
bytes as they then stand (R166). -/
def StageBuf.append (b : StageBuf) (bs : List Byte) : StageBuf :=
  let lines := roundUp (b.count + bs.length) 64
  let data := overwrite (b.data ++ zeros (lines - b.data.length)) b.count bs
  let parity := b.parity ++ List.replicate (lines / 8 - b.parity.length) false
  let touched := List.range' (b.count / 8) ((b.count + bs.length - 1) / 8 - b.count / 8 + 1)
  { count := b.count + bs.length,
    data := data,
    parity := touched.foldl (fun ps w => ps.set w (parityOf (slice data (8 * w) 8))) parity }

/-- A word of a staging buffer as it stands has the parity stored for it (R166). -/
def StageBuf.wordOk (b : StageBuf) (w : Nat) : Bool :=
  parityOf (slice b.data (8 * w) 8) == b.parity.getD w false

/-- The bytes of a word as a flush writes them: those staged, then zero bytes (R33). -/
def StageBuf.flushWord (b : StageBuf) (w : Nat) : List Byte :=
  (List.range 8).map fun i => if 8 * w + i < b.count then b.data.getD (8 * w + i) 0#8 else 0#8

/-- The parity check of a word at a flush, over the bytes staged and the zero bytes added (R166). -/
def StageBuf.flushOk (b : StageBuf) (w : Nat) : Bool :=
  parityOf (b.flushWord w) == b.parity.getD w false

/-- The words a flush of the buffer writes (R33). -/
def StageBuf.words (b : StageBuf) : Nat := (b.count + 7) / 8

/-- Invert the bits of an arming in the 64-byte line that holds byte `start` (R173). -/
def StageBuf.inject (b : StageBuf) (start : Nat) (g : Arming) : StageBuf :=
  let line := start / 64
  g.positions.foldl (fun b q =>
    if g.check then { b with parity := flipParity b.parity (8 * line + q) }
    else { b with data := flipBit b.data (64 * line) q }) b

/-! ### A flush (R32, R33, R167, R173) -/

/-- The words of a flush to byte address `addr` whose parity fails. -/
def StageBuf.badWords (b : StageBuf) : List Nat := (List.range b.words).filter fun w => !b.flushOk w

/-- The units a flush writes as poison, ascending, each with the address of its first failing word (R167). -/
def StageBuf.poisonUnits (b : StageBuf) (addr : Nat) : List (Nat × Nat) :=
  b.badWords.foldl (fun acc w =>
    let u := (addr / 8 + w) / 8
    if acc.any (fun p => p.1 == u) then acc else acc ++ [(u, addr + 8 * w)]) []

/-- The deviation the armed flip of CAPTURE leaves in the word that takes it (R173). -/
def Arming.wordErr (g : Arming) (poison : Bool) : WordErr :=
  g.positions.foldl (fun e q =>
    if g.check then { e with check := e.check ^^^ (1#8 <<< q) }
    else { e with data := e.data ^^^ (1#64 <<< q) }) ⟨0#64, 0#8, poison⟩

/-- A word's bytes with the data bits of an arming inverted. -/
def Arming.flipBytes (g : Arming) (bs : List Byte) : List Byte :=
  if g.check then bs else g.positions.foldl (fun bs q => flipBit bs 0 q) bs

/-- Write the words of a flush from number `j` on; the first word written takes the armed flip (R158, R167,
R173). A poison word holds zero bytes in place of its data. -/
def writeFlushWords (b : StageBuf) (addr : Nat) (poison : List Nat) (arm : Option Arming) (m : Memory) :
    Nat → List Nat → Memory
  | _, [] => m
  | n, w :: ws =>
    let word := addr / 8 + w
    let isPoison := poison.contains (word / 8)
    let bytes := if isPoison then zeros 8 else b.flushWord w
    let m' := match n, arm with
      | 0, some g => m.writeWord word (g.flipBytes bytes) (g.wordErr isPoison)
      | _, _ => m.writeWord word bytes ⟨0#64, 0#8, isPoison⟩
    writeFlushWords b addr poison arm m' (n + 1) ws

/-- Write a staging buffer to capture memory at byte address `addr`: units with a parity error as poison,
one STAGING uncorrectable error counted for each, the CAPTURE injection taken by the first word. R157 allows
the errors either order; ascending is the model's choice (DESIGN CHOICE, log 39). -/
def State.writeFlush (s : State) (b : StageBuf) (addr : Nat) : State :=
  let units := b.poisonUnits addr
  let arm := s.integ.capture.arming
  let s1 := { s with mem := writeFlushWords b addr (units.map (·.1)) arm s.mem 0 (List.range b.words) }
  let s2 := if arm.isSome && decide (0 < b.words) then s1.disarm .capture else s1
  units.foldl (fun s p => s.countUncorrectable .staging p.2) s2

end Sys2Proof.Machine
end

