-- ==== Sys2Proof/Machine/Blocks.lean ====
section
/-! DEFINITION. The block manager (chapter 1): the block table as a view of the pools, the capture list, the
take, the victim take, the seal, the abort release and the release scan. -/

namespace Sys2Proof.Machine

/-! ### Coverage (R8) -/

/-- The coverage end of an entry. -/
def Entry.covEnd (e : Entry) : Nat := e.first + e.kept * 2 ^ e.k

/-- The first covered index of an entry. -/
def Entry.firstCovered (e : Entry) : Nat := e.first - gapLen e.gap

/-- The entry's data coverage contains an index. -/
def Entry.dataHas (e : Entry) (i : Nat) : Bool := decide (e.first ≤ i) && decide (i < e.covEnd)

/-- The entry's whole coverage contains an index. -/
def Entry.covers (e : Entry) (i : Nat) : Bool := decide (e.firstCovered ≤ i) && decide (i < e.covEnd)

/-! ### The block table (R2), a view of the pools' lists (R4, log 2) -/

/-- Places of a block (R2). -/
inductive Place where
  | unassigned | spare | listed | retired
  deriving DecidableEq, Repr

/-- The place of a block in a stream's pool, unassigned when the pool does not hold it. -/
def Stream.placeOf (x : Stream) (b : Nat) : Place :=
  if x.spare.contains b then .spare
  else if x.capture.any (fun e => e.block == b) then .listed
  else if x.retired.contains b then .retired
  else .unassigned

/-- The owner of a block: the stream one of whose lists holds it (R2, R4). -/
def State.ownerOf (s : State) (b : Nat) : Option StreamId :=
  StreamId.all.find? fun i => (s.stream i).placeOf b != .unassigned

/-- The place of a block (R2). -/
def State.placeOf (s : State) (b : Nat) : Place :=
  match s.ownerOf b with
  | none => .unassigned
  | some i => (s.stream i).placeOf b

/-! ### Pool rebuild (R3) -/

/-- The blocks of a pool, the lowest-numbered first. -/
def poolBlocks (base count : Nat) : List Nat := List.range' base count

/-! ### Take and victim take -/

/-- A fresh FILLING entry (R10). -/
def freshEntry (block first k : Nat) (gap : Option Gap) : Entry where
  block := block
  st := .filling
  first := first
  k := k
  kept := 0
  gap := gap
  pins := 0
  retire := false

/-- A take (R10): the block on top of the spare list is appended as the FILLING tail. None when the spare
list is empty. RING_HIGH is raised when the append brings the list to the high mark (R36). -/
def State.take (s : State) (i : StreamId) (first k : Nat) (gap : Option Gap) : Option State :=
  match (s.stream i).spare with
  | [] => none
  | b :: rest =>
    let x := s.stream i
    let list := x.capture ++ [freshEntry b first k gap]
    let s1 := s.setStream i { x with spare := rest, capture := list }
    some (if list.length = x.cfg.high then s1.raise i .ringHigh else s1)

/-- The entry a victim take would reuse (R13): FULL with pin count 0. -/
def Entry.isVictim (e : Entry) : Bool := e.st == .full && e.pins == 0

/-- The gap_before of the entry after a victim: it grows at its lower end by the victim's whole coverage, and
the victim's causes and RING_FULL_OLD join its own (R13; DEDUCED, log 32). -/
def Entry.absorb (e victim : Entry) : Entry :=
  { e with gap := some ⟨gapLen e.gap + (victim.covEnd - victim.firstCovered),
                        ((gapCauses e.gap).union (gapCauses victim.gap)).union .oldOnly⟩ }

/-- The capture list after a victim take with the writer's first index and k (R13): the victim's coverage
passes to the entry after it, or, when the victim is the tail, to its own fresh gap_before. Answers
the list and the block taken; none when no entry is a victim. -/
def victimList (first k : Nat) : List Entry → Option (List Entry × Nat)
  | [] => none
  | e :: rest =>
    if e.isVictim then
      match rest with
      | [] =>
        some ([freshEntry e.block first k
          (some ⟨first - e.firstCovered, (gapCauses e.gap).union .oldOnly⟩)], e.block)
      | f :: more => some (f.absorb e :: more ++ [freshEntry e.block first k none], e.block)
    else
      match victimList first k rest with
      | none => none
      | some (list, b) => some (e :: list, b)

/-- A victim take (R13, R42); GAP is raised. None when no entry qualifies. -/
def State.victimTake (s : State) (i : StreamId) (first k : Nat) : Option State :=
  match victimList first k (s.stream i).capture with
  | none => none
  | some (list, _) => some ((s.modStream i fun x => { x with capture := list }).raise i .gap)

/-- The tail of a list changed by `f`. -/
def modifyLast {α : Type} (f : α → α) : List α → List α
  | [] => []
  | [x] => [f x]
  | x :: y :: rest => x :: modifyLast f (y :: rest)

/-- The tail entry of the capture list. -/
def Stream.tail (x : Stream) : Option Entry := x.capture.getLast?

/-- The seal (R11): the FILLING tail becomes FULL. -/
def sealTail (list : List Entry) : List Entry :=
  modifyLast (fun e => if e.st = .filling then { e with st := .full } else e) list

/-! ### Release -/

/-- The head may be released (R14): DRAINED, wholly below the commit index, not pinned. With `all` the
bound is waived, as when the stream becomes IDLE (R17, log 8). -/
def Entry.releasable (e : Entry) (all : Bool) (commit : Nat) : Bool :=
  e.st == .drained && (all || decide (e.covEnd ≤ commit)) && e.pins == 0

/-- What the release scan leaves of a capture list, and the entries it releases, head first (R14). -/
def releaseSplit (all : Bool) (commit : Nat) : List Entry → List Entry × List Entry
  | [] => ([], [])
  | e :: rest =>
    if e.releasable all commit then
      let r := releaseSplit all commit rest
      (e :: r.1, r.2)
    else ([], e :: rest)

/-- A released block goes to the retired set if it carries the retire mark, raising MEMORY, or else to
the top of the spare list (R15). -/
def State.releaseBlock (s : State) (i : StreamId) (e : Entry) : State :=
  if e.retire then
    (s.modStream i fun x => { x with retired := e.block :: x.retired }).raiseDev .memory
  else s.modStream i fun x => { x with spare := e.block :: x.spare }

/-- The release scan of a stream (R14, R15). -/
def State.releaseScan (s : State) (i : StreamId) (all : Bool) : State :=
  let x := s.stream i
  let r := releaseSplit all x.commitIndex x.capture
  r.1.foldl (fun s e => s.releaseBlock i e) (s.setStream i { x with capture := r.2 })

/-! ### Abort (R16) -/

/-- An abort frees the FILLING and FULL entries. -/
def Entry.freedByAbort (e : Entry) : Bool := e.st == .filling || e.st == .full

/-- The capture list after an abort: DRAINING becomes DRAINED, FILLING and FULL are gone. -/
def abortList (list : List Entry) : List Entry :=
  (list.filter fun e => !e.freedByAbort).map fun e =>
    if e.st = .draining then { e with st := .drained } else e

/-- The blocks an abort frees, in list order. -/
def abortFreed (list : List Entry) : List Entry := list.filter Entry.freedByAbort

/-! ### Pins and retire marks -/

/-- Place a pin on the entries of the named blocks (R23). -/
def pinBlocks (blocks : List Nat) (list : List Entry) : List Entry :=
  list.map fun e => if blocks.contains e.block then { e with pins := e.pins + 1 } else e

/-- Remove a pin from the entries of the named blocks that are still listed (R24). -/
def unpinBlocks (blocks : List Nat) (list : List Entry) : List Entry :=
  list.map fun e => if blocks.contains e.block then { e with pins := e.pins - 1 } else e

/-- Set the retire mark of a block's entry (R165). -/
def markRetire (block : Nat) (list : List Entry) : List Entry :=
  list.map fun e => if e.block = block then { e with retire := true } else e

end Sys2Proof.Machine
end

