-- ==== Sys2Proof/Machine/Windows.lean ====
section
/-! DEFINITION. The placement unit (chapter 6): windows, placement, dead spans, the rate meter, the low state. -/

namespace Sys2Proof.Machine

/-- A window's remainder (R108). -/
def Window.remainder (w : Window) : Nat := w.length - w.next

/-- The remaining bytes: the current window's remainder plus the lengths of those behind it (R118). -/
def Placement.remaining (p : Placement) : Nat :=
  match p.windows with
  | [] => 0
  | w :: rest => w.remainder + (rest.map (·.length)).sum

/-- The threshold: the latched rate times the lead time, saturating at 2^48 − 1 (R118). -/
def threshold (latched lead : Nat) : Nat := min 281474976710655 (latched * lead)

/-- The remaining bytes stand below the threshold. -/
def State.belowThreshold (s : State) : Bool :=
  decide (s.place.remaining < threshold s.place.latchedRate s.ctl.timing.lead)

/-- An evaluation of the low state; WINDOW_LOW is raised on a fall from ABOVE to BELOW (R119). -/
def State.evalLow (s : State) : State :=
  let below := s.belowThreshold
  let s1 := s.modPlace fun p => { p with low := below }
  if below && !s.place.low then s1.raiseDev .windowLow else s1

/-- The windows after the misfit retirement a request of `size` bytes makes, and the bytes abandoned (R112). -/
def retireMisfit (size : Nat) : List Window → List Window × Nat
  | [] => ([], 0)
  | w :: rest => if w.remainder < size then (rest, w.remainder) else (w :: rest, 0)

/-- Serve a request from the current window (R111): the address, and the windows after it; a window whose
remainder becomes 0 is retired. None when no window is listed or the current one is too small. -/
def serveWindow (size : Nat) : List Window → Option (Nat × List Window)
  | [] => none
  | w :: rest =>
    if w.remainder < size then none
    else if w.remainder = size then some (w.start + w.next, rest)
    else some (w.start + w.next, { w with next := w.next + size } :: rest)

/-- A placement request (R111, R112, R113): the address, or none with the device STARVED. WINDOW_EMPTY is
raised at the entry to STARVED only. The low state is evaluated after the request (R115, R119). -/
def State.placeRequest (s : State) (size : Nat) : State × Option Nat :=
  let r := retireMisfit size s.place.windows
  let s1 := s.modPlace fun p =>
    { p with windows := r.1, abandoned := satAdd 281474976710655 p.abandoned r.2 }
  match serveWindow size r.1 with
  | some (a, ws) => ((s1.modPlace fun p => { p with windows := ws }).evalLow, some a)
  | none =>
    let s2 := s1.modPlace fun p => { p with starved := true }
    let s3 := if s.place.starved then s2 else s2.raiseDev .windowEmpty
    (s3.evalLow, none)

/-- A dead span reported by the archive link controller (R116). -/
def State.deadSpan (s : State) (address size : Nat) : State :=
  s.modPlace fun p =>
    { p with dead := satAdd 281474976710655 p.dead size, lastDead := some ⟨address, size⟩ }

/-- Bytes of a record that has left the commit list, into the rate counter (R118). -/
def State.countRate (s : State) (size : Nat) : State :=
  s.modPlace fun p => { p with rateCounter := satAdd 1099511627775 p.rateCounter size }

/-- The end of a gate (R118, R119). -/
def State.gateEnd (s : State) : State :=
  (s.modPlace fun p => { p with latchedRate := p.rateCounter, rateCounter := 0 }).evalLow

/-- Two ranges of `len` bytes share a byte. -/
def rangesMeet (a lenA b lenB : Nat) : Bool := decide (max a b < min (a + lenA) (b + lenB))

/-- A commit-list entry's archive range shares a byte with [start, start + length) (R109). -/
def CommitEntry.meets (e : CommitEntry) (start length : Nat) : Bool :=
  match e.addr with
  | none => false
  | some a => rangesMeet a e.size start length

/-- A granted range shares a byte with a listed window or with the range of an entry (R109 order 4). -/
def State.grantOverlaps (s : State) (start length : Nat) : Bool :=
  s.place.windows.any (fun w => rangesMeet w.start w.length start length) ||
  s.link.commit.any (fun e => e.meets start length)

end Sys2Proof.Machine
end

