-- ==== Sys2Proof/Machine/Replies.lean ====
section
/-! DEFINITION. Outbound frames of the control link: reply statuses, the common fields, the frame bytes and the
outbound reply queue (R180 to R184, R207). -/

namespace Sys2Proof.Machine

/-- Reply statuses (R184). -/
inductive Status where
  | ok | busy | state | range | overlap | full | held | unknown | length | gone | timeout
  deriving DecidableEq, Repr

/-- Chapter 11, "Reply status". -/
def Status.code : Status → Nat
  | .ok => 0
  | .busy => 1
  | .state => 2
  | .range => 3
  | .overlap => 4
  | .full => 5
  | .held => 6
  | .unknown => 7
  | .length => 8
  | .gone => 9
  | .timeout => 10

/-- A frame's body goes to the short queue (R178). -/
def InFrame.isShort (f : InFrame) : Bool := decide (f.body.length ≤ 32)

/-- Frames held in the short queue. -/
def Control.shortUsed (c : Control) : Nat := (c.inbound.filter InFrame.isShort).length

/-- Frames held in the long queue. -/
def Control.longUsed (c : Control) : Nat := (c.inbound.filter fun f => !f.isShort).length

/-- Free slots of the short queue (R178, R183). -/
def Control.shortFree (c : Control) : Nat := shortSlots - c.shortUsed

/-- Free slots of the long queue (R178, R183). -/
def Control.longFree (c : Control) : Nat := longSlots - c.longUsed

/-- An outbound frame: opener 0x7A, kind, tag, body length, body, CRC (R177, R180). -/
def outFrame (kind tag : Byte) (body : List Byte) : List Byte :=
  let checked := kind :: tag :: (leBytes 2 body.length ++ body)
  0x7A#8 :: (checked ++ leBytes 2 (crc16 checked).toNat)

/-- The four bytes every reply body begins with (section 11.4). -/
def Control.common (c : Control) (st : Status) : List Byte :=
  [BitVec.ofNat 8 st.code, BitVec.ofNat 8 c.shortFree, BitVec.ofNat 8 c.longFree, 0#8]

/-- The reply kind of a request kind: bit 7 set (R207). -/
def replyKind (kind : Byte) : Byte := kind ||| 0x80#8

/-- The reply frame of a request as it would be built now (R207). -/
def Control.replyFrame (c : Control) (kind tag : Byte) (st : Status) (fields : List Byte) : List Byte :=
  outFrame (replyKind kind) tag (c.common st ++ fields)

/-- A reply is built into its reservation: the slot becomes filled (R181, R185). -/
def Control.reply (c : Control) (kind tag : Byte) (st : Status) (fields : List Byte) : Control :=
  { c with out := c.out ++ [⟨c.replyFrame kind tag st fields, false⟩], reserved := c.reserved - 1 }

/-- A reply of the whole part (R185). -/
def State.reply (s : State) (kind tag : Byte) (st : Status) (fields : List Byte) : State :=
  s.modCtl fun c => c.reply kind tag st fields

/-- A refusal: the common fields alone (R207). -/
def State.refuse (s : State) (kind tag : Byte) (st : Status) : State := s.reply kind tag st []

/-- Request kinds (section 11.3). -/
def kindIdent : Byte := 0x01#8
def kindStreamSetup : Byte := 0x02#8
def kindAuxRoute : Byte := 0x03#8
def kindRunStart : Byte := 0x04#8
def kindRunStop : Byte := 0x05#8
def kindRunAbort : Byte := 0x06#8
def kindDrainResume : Byte := 0x07#8
def kindMarkNow : Byte := 0x08#8
def kindWindowGrant : Byte := 0x09#8
def kindLinkControl : Byte := 0x0A#8
def kindSync : Byte := 0x0B#8
def kindPreview : Byte := 0x0C#8
def kindStatus : Byte := 0x0D#8
def kindNoticeMask : Byte := 0x0E#8
def kindNoticeTake : Byte := 0x0F#8
def kindErrorSetup : Byte := 0x10#8
def kindErrorRead : Byte := 0x11#8
def kindInject : Byte := 0x12#8
def kindTimingSet : Byte := 0x13#8
def kindReset : Byte := 0x14#8

/-- A 6-byte field followed by two zero bytes (chapter 11, "8-byte slot"). -/
def slot8 (x : Nat) : List Byte := leBytes 6 x ++ zeros 2

/-- The slot of the remaining bytes (sections 11.4, 11.5). Two windows may leave 2^48 of them (R120), which 6
bytes cannot hold: FREE VALUE (log 33). -/
def slotRemaining (n : Nat) : List Byte :=
  if n < 2 ^ 48 then slot8 n else slot8 (Config.remainingField n).toNat

/-- A one-byte field. -/
def byteField (x : Nat) : List Byte := leBytes 1 x

/-- The stream a request byte names; none above 3. -/
def streamOf (b : Byte) : Option StreamId := StreamId.ofNum b.toNat

end Sys2Proof.Machine
end

