-- ==== Sys2Proof/Machine/Preview.lean ====
section
/-! DEFINITION. PREVIEW (section 1.9): the span, the preview reader, staging reads and the reply. -/

namespace Sys2Proof.Machine

/-! ### The span -/

/-- The segments of a NEWEST span, walking from the tail (the list is newest first) until `n` samples are
held (R21). The answer is in ascending order, with the index of its first sample. -/
def newestSegs : List Entry → Nat → Option (List Seg × Nat)
  | [], _ => none
  | e :: older, n =>
    let m := min n e.kept
    let here : List Seg := [.held e.block (e.kept - m) m]
    let start := e.first + (e.kept - m) * 2 ^ e.k
    if m < n && e.gap.isNone && (match older with | [] => false | o :: _ => decide (o.k = e.k)) then
      match newestSegs older (n - m) with
      | none => some (here, start)
      | some (segs, f) => some (segs ++ here, f)
    else some (here, start)

/-- The segments of a FROM_INDEX span after its first entry: entries of exponent `k` without a gap_before
(R22). -/
def forwardSegs (k : Nat) : List Entry → Nat → List Seg
  | [], _ => []
  | e :: rest, n =>
    if n = 0 || e.gap.isSome || e.k ≠ k then []
    else
      let m := min n e.kept
      .held e.block 0 m :: forwardSegs k rest (n - m)

/-- The entries from the first one whose whole coverage contains `i` on (R22). -/
def fromCovering (i : Nat) : List Entry → List Entry
  | [] => []
  | e :: rest => if e.covers i then e :: rest else fromCovering i rest

/-- A span fixed at acceptance: its segments, its first index and its k. -/
structure SpanPlan where
  segs : List Seg
  first : Nat
  k : Nat
  deriving DecidableEq, Repr

/-- The NEWEST span (R21). -/
def Stream.newestPlan (x : Stream) (n : Nat) : SpanPlan :=
  match newestSegs x.capture.reverse n with
  | none => ⟨[], x.writer.index, x.writer.k⟩
  | some (segs, first) => ⟨segs, first, (x.tail.map (·.k)).getD x.writer.k⟩

/-- The FROM_INDEX span (R22). When no entry's coverage contains `i`, the reply carries no sample, and its
k, to which R22 gives no value, is written as 0 (R207). -/
def Stream.fromPlan (x : Stream) (i n : Nat) : SpanPlan :=
  match fromCovering i x.capture with
  | [] => ⟨[], i, 0⟩
  | e :: rest =>
    let j := (i - e.first) / 2 ^ e.k
    let m := min n (e.kept - j)
    ⟨.held e.block j m :: forwardSegs e.k rest (n - m), e.first + j * 2 ^ e.k, e.k⟩

/-- The blocks a span meets (R23). -/
def Seg.blocks : List Seg → List Nat
  | [] => []
  | .held b _ n :: rest => if n = 0 then Seg.blocks rest else b :: Seg.blocks rest
  | .copied _ _ _ :: rest => Seg.blocks rest

/-- The oldest index held: the first index of the head entry, or the writer index (R20). -/
def Stream.oldestHeld (x : Stream) : Nat :=
  match x.capture with
  | [] => x.writer.index
  | e :: _ => e.first

/-! ### Staging reads (R23, R168) -/

/-- The staging buffers in the order their bytes reach the block (R33). -/
def Writer.stages (w : Writer) : List StageBuf := w.awaiting ++ [w.fillBuf]

/-- The buffer that holds the byte `rel` bytes above the fill offset, with the offset of the buffer's first
byte above the fill offset. -/
def locateStage : List StageBuf → Nat → Nat → Option (StageBuf × Nat)
  | [], _, _ => none
  | b :: rest, base, rel =>
    if rel < base + b.count then some (b, base) else locateStage rest (base + b.count) rel

/-- One sample read from staging: its bytes, and the offset above the fill offset of its word if that word
has a parity error (R168). -/
def Writer.stageSample (w : Writer) (width : Width) (fill rel : Nat) : List Byte × Option Nat :=
  match locateStage w.stages 0 rel with
  | none => (fillBytes width fill, none)
  | some (b, base) =>
    let o := rel - base
    if b.wordOk (o / 8) then (slice b.data o width.bytes, none)
    else (fillBytes width fill, some (base + o / 8 * 8))

/-- `n` samples read from staging from block offset `off` on: their bytes, the number replaced, and the
capture-memory addresses of the words found in error, each once (R23, R168). -/
def Writer.stageRead (w : Writer) (block : Nat) (width : Width) (fill off n : Nat) :
    List Byte × Nat × List Nat :=
  let got := (List.range n).map fun i => w.stageSample width fill (off + i * width.bytes - w.fillOffset)
  let bad := got.filterMap (·.2)
  (got.flatMap (·.1), bad.length, (bad.map (block * blockBytes + w.fillOffset + ·)).dedup)

/-- Count one STAGING uncorrectable error for each word in error (R168), in the order of the reply's samples:
R157 allows any (DESIGN CHOICE, log 39). -/
def State.countStaging (s : State) (addrs : List Nat) : State :=
  addrs.foldl (fun s a => s.countUncorrectable .staging a) s

/-! ### The preview reader -/

/-- The samples of a segment that are in capture memory now, out of `n` from kept sample `j` on: all but
those the writer still holds in staging for its FILLING block (R23). -/
def Stream.inMemory (x : Stream) (block j n : Nat) : Nat :=
  if x.writer.filling = some block then min n (x.writer.fillOffset / x.cfg.width.bytes - j) else n

/-- The access the preview reader asks the port for now, if it waits for one (R18): address and length. -/
def State.previewWants (s : State) : Option (Nat × Nat) :=
  match s.preview with
  | none => none
  | some p =>
    match p.segs with
    | .held b j n :: _ =>
      let x := s.stream p.stream
      let m := x.inMemory b j n
      if m = 0 then none else some (b * blockBytes + j * p.width.bytes, m * p.width.bytes)
    | _ => none

/-- The OK reply of a PREVIEW with the samples read so far (R24, section 11.5). -/
def Preview.fields (p : Preview) : List Byte :=
  byteField p.stream.num ++ byteField p.k ++ byteField p.width.code ++ zeros 1 ++
  slot8 p.first ++ leBytes 2 (p.data.length / p.width.bytes) ++ leBytes 2 p.replaced ++ zeros 12 ++ p.data

/-- A granted preview access no longer has a reader (R19). -/
def Port.orphanPreview (p : Port) : Port :=
  match p.granted with
  | some (.preview a l _) => { p with granted := some (.preview a l false) }
  | _ => p

/-- The PREVIEW replies OK with the samples read so far; its pins are removed and the release scan runs
(R24). -/
def State.previewReply (s : State) (p : Preview) : State :=
  let s1 := { s with preview := none, port := s.port.orphanPreview }
  let s2 := s1.modStream p.stream fun x => { x with capture := unpinBlocks p.pinned x.capture }
  (s2.releaseScan p.stream false).reply kindPreview p.tag .ok p.fields

/-- The preview reader goes on: samples it finds in staging are read without the port; it stops where the
next sample is in capture memory, and replies when the whole span is read (R23, R24). -/
def State.previewAdvance : Nat → State → State
  | 0, s => s
  | fuel + 1, s =>
    match s.preview with
    | none => s
    | some p =>
      match p.segs with
      | [] => s.previewReply p
      | .copied bs r lost :: rest =>
        let p' := { p with segs := rest, data := p.data ++ bs, replaced := p.replaced + r }
        State.previewAdvance fuel (({ s with preview := some p' }).countStaging lost)
      | .held b j n :: rest =>
        let x := s.stream p.stream
        if n = 0 then State.previewAdvance fuel { s with preview := some { p with segs := rest } }
        else if 0 < x.inMemory b j n then s
        else
          let r := x.writer.stageRead b p.width x.cfg.fillValue (j * p.width.bytes) n
          let p' := { p with segs := rest, data := p.data ++ r.1, replaced := p.replaced + r.2.1 }
          State.previewAdvance fuel (({ s with preview := some p' }).countStaging r.2.2)

/-- Let the preview reader go on as far as it can without the port. -/
def State.previewRun (s : State) : State :=
  match s.preview with
  | none => s
  | some p => s.previewAdvance (p.segs.length + 1)

/-- The first segment of a span with its first `m` samples read. -/
def Seg.advance (m : Nat) : List Seg → List Seg
  | .held b j n :: rest => if m < n then .held b (j + m) (n - m) :: rest else rest
  | segs => segs

/-- A preview access of `len` bytes at `addr` has delivered its samples (R23, R161). -/
def State.previewTake (s : State) (addr len : Nat) : State :=
  match s.preview with
  | none => s
  | some p =>
    let x := s.stream p.stream
    let m := len / p.width.bytes
    let p' := { p with
      segs := Seg.advance m p.segs,
      data := p.data ++ s.mem.readSamples addr len p.width x.cfg.fillValue,
      replaced := p.replaced + ((s.mem.replaced addr len p.width).filter id).length }
    (({ s with preview := some p' }).countUnits addr len (unitsOf addr len)).previewRun

/-- A segment of a block whose staged samples are about to be given up: those samples are copied, and their
errors stay uncounted until the preview reader reads them (R24, R168, log 10). -/
def Stream.snapSeg (x : Stream) (block : Nat) : Seg → List Seg
  | .held b j n =>
    let m := x.inMemory b j n
    if b = block ∧ m < n then
      let got := x.writer.stageRead b x.cfg.width x.cfg.fillValue ((j + m) * x.cfg.width.bytes) (n - m)
      (if m = 0 then [] else [.held b j m]) ++ [.copied got.1 got.2.1 got.2.2]
    else [.held b j n]
  | seg => [seg]

/-- An abort of stream `i` is about to empty its staging buffers: a PREVIEW of the stream keeps the staged
samples of its span (R24, log 10). The abort itself counts no error (R156). -/
def State.previewSnap (s : State) (i : StreamId) : State :=
  match s.preview, (s.stream i).writer.filling with
  | some p, some b =>
    if p.stream = i then
      { s with preview := some { p with segs := p.segs.flatMap ((s.stream i).snapSeg b) } }
    else s
  | _, _ => s

end Sys2Proof.Machine
end

