-- ==== Sys2Proof/Machine/Records.lean ====
section
/-! DEFINITION. Archive records: timestamps (R49, R50), sizes (R85), header, body and trailer bytes (section
11.1, R205), damage spans (R162, R163). -/

namespace Sys2Proof.Machine

/-! ### Timestamps -/

/-- The interval I_q, a fixed-point number with 24 fraction bits (R48). -/
def StreamCfg.interval (c : StreamCfg) : Nat := c.intervalInt * 16777216 + c.intervalFrac

/-- The largest timestamp, 2^64 − 1 (R50). -/
def maxStamp : Nat := 18446744073709551615

/-- T(n) before saturation: the epoch plus the truncated product (R49). -/
def Stream.exactTime (x : Stream) (n : Nat) : Nat := x.epoch + n * x.cfg.interval / 16777216

/-- The header of a record whose timestamp is of index `n` (R50, R51, R84). -/
def Stream.header (x : Stream) (n : Nat) (continuation : Bool) : RecHeader where
  runId := x.runId
  index := n
  stamp := min maxStamp (x.exactTime n)
  saturated := decide (maxStamp < x.exactTime n)
  continuation := continuation

/-! ### Sizes -/

/-- Record kinds (chapter 11). -/
def RecBody.kindCode : RecBody → Nat
  | .openRec .. => 1
  | .dataRec .. => 2
  | .gapRec .. => 3
  | .markRec .. => 4
  | .closeRec .. => 5

def RecBody.isData : RecBody → Bool
  | .dataRec .. => true
  | _ => false

/-- Payload bytes: kept count times width on DATA, 0 on every other kind (R84). -/
def RecBody.payload : RecBody → Nat
  | .dataRec _ _ kept w _ => kept * w.bytes
  | _ => 0

/-- The record size (R85): header, payload and trailer rounded up to 512; other kinds take 512 bytes. -/
def RecBody.size (b : RecBody) : Nat :=
  if b.isData then roundUp (64 + b.payload + 72) 512 else 512

/-- Source runs of a record; none but on DATA (R95). -/
def RecBody.runs : RecBody → List SrcRun
  | .dataRec _ _ _ _ runs => runs
  | _ => []

/-! ### Bytes -/

/-- Pad a region with zero bytes to its length. -/
def padTo (n : Nat) (bs : List Byte) : List Byte := bs ++ zeros (n - bs.length)

/-- The 64 header bytes (section 11.1). -/
def CommitEntry.headerBytes (e : CommitEntry) : List Byte :=
  padTo 64 (leBytes 2 0xC35A ++ byteField e.body.kindCode ++ byteField e.stream.num ++
    leBytes 4 e.header.runId ++ leBytes 8 e.seq ++ leBytes 6 e.header.index ++
    leBytes 2 ((if e.header.saturated then 1 else 0) + (if e.header.continuation then 2 else 0)) ++
    leBytes 8 e.header.stamp ++ leBytes 4 e.size ++ leBytes 4 e.body.payload ++
    (match e.body with
      | .dataRec _ k kept w _ => byteField k ++ byteField w.code ++ zeros 2 ++ leBytes 4 kept
      | _ => []))

/-- The 376 body bytes of OPEN, GAP, MARK and CLOSE (section 11.1); DATA has none. -/
def CommitEntry.bodyBytes (e : CommitEntry) : List Byte :=
  match e.body with
  | .openRec start epoch ii fr w kmin kmax pol =>
    padTo 376 (leBytes 4 e.header.runId ++ slot8 start ++ leBytes 8 epoch ++ leBytes 4 ii ++ leBytes 4 fr ++
      byteField w.code ++ byteField kmin ++ byteField kmax ++ byteField pol.code)
  | .dataRec .. => []
  | .gapRec first len causes k =>
    padTo 376 (slot8 first ++ slot8 len ++ byteField causes.code ++ byteField k)
  | .markRec index source lost =>
    padTo 376 (leBytes 6 index ++ byteField source.code ++ zeros 1 ++ leBytes 2 lost)
  | .closeRec endIndex reason kept covered gapTotal discarded =>
    padTo 376 (leBytes 6 endIndex ++ byteField reason.code ++ zeros 1 ++ slot8 kept ++ slot8 covered ++
      slot8 gapTotal ++ leBytes 2 discarded)

/-- The first 68 bytes of a trailer with the given damage (section 11.1): all zero but on DATA. -/
def trailerHead (isData : Bool) (spans : List Span) (overflow : Bool) : List Byte :=
  if isData then
    padTo 68 (byteField spans.length ++ [boolByte overflow] ++ zeros 2 ++
      spans.flatMap fun p => leBytes 4 p.off ++ leBytes 4 p.count)
  else zeros 68

/-- A record byte is payload (section 11.1). -/
def CommitEntry.isPayload (e : CommitEntry) (p : Nat) : Bool :=
  decide (64 ≤ p) && decide (p < 64 + e.body.payload)

/-- A record byte that is neither payload nor CRC: header, body, padding or trailer (R132, R205). -/
def CommitEntry.fixedByte (e : CommitEntry) (head body trailer : List Byte) (p : Nat) : Byte :=
  if p < 64 then head.getD p 0#8
  else if e.size - 72 ≤ p then trailer.getD (p - (e.size - 72)) 0#8
  else body.getD (p - 64) 0#8

/-! ### Damage spans -/

/-- The end of a span. -/
def Span.stop (p : Span) : Nat := p.off + p.count

/-- Put a span into the held spans of a transfer, kept ascending, joining spans that touch (R160). -/
def holdSpan (p : Span) : List Span → List Span
  | [] => [p]
  | q :: rest =>
    if p.stop < q.off then p :: q :: rest
    else if q.stop < p.off then q :: holdSpan p rest
    else holdSpan ⟨min p.off q.off, max p.stop q.stop - min p.off q.off⟩ rest

/-- The held spans of replaced samples from payload sample `p` on (R160). -/
def holdReplaced (p : Nat) : List Bool → List Span → List Span
  | [], held => held
  | true :: more, held => holdReplaced (p + 1) more (holdSpan ⟨p, 1⟩ held)
  | false :: more, held => holdReplaced (p + 1) more held

/-- Take the samples [a, b) out of the held spans (R136: spans found again replace those of the range). -/
def dropHeld (a b : Nat) (held : List Span) : List Span :=
  held.flatMap fun p =>
    (if p.off < a then [⟨p.off, min p.stop a - p.off⟩] else []) ++
    (if b < p.stop then [⟨max p.off b, p.stop - max p.off b⟩] else [])

/-- Add one held span to the spans of an entry (R162, R163): merged into the last when it begins at or
before its end, appended while fewer than 8 are held, else the eighth is extended and the overflow
flag set. -/
def addSpan (p : Span) (spans : List Span) (overflow : Bool) : List Span × Bool :=
  match spans.getLast? with
  | none => ([p], overflow)
  | some q =>
    if p.off ≤ q.stop then
      (modifyLast (fun q => { q with count := max q.stop p.stop - q.off }) spans, overflow)
    else if spans.length < 8 then (spans ++ [p], overflow)
    else (modifyLast (fun q => { q with count := max q.stop p.stop - q.off }) spans, true)

/-- Add held spans in ascending offset (R162). -/
def addSpans (held : List Span) (spans : List Span) (overflow : Bool) : List Span × Bool :=
  held.foldl (fun acc p => addSpan p acc.1 acc.2) (spans, overflow)

end Sys2Proof.Machine
end

