-- ==== Sys2Proof/Machine/Port.lean ====
section
/-! DEFINITION. Building transfers in the replay buffer (R130 to R133, R169) and the memory port arbiter (R18,
R19): what follows at once when an entry, a buffer or the port comes free. -/

namespace Sys2Proof.Machine

/-! ### Transfers -/

/-- The transfer state at the cut, at a re-placement and at a return (R128). -/
def Xfer.start : Xfer := ⟨0, false, 0, [], false, crc32Start, []⟩

/-- The length of the next transfer (R131). -/
def CommitEntry.transferLen (e : CommitEntry) : Nat :=
  if !e.xfer.narrow && decide (4096 ≤ e.size - e.xfer.accepted) then 4096 else 512

/-- The parts of source runs that hold payload bytes [a, b); `base` is the payload offset of the first run. -/
def sliceRuns : List SrcRun → Nat → Nat → Nat → List DrainRead
  | [], _, _, _ => []
  | r :: rs, base, a, b =>
    let lo := max a base
    let hi := min b (base + r.bytes)
    let rest := sliceRuns rs (base + r.bytes) a b
    if lo < hi then ⟨r.block * blockBytes + r.offset + (lo - base), hi - lo, lo⟩ :: rest else rest

/-- The drain reads that fetch the payload bytes within record bytes [lo, hi), one for each run within a
block, ascending (R18, R132). -/
def CommitEntry.reads (e : CommitEntry) (lo hi : Nat) : List DrainRead :=
  sliceRuns e.body.runs 0 (max lo 64 - 64) (min hi (64 + e.body.payload) - 64)

/-- The transfer is the record's last. -/
def Replay.isLast (r : Replay) (e : CommitEntry) : Bool := decide (r.off + r.len = e.size)

/-- Byte `i` of the transfer is laid again: every byte at a fill; at a rebuild those of the damaged ranges,
and the trailer of a last transfer (R133, R169). -/
def Replay.touched (r : Replay) (e : CommitEntry) (i : Nat) : Bool :=
  match r.ranges with
  | none => true
  | some gs => gs.contains (i / 64) || (r.isLast e && decide (e.size - 72 ≤ r.off + i))

/-- The bytes of a transfer before its CRC field is put in: header, body, padding and trailer from the entry
and the held spans, payload as read (R132, R133). -/
def CommitEntry.laidBytes (e : CommitEntry) (r : Replay) : List Byte :=
  let total := addSpans r.held e.xfer.spans e.xfer.overflow
  let head := e.headerBytes
  let body := e.bodyBytes
  let trailer := trailerHead e.body.isData total.1 total.2
  r.bytes.zipIdx.map fun p =>
    if e.isPayload (r.off + p.2) || !r.touched e p.2 then p.1
    else e.fixedByte head body trailer (r.off + p.2)

/-- The bytes of a transfer with the CRC field of a last transfer put in: the CRC continued over the bytes that
precede the field, complemented, in the last 4 bytes (R106, R133). -/
def CommitEntry.withCrc (e : CommitEntry) (r : Replay) (bytes : List Byte) : List Byte :=
  if r.isLast e then
    let front := bytes.take (r.len - 4)
    front ++ leBytes 4 (~~~ (crc32Over e.xfer.crc front)).toNat
  else bytes

/-- The bytes of a transfer as it is built, the CRC field of a last transfer included (R132, R133). -/
def CommitEntry.sealedBytes (e : CommitEntry) (r : Replay) : List Byte := e.withCrc r (e.laidBytes r)

/-- The bytes of a transfer as they go out: those of the buffer as they stand, with the CRC field of a last transfer
computed over the bytes that go out before it, so that the record's CRC agrees with flips that no parity detects
(R106, R134, R169). Flips within the stored field itself do not go out (log 38). -/
def CommitEntry.readOut (e : CommitEntry) (r : Replay) : List Byte := e.withCrc r r.bytes

/-- The replay buffer with its transfer whole and its parity set (R132, R169). The parity is computed over the
bytes as they stand when the build ends, so an upset between two drain reads of one build goes undetected
(DESIGN CHOICE, log 36). -/
def CommitEntry.finish (e : CommitEntry) (r : Replay) : Replay :=
  let bytes := e.sealedBytes r
  let parity := (parityBits bytes).zipIdx.map fun p =>
    if r.touched e (8 * p.2) then p.1 else r.parity.getD p.2 p.1
  { r with bytes := bytes, parity := parity, ready := true, todo := [], ranges := none }

/-- Invert the bits of an arming in the first 64 bytes of the buffer (R173). -/
def Replay.inject (r : Replay) (g : Arming) : Replay :=
  g.positions.foldl (fun r q =>
    if g.check then { r with parity := flipParity r.parity q }
    else { r with bytes := flipBit r.bytes 0 q }) r

/-- The transfer in the replay buffer is whole. A fill takes an armed flip of REPLAY; a rebuild of ranges is
no fill (R132, R173). An INJECT taken while the fill is in progress arms that fill (DESIGN CHOICE, log 37). -/
def State.finishBuild (s : State) (e : CommitEntry) (r : Replay) : State :=
  let r' := e.finish r
  match r.ranges, s.integ.replay.arming with
  | none, some g => (s.modLink fun l => { l with replay := some (r'.inject g) }).disarm .replay
  | _, _ => s.modLink fun l => { l with replay := some r' }

/-- The entry is SENDING. -/
def CommitEntry.isSending (e : CommitEntry) : Bool := e.st == .sending

/-- The SENDING entry. -/
def Link.sending (l : Link) : Option CommitEntry := l.commit.find? CommitEntry.isSending

/-- Change the SENDING entry. -/
def Link.modSending (l : Link) (f : CommitEntry → CommitEntry) : Link :=
  { l with commit := modifyFirst CommitEntry.isSending f l.commit }

/-- The link is UP. -/
def Link.isUp (l : Link) : Bool := l.state == .up

/-- The earliest READY entry becomes SENDING when the link is UP and none is (R130). -/
def Link.selectSending (l : Link) : Link :=
  if l.isUp && l.sending.isNone then
    { l with commit := modifyFirst (fun e => e.st == .ready) (fun e => { e with st := .sending }) l.commit }
  else l

/-- The empty buffer at the start of building the SENDING entry's next transfer (R131, R132). -/
def CommitEntry.freshReplay (e : CommitEntry) : Replay where
  off := e.xfer.accepted
  len := e.transferLen
  bytes := zeros e.transferLen
  parity := []
  ready := false
  todo := e.reads e.xfer.accepted (e.xfer.accepted + e.transferLen)
  held := []
  ranges := none

/-- The SENDING entry's next transfer begins to be built when the buffer is empty; one without payload is
whole at once (R132). -/
def State.startBuild (s : State) : State :=
  match s.link.isUp, s.link.sending, s.link.replay with
  | true, some e, none =>
    let r := e.freshReplay
    if r.todo.isEmpty then s.finishBuild e r else s.modLink fun l => { l with replay := some r }
  | _, _, _ => s

/-! ### The arbiter (R19) -/

/-- The stream after a stream in the rotation. -/
def nextStream : StreamId → StreamId
  | .s0 => .s1
  | .s1 => .s2
  | .s2 => .s3
  | .s3 => .s0

/-- The rotation from a stream on. -/
def rotationFrom (i : StreamId) : List StreamId :=
  [i, nextStream i, nextStream (nextStream i), nextStream (nextStream (nextStream i))]

/-- A writer context waits for a flush: where it would write (R18, R32). -/
def Stream.flushWants (x : Stream) : Option Nat :=
  match x.writer.awaiting, x.writer.filling with
  | _ :: _, some b => some (b * blockBytes + x.writer.fillOffset)
  | _, _ => none

/-- The drain reader waits for an access (R18). -/
def State.drainWants (s : State) : Option DrainRead :=
  match s.link.replay with
  | none => none
  | some r => if r.ready then none else r.todo.head?

/-- The first writer context found waiting, in rotation (R19 case 1). -/
def State.waitingWriter (s : State) : Option (StreamId × Nat) :=
  (rotationFrom s.port.rot).findSome? fun i => (s.stream i).flushWants.map fun a => (i, a)

/-- What the arbiter grants when the port is free, and the port after it (R19). -/
def State.grantNext (s : State) : Port :=
  match s.waitingWriter with
  | some (i, a) => { s.port with granted := some (.flush i a none), rot := nextStream i }
  | none =>
    match s.drainWants, s.previewWants with
    | none, none => s.port
    | some d, none => { s.port with granted := some (.drain d.addr d.len d.pos true), lastReader := .drain }
    | none, some p => { s.port with granted := some (.preview p.1 p.2 true), lastReader := .preview }
    | some d, some p =>
      match s.port.lastReader with
      | .drain => { s.port with granted := some (.preview p.1 p.2 true), lastReader := .preview }
      | .preview =>
        { s.port with granted := some (.drain d.addr d.len d.pos true), lastReader := .drain }

/-- Grant the port if it is free (R19). -/
def State.portGrant (s : State) : State :=
  match s.port.granted with
  | some _ => s
  | none => { s with port := s.grantNext }

/-- What follows at once: the next READY entry becomes SENDING, its transfer begins to be built, and the
port is granted (R19, R130, R132). -/
def State.settle (s : State) : State :=
  ((s.modLink Link.selectSending).startBuild).portGrant

/-- The access just completed leaves the port (R18). -/
def State.freePort (s : State) : State := { s with port := { s.port with granted := none } }

/-- A granted drain access no longer has its reader: its data will be discarded (R19). -/
def Port.orphanDrain (p : Port) : Port :=
  match p.granted with
  | some (.drain a l q _) => { p with granted := some (.drain a l q false) }
  | _ => p

/-- A granted flush of a stream keeps the bytes of the buffer the stream gives up (R46, R19). -/
def Port.orphanFlush (p : Port) (i : StreamId) (w : Writer) : Port :=
  match p.granted with
  | some (.flush j a none) => if j = i then { p with granted := some (.flush j a w.awaiting.head?) } else p
  | _ => p

/-- The access lies within capture memory (R1). -/
def inCapture (addr len : Nat) : Bool := decide (addr + len ≤ captureBytes)

/-! ### The drain reader -/

/-- Units found uncorrectable join the tally of their block, each once in a send (R165). -/
def joinTally (block : Nat) (units : List Nat) (tally : List (Nat × Nat)) : List (Nat × Nat) :=
  units.foldl (fun t u => if t.contains (block, u) then t else t ++ [(block, u)]) tally

/-- The block's set in the tally has reached 4 units (R165). -/
def tallyReached (block : Nat) (tally : List (Nat × Nat)) : Bool :=
  decide (4 ≤ (tally.filter fun p => p.1 == block).length)

/-- The width of a record's samples. -/
def RecBody.width : RecBody → Width
  | .dataRec _ _ _ w _ => w
  | _ => .w8

/-- A drain access of `len` bytes at `addr` for payload offset `pos` has completed: its bytes go into the
buffer with the fill value for unusable units, the spans are held, the tally and the retire mark are
updated and the errors counted; the transfer is whole when no read is left (R132, R159, R160,
R165). -/
def State.drainTake (s : State) (addr len pos : Nat) : State :=
  match s.link.sending, s.link.replay with
  | some e, some r =>
    let w := e.body.width
    let fill := (s.stream e.stream).cfg.fillValue
    let block := addr / blockBytes
    let tally := joinTally block (s.mem.lostUnits addr len) e.xfer.tally
    let e' := { e with xfer := { e.xfer with tally := tally } }
    let r' : Replay := { r with
      bytes := overwrite r.bytes (64 + pos - r.off) (s.mem.readSamples addr len w fill),
      held := holdReplaced (pos / w.bytes) (s.mem.replaced addr len w) r.held,
      todo := r.todo.tail }
    let s1 := s.modLink fun l => { (l.modSending fun _ => e') with replay := some r' }
    let s2 := if tallyReached block tally then
        s1.modStream e.stream fun x => { x with capture := markRetire block x.capture }
      else s1
    let s3 := s2.countUnits addr len (unitsOf addr len)
    if r'.todo.isEmpty then s3.finishBuild e' r' else s3
  | _, _ => s

/-! ### Upsets -/

/-- Change the staging buffer in `slot`: those awaiting flush, oldest first, then the filling one. -/
def Writer.modSlot (w : Writer) (slot : Nat) (f : StageBuf → StageBuf) : Writer :=
  if slot < w.awaiting.length then { w with awaiting := w.awaiting.modify slot f }
  else { w with fillBuf := f w.fillBuf }

/-- A physical upset inverts a stored bit. -/
def State.upset (s : State) : Upset → State
  | .capture word bit => { s with mem := s.mem.flip word bit }
  | .staging i slot check pos =>
    s.modWriter i fun w => w.modSlot slot fun b =>
      if check then { b with parity := flipParity b.parity pos } else { b with data := flipBit b.data 0 pos }
  | .replay check pos =>
    s.modLink fun l => { l with replay := l.replay.map fun r =>
      if check then { r with parity := flipParity r.parity pos }
      else { r with bytes := flipBit r.bytes 0 pos } }

/-- The upsets a command carries, before the read that meets them. -/
def State.upsets (s : State) (us : List Upset) : State := us.foldl State.upset s

end Sys2Proof.Machine
end

