-- ==== Sys2Proof/Machine/Link.lean ====
section
/-! DEFINITION. The archive link controller (chapter 7): link state, sending, responses, commit messages, leaving,
failures, SYNC phases. -/

namespace Sys2Proof.Machine

/-! ### The commit list -/

/-- Two entries are the same record: stream and sequence number (R129). -/
def CommitEntry.isRecord (i : StreamId) (seq : Nat) (e : CommitEntry) : Bool :=
  decide (e.stream = i) && decide (e.seq = seq)

/-- The entry is AWAIT_COMMIT at an address (R140). -/
def CommitEntry.awaits (a : Nat) (e : CommitEntry) : Bool := e.st == .awaitCommit && e.addr == some a

/-- The AWAIT_COMMIT entry a commit message with address `a` names (R140, R141). -/
def Link.awaiting (l : Link) (a : Nat) : Option CommitEntry := l.commit.find? (CommitEntry.awaits a)

/-- The stream is RUNNING or CLOSING. -/
def Stream.active (x : Stream) : Bool := x.phase == .running || x.phase == .closing

/-- Raise ARCHIVE_FAULT for each stream that is RUNNING or CLOSING (R124, R126). -/
def State.raiseArchiveFaults (s : State) : State :=
  StreamId.all.foldl (fun s i => if (s.stream i).active then s.raise i .archiveFault else s) s

/-! ### Loss of the link -/

/-- A SENDING or AWAIT_COMMIT entry returns to READY at the same address (R127). -/
def CommitEntry.returned (e : CommitEntry) : CommitEntry :=
  if e.st = .sending ∨ e.st = .awaitCommit then { e with st := .ready, xfer := .start, timer := none } else e

/-- A fault or DISABLE abandons a query that is out (R149). -/
def SyncCtx.requeue (c : SyncCtx) : SyncCtx :=
  if c.phase = .queryOut then { c with phase := .queryDue } else c

/-- What a fault and a DISABLE do alike: the outstanding request is abandoned, the entries in flight are
returned, the buffer is emptied, a waiting drain access is withdrawn and a granted one orphaned
(R126, R127, R19), a query out is due again (R149). -/
def State.abandonLink (s : State) : State :=
  { s with
    port := s.port.orphanDrain,
    link := { s.link with
      outstanding := none,
      commit := s.link.commit.map CommitEntry.returned,
      replay := none,
      sync := s.link.sync.requeue } }

/-- A link fault, which changes anything only in UP (R126). -/
def State.linkFault (s : State) (cause : LinkFault) : State :=
  if s.link.isUp then
    ((s.abandonLink).modLink fun l =>
      { l with state := .faulted, faultCount := inc16 l.faultCount, lastCause := some cause }).raiseArchiveFaults
  else s

/-- LINK_CONTROL ENABLE (R124). -/
def State.linkEnable (s : State) : State :=
  if s.link.state = .disabled then s.modLink fun l => { l with state := .training, train := .attempt } else s

/-- LINK_CONTROL DISABLE (R124). -/
def State.linkDisable (s : State) : State :=
  if s.link.state = .disabled then s
  else ((s.abandonLink).modLink fun l => { l with state := .disabled }).raiseArchiveFaults

/-- 100 ms after a fault (R126). -/
def State.faultWaitEnd (s : State) : State :=
  if s.link.state = .faulted then s.modLink fun l => { l with state := .training, train := .attempt } else s

/-- A training reply (R121, R125): taken during an attempt it brings the link UP. -/
def State.trainingReply (s : State) : State :=
  if s.link.state = .training ∧ s.link.train = .attempt then
    (s.modLink fun l => { l with state := .up }).settle
  else s

/-- The end of an attempt without a reply (R125). -/
def State.attemptEnd (s : State) : State :=
  if s.link.state = .training ∧ s.link.train = .attempt then s.modLink fun l => { l with train := .rest } else s

/-- The end of a rest (R125). -/
def State.restEnd (s : State) : State :=
  if s.link.state = .training ∧ s.link.train = .rest then s.modLink fun l => { l with train := .attempt } else s

/-! ### Placement failures (R151, R153) -/

/-- The entry after a placement failure. -/
def CommitEntry.failed (e : CommitEntry) (cause : FailCause) (code : Option Byte) : CommitEntry :=
  { e with
    st := if e.placements < 3 then .failed else .stuck,
    addr := none, xfer := .start, timer := none, cause := some cause, code := code }

/-- A placement failure of entry `e`, the first that `p` names (R151): its range becomes a dead span (R116);
at the third placement it is STUCK, the drain is BLOCKED and ARCHIVE_FAULT is raised (R153). -/
def State.failEntry (s : State) (p : CommitEntry → Bool) (e : CommitEntry) (cause : FailCause)
    (code : Option Byte) : State :=
  let s1 := s.modLink fun l => { l with commit := modifyFirst p (fun f => f.failed cause code) l.commit }
  let s2 := if e.st = .sending then
      { s1 with port := s1.port.orphanDrain, link := { s1.link with replay := none } }
    else s1
  let s3 := match e.addr with
    | none => s2
    | some a => s2.deadSpan a e.size
  if e.placements < 3 then s3
  else (s3.modStream e.stream fun x => { x with drain := .blocked }).raise e.stream .archiveFault

/-! ### Sending -/

/-- The 64-byte ranges of a transfer that hold a word with a parity error, ascending (R169). -/
def Replay.badRanges (r : Replay) : List Nat :=
  (List.range (r.len / 64)).filter fun g =>
    ((List.range 8).map (8 * g + ·)).any fun w => parityOf (slice r.bytes (8 * w) 8) != r.parity.getD w false

/-- The payload samples of record bytes [lo, hi). -/
def CommitEntry.sampleSpan (e : CommitEntry) (lo hi : Nat) : Nat × Nat :=
  ((max lo 64 - 64) / e.body.width.bytes, (min hi (64 + e.body.payload) - 64) / e.body.width.bytes)

/-- The held spans without those of one range (R136). -/
def CommitEntry.clearRange (e : CommitEntry) (r : Replay) (held : List Span) (g : Nat) : List Span :=
  let ab := e.sampleSpan (r.off + 64 * g) (r.off + 64 * g + 64)
  if ab.1 < ab.2 then dropHeld ab.1 ab.2 held else held

/-- The damaged ranges of a transfer are rebuilt: one REPLAY uncorrectable error for each at the archive
address of its first byte, counted in the order in which they are rebuilt (R157 allows any; DESIGN CHOICE, log
39); payload is read again through the drain reader (R136, R169). -/
def State.rebuild (s : State) (e : CommitEntry) (r : Replay) (bad : List Nat) : State :=
  let s1 := bad.foldl (fun s g => s.countUncorrectable .replay (e.addr.getD 0 + r.off + 64 * g)) s
  let r' : Replay := { r with
    ready := false, ranges := some bad,
    held := bad.foldl (e.clearRange r) r.held,
    todo := bad.flatMap fun g => e.reads (r.off + 64 * g) (r.off + 64 * g + 64) }
  if r'.todo.isEmpty then s1.finishBuild e r' else s1.modLink fun l => { l with replay := some r' }

/-- The WRITE goes when the buffer holds the whole transfer and reads out clean, its CRC over the bytes that go out
(R122, R132, R169). -/
def State.sendIfClean (s : State) : State :=
  match s.link.sending, s.link.replay with
  | some e, some r =>
    if r.ready && r.badRanges.isEmpty then
      s.modLink fun l => { l with outstanding := some (.write (e.addr.getD 0 + r.off) (e.readOut r)) }
    else s
  | _, _ => s

/-- A WRITE may be sent: the link is UP, the slot free, and no query is due (R122). -/
def Link.mayWrite (l : Link) : Bool :=
  l.isUp && l.outstanding.isNone && !(l.sync.phase == .queryDue)

/-- The transfer in the buffer is read out to be sent. When the read-out finds damaged ranges they are rebuilt, and
the rebuilt buffer is read out again by the next WRITE_SEND, so a fault that persists holds the transfer
unsent and counts again each time (R132, R136, R169, log 25). -/
def State.trySend (s : State) : State :=
  if s.link.mayWrite then
    match s.link.sending, s.link.replay with
    | some e, some r =>
      if r.ready then
        if r.badRanges.isEmpty then s.sendIfClean else (s.rebuild e r r.badRanges).portGrant
      else s
    | _, _ => s
  else s

/-- A DURABLE_QUERY due is sent when the link is UP and the slot free (R148, R122). -/
def State.durableQuerySend (s : State) : State :=
  if s.link.isUp && s.link.outstanding.isNone && s.link.sync.phase == .queryDue then
    s.modLink fun l =>
      { l with outstanding := some .durableQuery, sync := { l.sync with phase := .queryOut } }
  else s

/-! ### Responses to a WRITE -/

/-- The outstanding request is a WRITE. -/
def Link.writeOut (l : Link) : Bool :=
  match l.outstanding with
  | some (.write _ _) => true
  | _ => false

/-- The outstanding request is a DURABLE_QUERY. -/
def Link.queryOut (l : Link) : Bool :=
  match l.outstanding with
  | some .durableQuery => true
  | _ => false

/-- The request slot is free. -/
def Link.freeSlot (l : Link) : Link := { l with outstanding := none }

/-- The bytes of the outstanding WRITE, as they were sent (R169). -/
def Link.sentBytes (l : Link) : List Byte :=
  match l.outstanding with
  | some (.write _ bytes) => bytes
  | _ => []

/-- The entry after an ACCEPT of the transfer in the buffer, whose bytes were sent as `bytes`: the CRC is
continued over the bytes as sent, which an upset of the buffer after the send does not change (R134, R137,
R169). -/
def CommitEntry.afterAccept (e : CommitEntry) (r : Replay) (bytes : List Byte) (timeout : Nat) : CommitEntry :=
  let sent := if r.isLast e then bytes.take (r.len - 4) else bytes
  let total := addSpans r.held e.xfer.spans e.xfer.overflow
  let x := { e.xfer with
    accepted := e.xfer.accepted + r.len, retry := 0,
    crc := crc32Over e.xfer.crc sent, spans := total.1, overflow := total.2 }
  if e.xfer.accepted + r.len = e.size then { e with xfer := x, st := .awaitCommit, timer := some timeout }
  else { e with xfer := x }

/-- ACCEPT (R134): acts on an outstanding WRITE in UP, is discarded otherwise (R121, R122). -/
def State.accept (s : State) : State :=
  if s.link.isUp && s.link.writeOut then
    match s.link.sending, s.link.replay with
    | some e, some r =>
      (s.modLink fun l =>
        { (l.modSending fun _ => e.afterAccept r l.sentBytes s.ctl.timing.commit) with
          outstanding := none, replay := none }).settle
    | _, _ => s.modLink Link.freeSlot
  else s

/-- RETRY (R135): the same transfer again, or a placement failure at the fifth in a row. -/
def State.retry (s : State) (us : List Upset) : State :=
  if s.link.isUp && s.link.writeOut then
    let s0 := s.modLink Link.freeSlot
    match s.link.sending with
    | none => s0
    | some e =>
      if e.xfer.retry < 4 then
        (((s0.modLink fun l => l.modSending fun f =>
          { f with xfer := { f.xfer with retry := f.xfer.retry + 1 } }).upsets us).trySend)
      else (s0.failEntry CommitEntry.isSending e .retryLimit none).settle
  else s

/-- NARROW (R138): a 4,096-byte transfer is built again in 512-byte pieces; a 512-byte one is a placement
failure. -/
def State.narrow (s : State) : State :=
  if s.link.isUp && s.link.writeOut then
    let s0 := s.modLink Link.freeSlot
    match s.link.sending, s.link.replay with
    | some e, some r =>
      if r.len = 4096 then
        (s0.modLink fun l =>
          { (l.modSending fun f => { f with xfer := { f.xfer with narrow := true, retry := 0 } }) with
            replay := none }).settle
      else (s0.failEntry CommitEntry.isSending e .narrowLimit none).settle
    | _, _ => s0
  else s

/-- REFUSE (R139): a placement failure with the code carried. -/
def State.refuseWrite (s : State) (code : Byte) : State :=
  if s.link.isUp && s.link.writeOut then
    let s0 := s.modLink Link.freeSlot
    match s.link.sending with
    | none => s0
    | some e => (s0.failEntry CommitEntry.isSending e .refuse (some code)).settle
  else s

/-! ### Leaving (R145) -/

/-- WAIT_LEAVE ends when no noted entry remains (R148). -/
def SyncCtx.check (c : SyncCtx) : SyncCtx :=
  if c.phase = .waitLeave ∧ c.noted = [] then { c with phase := .queryDue } else c

/-- A noted entry has left (R148). -/
def SyncCtx.left (c : SyncCtx) (i : StreamId) (seq : Nat) : SyncCtx :=
  { c with noted := c.noted.filter fun p => !(decide (p.1 = i) && decide (p.2 = seq)) }

/-- The PREVIEW in flight is of this stream. -/
def State.previewOf (s : State) (i : StreamId) : Option Preview :=
  match s.preview with
  | some p => if p.stream = i then some p else none
  | none => none

/-- A stream becomes IDLE when its CLOSE leaves (R72, R64, R24, R17): RUN is raised, a PREVIEW of the stream
replies with the samples read so far, and the capture list is emptied. -/
def State.streamIdle (s : State) (i : StreamId) : State :=
  let s1 := (s.modStream i fun x => { x with phase := .idle }).raise i .run
  let s2 := match s1.previewOf i with
    | none => s1
    | some p => s1.previewReply p
  s2.releaseScan i true

def RecBody.isClose : RecBody → Bool
  | .closeRec .. => true
  | _ => false

/-- The earliest entry of a stream in the commit list. -/
def Link.firstOf (l : Link) (i : StreamId) : Option CommitEntry := l.commit.find? fun e => decide (e.stream = i)

/-- One leaving: steps 1 to 5 of R145 for the stream's earliest entry. -/
def State.leaveOne (s : State) (i : StreamId) (e : CommitEntry) : State :=
  let s1 := s.modLink fun l =>
    { l with commit := removeFirst (fun f => decide (f.stream = i)) l.commit, sync := l.sync.left i e.seq }
  let s2 := s1.modStream i fun x => { x with commitIndex := e.covEnd }
  let s3 := (s2.countRate e.size).releaseScan i false
  if e.body.isClose then s3.streamIdle i else s3

/-- The leaving chain of a stream: while its earliest entry is COMMITTED it leaves (R145 step 6). -/
def State.leaveChain (i : StreamId) : Nat → State → State
  | 0, s => s
  | fuel + 1, s =>
    match s.link.firstOf i with
    | none => s
    | some e => if e.st = .committed then State.leaveChain i fuel (s.leaveOne i e) else s

/-- The leaving check for a stream (R145), then the sync context's check (R148). -/
def State.leave (s : State) (i : StreamId) : State :=
  (s.leaveChain i s.link.commit.length).modLink fun l => { l with sync := l.sync.check }

/-! ### Commit messages (R140 to R143) -/

/-- A stale commit message (R143). -/
def Link.staleMessage (l : Link) : Link := { l with stale := inc16 l.stale }

/-- COMMITTED with address `a` (R140); discarded unless the link is UP (R121). -/
def State.committed (s : State) (a : Nat) : State :=
  if s.link.isUp then
    match s.link.awaiting a with
    | none => s.modLink Link.staleMessage
    | some e =>
      ((s.modLink fun l => { l with commit := modifyFirst (CommitEntry.awaits a) (fun f =>
        { f with st := .committed, timer := none }) l.commit }).leave e.stream).settle
  else s

/-- REFUSED with address `a` and a code (R141); discarded unless the link is UP (R121). -/
def State.refusedMessage (s : State) (a : Nat) (code : Byte) : State :=
  if s.link.isUp then
    match s.link.awaiting a with
    | none => s.modLink Link.staleMessage
    | some e => s.failEntry (CommitEntry.awaits a) e .refused (some code)
  else s

/-- The expiry of a commit timer (R142). -/
def State.commitTimeout (s : State) (i : StreamId) (seq : Nat) : State :=
  match s.link.commit.find? (CommitEntry.isRecord i seq) with
  | none => s
  | some e =>
    if e.st = .awaitCommit ∧ e.timer.isSome then s.failEntry (CommitEntry.isRecord i seq) e .commitTimeout none else s

/-! ### Re-placement (R152) -/

/-- The entry is FAILED. -/
def CommitEntry.isFailed (e : CommitEntry) : Bool := e.st == .failed

/-- The earliest FAILED entry. -/
def Link.firstFailed (l : Link) : Option CommitEntry := l.commit.find? CommitEntry.isFailed

/-- An entry at its new address (R152). -/
def CommitEntry.replacedAt (a : Nat) (f : CommitEntry) : CommitEntry :=
  { f with st := .ready, addr := some a, placements := f.placements + 1, xfer := .start }

/-- The earliest FAILED entry asks for a new address, while the device is not STARVED (R152). -/
def State.rePlace (s : State) : State :=
  if s.place.starved then s
  else
    match s.link.firstFailed with
    | none => s
    | some e =>
      let r := s.placeRequest e.size
      match r.2 with
      | none => r.1
      | some a =>
        (r.1.modLink fun l =>
          { l with commit := modifyFirst CommitEntry.isFailed (CommitEntry.replacedAt a) l.commit }).settle

/-! ### SYNC (R147 to R150) -/

/-- The waiting mask: the streams whose noted entry has not left (R150). -/
def SyncCtx.waitingMask (c : SyncCtx) : Nat :=
  (StreamId.all.map fun i => if c.noted.any (fun p => decide (p.1 = i)) then 2 ^ i.num else 0).sum

/-- The SYNC replies with a status and a waiting mask, and its context becomes idle (R149, R150). -/
def State.syncReply (s : State) (st : Status) (waiting : Nat) : State :=
  (s.reply kindSync s.link.sync.tag st (byteField waiting ++ zeros 3)).modLink
    fun l => { l with sync := .idle }

/-- DURABLE (R149): acts on an outstanding query in UP; after a TIMEOUT it only frees the slot (R150). -/
def State.durable (s : State) : State :=
  if s.link.isUp && s.link.queryOut then
    let s1 := s.modLink Link.freeSlot
    if s.link.sync.phase = .queryOut then s1.syncReply .ok 0 else s1
  else s

/-- NOT_YET (R149). -/
def State.notYet (s : State) : State :=
  if s.link.isUp && s.link.queryOut then
    let s1 := s.modLink Link.freeSlot
    if s.link.sync.phase = .queryOut then s1.modLink fun l => { l with sync := { l.sync with phase := .pollWait } }
    else s1
  else s

/-- The end of the poll wait (R149). -/
def State.pollWaitEnd (s : State) : State :=
  if s.link.sync.phase = .pollWait then s.modLink fun l => { l with sync := { l.sync with phase := .queryDue } }
  else s

/-- The expiry of the sync timer (R150). -/
def State.syncTimeout (s : State) : State :=
  if s.link.sync.phase = .idle then s else s.syncReply .timeout s.link.sync.waitingMask

/-- What a SYNC notes: for each stream of the mask, its newest entry in the commit list (R147). -/
def Link.newestOf (l : Link) (mask : Nat) : List (StreamId × Nat) :=
  StreamId.all.filterMap fun i =>
    if mask.testBit i.num then
      ((l.commit.filter fun e => decide (e.stream = i)).getLast?).map fun e => (i, e.seq)
    else none

/-- The expiry of the response timer of an outstanding request (R122, R126). -/
def State.responseTimeout (s : State) : State :=
  if s.link.outstanding.isSome then s.linkFault .responseTimeout else s

end Sys2Proof.Machine
end

