-- ==== Sys2Proof/Machine/Writer.lean ====
section
/-! DEFINITION. The capture writer (chapter 2), markers (chapter 3) and entering RUNNING (R69). -/

namespace Sys2Proof.Machine

/-! ### Markers (R53) -/

/-- A marker received while the stream is RUNNING is entered with the lost count, or counted lost at a full
queue; in any other state it is discarded (R53). -/
def State.latchMarker (s : State) (i : StreamId) (index : Nat) (src : MarkSource) : State :=
  let x := s.stream i
  if x.phase = .running then
    if x.markers.length < maxMarkers then
      s.setStream i { x with markers := x.markers ++ [⟨index, src, x.lost⟩], lost := 0 }
    else (s.setStream i { x with lost := inc16 x.lost }).raise i .markerLost
  else s

/-! ### Entering RUNNING (R69) -/

/-- The writer context as set up at entering RUNNING (R28, R69). -/
def Writer.enter (w : Writer) (start kmin : Nat) : Writer :=
  { w with index := start, k := kmin, mode := .noBlock, stop := none, beat := [], boundaryDone := false }

/-- The cutter's context as set up at entering RUNNING (R69). -/
def Cutter.enter (start : Nat) : Cutter := { Cutter.reset with openDue := true, cutIndex := start }

/-- A stream on entering RUNNING (R69, R52, R144). -/
def Stream.enterRunning (x : Stream) : Stream :=
  { x with
    phase := .running,
    writer := x.writer.enter x.startIndex x.cfg.kmin,
    markers := [], lost := 0, pendingLane := none,
    cutter := .enter x.startIndex,
    commitIndex := x.startIndex }

/-- A start event takes an ARMED stream to RUNNING and raises RUN (R60, R61, R64). -/
def State.startRun (s : State) (i : StreamId) : State := (s.modStream i Stream.enterRunning).raise i .run

/-! ### The lane (R25 to R27) -/

/-- The mark of a beat names a sample of it (R26). -/
def validMark (w : Width) (mark : Option Nat) : Option Nat :=
  match mark with
  | none => none
  | some o => if o * w.bytes < 64 then some o else none

/-- A beat is placed in the lane hold, or discarded and counted at a full hold (R27). -/
def Stream.holdBeat (x : Stream) (b : HeldBeat) : Stream :=
  if x.hold.length < maxHold then { x with hold := x.hold ++ [b] } else { x with overrun := inc16 x.overrun }

/-- A beat arrives on a lane (R25, R26, R61). -/
def State.beatArrival (s : State) (i : StreamId) (beat : List Byte) (mark : Option Nat) : State :=
  let x := s.stream i
  let valid := validMark x.cfg.width mark
  match x.phase with
  | .unconfigured => s
  | .idle => s
  | .armed =>
    match x.startMode, valid with
    | .laneTrigger, some o =>
      (s.startRun i).modStream i fun y => y.holdBeat ⟨beat.drop (o * x.cfg.width.bytes), none⟩
    | _, _ => s
  | .running => s.modStream i fun y => y.holdBeat ⟨beat, valid⟩
  | .closing => if x.writer.mode = .stopped then s else s.modStream i fun y => y.holdBeat ⟨beat, valid⟩

/-- The writer context may take a beat: it has finished with the previous one and is neither SEALING nor
STOPPED (R27, R29). -/
def Writer.mayTake (w : Writer) : Bool :=
  w.beat.isEmpty && !(w.mode == .sealing) && !(w.mode == .stopped)

/-- The writer context takes the oldest beat; its mark becomes the pending lane mark (R26, R27, R56). -/
def State.beatTake (s : State) (i : StreamId) : State :=
  let x := s.stream i
  match x.hold with
  | [] => s
  | b :: rest =>
    if x.writer.mayTake then
      s.setStream i { x with
        hold := rest,
        writer := { x.writer with beat := b.bytes },
        pendingLane := b.mark.map (x.writer.index + ·) }
    else s

/-! ### Staging (R32, R166, R173) -/

/-- The flip that the write in progress has taken, applied to the line that holds its first byte; applied twice it
undoes itself (R173). -/
def StageBuf.flipped (b : StageBuf) : Option StageWrite → StageBuf
  | some ⟨start, some g⟩ => b.inject start g
  | _ => b

/-- The write that a kept sample belongs to: the one in progress, or a new one, which takes an armed flip of STAGING
(R173, log 7). -/
def Writer.writeOf (w : Writer) (armed : Option Arming) : StageWrite :=
  match w.write with
  | none => ⟨w.fillBuf.count, armed⟩
  | some d => d

/-- The bytes of a kept sample join the filling buffer (R32). The write's flip stands over the parity that its samples
set (R173): it is undone before the bytes and their parity are written, and applied again after them. -/
def Writer.stage (w : Writer) (bytes : List Byte) (armed : Option Arming) : Writer :=
  let d := w.writeOf armed
  { w with
    fillBuf := ((w.fillBuf.flipped w.write).append bytes).flipped (some d),
    write := some d }

/-- A staging write ends: with its beat, with its buffer, or where a seal starts (R173, log 7). -/
def Writer.endWrite (w : Writer) : Writer := { w with write := none }

/-- A full filling buffer becomes awaiting flush and the other becomes filling (R32). -/
def Writer.swap (w : Writer) : Writer :=
  { w.endWrite with awaiting := w.awaiting ++ [w.fillBuf], fillBuf := .empty }

/-- The filling buffer, if it has reached 4,096 bytes, becomes awaiting flush (R32). -/
def Writer.swapIfFull (w : Writer) : Writer := if stageBytes ≤ w.fillBuf.count then w.swap else w

/-- The first kept sample of a staging write takes an armed flip of STAGING: the memory is disarmed and INJECTION is
raised (R173, log 7). -/
def State.takeStagingFlip (s : State) (i : StreamId) : State :=
  if (s.stream i).writer.write.isNone && s.integ.staging.arming.isSome then s.disarm .staging else s

/-- The kept count of the FILLING tail rises by one (R32). -/
def assignSample (list : List Entry) : List Entry := modifyLast (fun e => { e with kept := e.kept + 1 }) list

/-- A kept sample is assigned to the FILLING entry and staged (R32). -/
def State.stageKept (s : State) (i : StreamId) (bytes : List Byte) : State :=
  (s.takeStagingFlip i).modStream i fun x => { x with
    capture := assignSample x.capture,
    writer := (x.writer.stage bytes s.integ.staging.arming).swapIfFull }

/-! ### Stopping and sealing (R33, R43, R45) -/

/-- The writer's stop is complete: STOPPED, the lane hold empty, the end index fixed; an open drop gap
becomes the tail gap (R43, R45, R56). -/
def Stream.finishStop (x : Stream) : Stream :=
  let w := x.writer
  let tail := if w.mode = .dropping ∧ w.dropStart < w.index then
      some ⟨w.dropStart, w.index, .newOnly, w.k⟩ else x.cutter.tailGap
  { x with
    hold := [], pendingLane := none, endIndex := w.index,
    writer := { w with mode := .stopped, beat := [], boundaryDone := false },
    cutter := { x.cutter with tailGap := tail } }

/-- A held stop request whose stop index the writer index has reached. -/
def Writer.stopReached (w : Writer) : Bool :=
  match w.stop with
  | none => false
  | some r => decide (r.index = w.index)

/-- The seal is made: the entry becomes FULL and the writer goes to NO_BLOCK, or to STOPPED when the stop
index has been reached (R11, R33). -/
def Stream.makeSeal (x : Stream) : Stream :=
  let y := { x with
    capture := sealTail x.capture,
    writer := { x.writer with mode := .noBlock, filling := none, fillOffset := 0 } }
  if x.writer.stopReached then y.finishStop else y

/-- A seal starts (R33): SEALING, the fill age stops, a filling buffer with bytes becomes awaiting flush. With
nothing left to flush the seal is made at once. -/
def State.startSeal (s : State) (i : StreamId) : State :=
  let s1 := s.modWriter i fun w =>
    let w1 := { w.endWrite with mode := .sealing, ageRunning := false }
    if 0 < w1.fillBuf.count then w1.swap else w1
  if (s1.stream i).writer.awaiting.isEmpty then s1.modStream i Stream.makeSeal else s1

/-- The writer stops at its stop index (R43): from FILLING through a seal, from NO_BLOCK or DROPPING at once;
a seal under way ends in STOPPED. -/
def State.stopWriter (s : State) (i : StreamId) : State :=
  match (s.stream i).writer.mode with
  | .filling => s.startSeal i
  | .sealing => s
  | .stopped => s
  | _ => s.modStream i Stream.finishStop

/-- The stop index of a request taken now: the next multiple of 2^k at or above the writer index (R43). -/
def Writer.stopIndex (w : Writer) : Nat := roundUp w.index (2 ^ w.k)

/-- A stop request is taken (R43): the stop index and close reason are recorded, the stream enters CLOSING,
and the writer stops if it is there already. A request already held stays (R70). -/
def State.requestStop (s : State) (i : StreamId) (reason : CloseReason) : State :=
  let x := s.stream i
  match x.writer.stop with
  | some _ => s
  | none =>
    let s1 := s.setStream i { x with
      phase := .closing, closeReason := reason,
      writer := { x.writer with stop := some ⟨x.writer.stopIndex, reason⟩ } }
    if x.writer.stopIndex = x.writer.index then s1.stopWriter i else s1

/-! ### Placing a kept sample (R36, R40, R42) -/

/-- A take or a victim take has given the writer a block: it is FILLING (R36). -/
def Stream.holdBlock (x : Stream) : Stream :=
  { x with writer := { x.writer with
      mode := .filling, filling := x.tail.map (·.block), fillOffset := 0,
      ageRunning := decide (0 < x.cfg.flushAge) } }

/-- The writer enters DROPPING at its index and raises GAP (R40). -/
def State.enterDropping (s : State) (i : StreamId) : State :=
  (s.modWriter i fun w => { w with mode := .dropping, dropStart := w.index }).raise i .gap

/-- A kept sample at NO_BLOCK asks for a block (R36, R42): a take; under DROP_OLD a victim take when that
fails; else DROPPING, and the sample is dropped. Answers the state and whether a block was had. -/
def State.getBlock (s : State) (i : StreamId) : State × Bool :=
  let x := s.stream i
  match s.take i x.writer.index x.writer.k none with
  | some s1 => (s1.modStream i Stream.holdBlock, true)
  | none =>
    if x.cfg.policy = .dropOld then
      match s.victimTake i x.writer.index x.writer.k with
      | some s1 => (s1.modStream i Stream.holdBlock, true)
      | none => (s.enterDropping i, false)
    else (s.enterDropping i, false)

/-! ### Processing a sample (R30) -/

/-- The boundary's decimation step (R38): the new k. -/
def Stream.decimate (x : Stream) : Nat :=
  if x.cfg.policy = .decimate then
    if x.cfg.high ≤ x.capture.length ∧ x.writer.k < x.cfg.kmax then x.writer.k + 1
    else if x.capture.length ≤ x.cfg.low ∧ x.cfg.kmin < x.writer.k then x.writer.k - 1
    else x.writer.k
  else x.writer.k

/-- The decimation step at a boundary: a change of k raises DECIMATION and seals a FILLING block (R38). -/
def State.decimateAt (s : State) (i : StreamId) : State :=
  let x := s.stream i
  let k := x.decimate
  if k = x.writer.k then s
  else
    let s1 := (s.modWriter i fun w => { w with k := k }).raise i .decimation
    if x.writer.mode = .filling then s1.startSeal i else s1

/-- The resumption step at a boundary while DROPPING (R41): a take with the drop's gap_before. -/
def State.resume (s : State) (i : StreamId) : State :=
  let w := (s.stream i).writer
  if w.mode = .dropping then
    match s.take i w.index w.k (some ⟨w.index - w.dropStart, .newOnly⟩) with
    | some s1 => s1.modStream i Stream.holdBlock
    | none => s
  else s

/-- The writer index is a grain boundary above the start index that is still to be evaluated (R30 step 1). -/
def Stream.atBoundary (x : Stream) : Bool :=
  decide (x.writer.index % grain = 0) && decide (x.startIndex < x.writer.index) && !x.writer.boundaryDone

/-- Step 1 of R30: the boundary is evaluated (R37). -/
def State.boundary (s : State) (i : StreamId) : State :=
  if (s.stream i).atBoundary then
    ((s.modWriter i fun w => { w with boundaryDone := true }).decimateAt i).resume i
  else s

/-- The sample at the writer index is to be kept: a multiple of 2^k, and the writer is not DROPPING (R30). -/
def Writer.keeps (w : Writer) : Bool := !(w.mode == .dropping) && decide (w.index % 2 ^ w.k = 0)

/-- The next kept sample would fill the filling buffer while the other still awaits flush: the context
processes no further sample (R32). -/
def Stream.stalled (x : Stream) : Bool :=
  x.writer.keeps && x.writer.mode == .filling && !x.writer.awaiting.isEmpty &&
  decide (stageBytes ≤ x.writer.fillBuf.count + x.cfg.width.bytes)

/-- Steps 2 to 4 of R30: the sample is dropped, kept and placed, or discarded by decimation. -/
def State.placeSample (s : State) (i : StreamId) : State :=
  let x := s.stream i
  let bytes := x.writer.beat.take x.cfg.width.bytes
  if x.writer.keeps then
    if x.writer.mode = .filling then s.stageKept i bytes
    else
      let r := s.getBlock i
      if r.2 then r.1.stageKept i bytes else r.1
  else s

/-- A pending lane mark of the sample at the writer index is entered (R56). -/
def State.enterLaneMark (s : State) (i : StreamId) : State :=
  let x := s.stream i
  if x.pendingLane = some x.writer.index then
    (s.latchMarker i x.writer.index .lane).modStream i fun y => { y with pendingLane := none }
  else s

/-- Step 5 of R30: the writer index moves past the sample; a staging write ends with its beat (log 7). -/
def State.advance (s : State) (i : StreamId) : State :=
  s.modStream i fun x =>
    let w := { x.writer with
      index := x.writer.index + 1, boundaryDone := false, beat := x.writer.beat.drop x.cfg.width.bytes }
    { x with writer := if w.beat.isEmpty then w.endWrite else w }

/-- The FILLING block is full (R34). -/
def Stream.blockFull (x : Stream) : Bool :=
  x.writer.mode == .filling &&
  (match x.tail with | none => false | some e => decide (blockBytes / x.cfg.width.bytes ≤ e.kept))

/-- The writer index has reached the run length or the index limit (R70). -/
def Stream.lengthReached (x : Stream) : Bool :=
  (match x.runLen with | none => false | some l => decide (x.writer.index = x.startIndex + l)) ||
  decide (x.writer.index = indexLimit)

/-- A LENGTH stop request of a RUNNING stream (R70): it has no effect when a request is held; the stream raises
RUN as it enters CLOSING (R64). -/
def State.lengthStop (s : State) (i : StreamId) : State :=
  let x := s.stream i
  if x.lengthReached && x.phase == .running && x.writer.stop.isNone then
    (s.raise i .run).requestStop i .length
  else s

/-- Steps 2 to 6 of R30 for the sample at the writer index, with the seal of a full block (R34) and the stop
requests of R70; nothing while the context is stalled (R32). -/
def State.finishSample (s : State) (i : StreamId) : State :=
  if (s.stream i).stalled then s
  else
    let s1 := ((s.placeSample i).enterLaneMark i).advance i
    let s2 := if (s1.stream i).blockFull then s1.startSeal i else s1
    let s3 := s2.lengthStop i
    if (s3.stream i).writer.stopReached then s3.stopWriter i else s3

/-- The writer context can process a sample: a beat is in hand and the mode is NO_BLOCK, FILLING or DROPPING
(R29). -/
def Writer.mayProcess (w : Writer) : Bool :=
  !w.beat.isEmpty && !(w.mode == .sealing) && !(w.mode == .stopped)

/-- One sample is processed (R30). If the boundary starts a seal, the sample waits for it (log 6). Where the sample
would fill the buffer while the other awaits flush, its boundary is evaluated here, once, and the sample waits
without it for the flush (DESIGN CHOICE, log 34). -/
def State.sampleProcess (s : State) (i : StreamId) : State :=
  if (s.stream i).writer.mayProcess then
    let s1 := s.boundary i
    if (s1.stream i).writer.mayProcess then (s1.finishSample i).settle else s1.settle
  else s

/-- The fill age reaches the flush age (R35). -/
def State.flushAgeExpiry (s : State) (i : StreamId) : State :=
  let w := (s.stream i).writer
  if w.mode = .filling ∧ w.ageRunning then (s.startSeal i).settle else s

/-! ### A flush completes (R32, R33) -/

/-- The writer context after the flush of its oldest awaiting buffer (R32). -/
def Writer.flushed (w : Writer) : Writer :=
  match w.awaiting with
  | [] => w
  | b :: rest => { w with awaiting := rest, fillOffset := w.fillOffset + 8 * b.words }

/-- After a flush: a pending seal whose last staged bytes are written is made, and a sample waiting at its
boundary is processed (R30, R33). -/
def State.afterFlush (s : State) (i : StreamId) : State :=
  let w := (s.stream i).writer
  if w.mode = .sealing ∧ w.awaiting = [] then
    let s1 := s.modStream i Stream.makeSeal
    let w1 := (s1.stream i).writer
    if w1.boundaryDone && w1.mayProcess then s1.finishSample i else s1
  else s

/-- A granted flush of stream `i` to `addr` completes: the bytes of a buffer given up by an abort or a reset
go to their block alone (R46, R19); else the buffer is written and freed (R32). -/
def State.flushDone (s : State) (i : StreamId) (addr : Nat) (orphan : Option StageBuf) : State :=
  match orphan with
  | some b => ((s.writeFlush b addr).freePort).settle
  | none =>
    match (s.stream i).writer.awaiting with
    | [] => (s.freePort).settle
    | b :: _ =>
      ((((s.writeFlush b addr).freePort).modWriter i Writer.flushed).afterFlush i).settle

end Sys2Proof.Machine
end

