-- ==== Sys2Proof/Machine/Cutter.lean ====
section
/-! DEFINITION. The extent cutter (chapter 5): the next record of a stream, the choice among streams, the cut. -/

namespace Sys2Proof.Machine

/-! ### DATA records (R90 to R95) -/

/-- The entries from the one whose data coverage contains `i` on. -/
def fromData (i : Nat) : List Entry → List Entry
  | [] => []
  | e :: rest => if e.dataHas i then e :: rest else fromData i rest

/-- The coverage end of the chain of entries that a DATA record of exponent `k` may run through, and whether
an entry with another k or with a gap_before follows it (R90, R91). -/
def chainEnd (k : Nat) : Nat → List Entry → Nat × Bool
  | stop, [] => (stop, false)
  | stop, e :: rest => if e.k ≠ k ∨ e.gap.isSome then (stop, true) else chainEnd k e.covEnd rest

/-- The coverage end of the part of that chain whose samples are all in FULL or DRAINING entries (R92). -/
def sealedEnd (k : Nat) : Nat → List Entry → Nat
  | stop, [] => stop
  | stop, e :: rest =>
    if e.k ≠ k ∨ e.gap.isSome ∨ ¬ (e.st = .full ∨ e.st = .draining) then stop else sealedEnd k e.covEnd rest

/-- The first cut point above `f` of the queued markers, in queue order (R93). -/
def cutPoint (k f : Nat) : List Marker → Option Nat
  | [] => none
  | m :: rest =>
    let p := roundUp m.index (2 ^ k)
    if f < p then some p else cutPoint k f rest

/-- The extent length in force: at most 262,144 bytes in the power-fail condition (R78, R91). -/
def extentInForce (powerFail : Bool) (x : Nat) : Nat := if powerFail then min x 262144 else x

/-- A DATA record that can be cut: its k and its end. -/
structure DataPlan where
  k : Nat
  stop : Nat
  deriving DecidableEq, Repr

/-- The smallest of the limits that apply. -/
def least (base : Nat) (limits : List (Option Nat)) : Nat :=
  limits.foldl (fun acc l => match l with | none => acc | some v => min acc v) base

/-- The DATA record that begins at the cut index, if it is complete (R90 to R92). -/
def Stream.dataPlan (x : Stream) (powerFail : Bool) : Option DataPlan :=
  let f := x.cutter.cutIndex
  match fromData f x.capture with
  | [] => none
  | e :: rest =>
    if e.st = .full ∨ e.st = .draining then
      let chain := chainEnd e.k e.covEnd rest
      let extent := f + extentInForce powerFail x.cfg.extent / x.cfg.width.bytes * 2 ^ e.k
      let broken := if chain.2 then some chain.1 else none
      let mark := if x.cfg.cutOnMark then cutPoint e.k f x.markers else none
      let dataEnd := if x.phase = .closing ∧ x.writer.mode = .stopped then
        some (match x.tail with | none => e.covEnd | some t => t.covEnd) else none
      let stop := least extent [broken, mark, dataEnd]
      if stop ≤ sealedEnd e.k e.covEnd rest then some ⟨e.k, stop⟩ else none
    else none

/-- The kept samples of an entry that lie in [f, stop): first and number, counted in the block (R95). -/
def Entry.part (e : Entry) (f stop : Nat) : Nat × Nat :=
  let a := (max f e.first - e.first) / 2 ^ e.k
  let b := (min stop e.covEnd - e.first) / 2 ^ e.k
  (a, b - a)

/-- The entry holds samples of [f, stop). -/
def Entry.meets (e : Entry) (f stop : Nat) : Bool := decide (e.first < stop) && decide (f < e.covEnd)

/-- The source runs of a DATA record [f, stop) at width `w` (R95). Their number is not bounded: R91 ends a record at
no number of runs, and blocks sealed short by the flush age may give more than the 65 of R95 (DESIGN CHOICE,
log 35). -/
def sourceRuns (w : Width) (f stop : Nat) (list : List Entry) : List SrcRun :=
  (list.filter fun e => e.meets f stop).map fun e =>
    let p := e.part f stop
    ⟨e.block, p.1 * w.bytes, p.2 * w.bytes⟩

/-- The capture list after a DATA record [f, stop) is cut (R12, R96). -/
def cutList (f stop : Nat) (list : List Entry) : List Entry :=
  list.map fun e =>
    if e.meets f stop then { e with st := if e.covEnd ≤ stop then .drained else .draining } else e

/-! ### The next record (R87) -/

/-- The next record of a stream, with what its cut needs. -/
inductive NextRecord where
  | openNext
  | markNext (m : Marker)
  | tailNext (g : TailGap)
  | gapNext (e : Entry)
  | dataNext (p : DataPlan)
  | closeNext
  deriving DecidableEq, Repr

/-- An entry's gap_before contains an index (R87 case 4). -/
def Entry.gapHas (e : Entry) (i : Nat) : Bool := decide (e.firstCovered ≤ i) && decide (i < e.first)

/-- Case 6 of R87 applies: the writer is STOPPED, no tail gap is held, and no entry covers the cut index, or
the cut index has reached the end index (R101, log 8). -/
def Stream.accountDone (x : Stream) : Bool :=
  x.writer.mode == .stopped && x.cutter.tailGap.isNone &&
  (!x.capture.any (fun e => e.covers x.cutter.cutIndex) || decide (x.endIndex ≤ x.cutter.cutIndex))

/-- The next record of a RUNNING or CLOSING stream if it is ready to be cut (R87, R92, R103). -/
def Stream.next (x : Stream) (powerFail : Bool) : Option NextRecord :=
  let c := x.cutter
  if !x.active then none
  else if c.openDue then some .openNext
  else
    match x.markers.head?.filter fun m => decide (m.index < c.cutIndex) with
    | some m => some (.markNext m)
    | none =>
      match c.tailGap.filter fun g => decide (g.first = c.cutIndex) with
      | some g => some (.tailNext g)
      | none =>
        if x.accountDone then
          match x.markers.head? with
          | some m => some (.markNext m)
          | none => if c.closeCut then none else some .closeNext
        else
          match x.capture.find? fun e => e.gapHas c.cutIndex with
          | some e => some (.gapNext e)
          | none => (x.dataPlan powerFail).map .dataNext

/-! ### Choosing among streams (R103) -/

/-- The stream is ready, with the device not STARVED (R103). -/
def Stream.ready (x : Stream) (powerFail : Bool) : Bool :=
  x.drain == .flowing && (x.next powerFail).isSome

/-- The usable capacity U (R6, R103). -/
def Stream.usable (x : Stream) : Nat := x.cfg.count - x.retired.length

/-- Stream `a` ranks above stream `b`, whatever their numbers, by fill fraction (R103). -/
def Stream.outranks (a b : Stream) : Bool :=
  if a.usable = 0 then false
  else if b.usable = 0 then true
  else decide (b.capture.length * a.usable < a.capture.length * b.usable)

/-- The stream the arbiter chooses among those ready; the lower number on equal fractions (R103). -/
def State.chooseStream (s : State) : Option StreamId :=
  (StreamId.all.filter fun i => (s.stream i).ready s.powerFail).foldl (fun best i =>
    match best with
    | none => some i
    | some j => if (s.stream i).outranks (s.stream j) then some i else some j) none

/-! ### The cut (R104) -/

/-- A record as it is cut: its header and kind fields, its coverage end, and the stream after the cut but for
its sequence number. -/
structure CutPlan where
  header : RecHeader
  body : RecBody
  covEnd : Nat
  after : Stream
  deriving DecidableEq, Repr

/-- The record a cut makes of a stream's next record (R89, R96, R97, R98, R100, R101). -/
def Stream.cutOf (x : Stream) : NextRecord → CutPlan
  | .openNext =>
    { header := x.header x.startIndex false,
      body := .openRec x.startIndex x.epoch x.cfg.intervalInt x.cfg.intervalFrac x.cfg.width x.cfg.kmin
        x.cfg.kmax x.cfg.policy,
      covEnd := x.startIndex,
      after := { x with cutter := { x.cutter with openDue := false } } }
  | .markNext m =>
    { header := x.header m.index false,
      body := .markRec m.index m.source m.lost,
      covEnd := x.cutter.cutIndex,
      after := { x with markers := x.markers.tail } }
  | .tailNext g =>
    { header := x.header g.first false,
      body := .gapRec g.first (g.stop - g.first) g.causes g.k,
      covEnd := g.stop,
      after := { x with cutter := { x.cutter with
        tailGap := none, cutIndex := g.stop, gapTotal := x.cutter.gapTotal + (g.stop - g.first) } } }
  | .gapNext e =>
    let f := x.cutter.cutIndex
    { header := x.header f false,
      body := .gapRec f (e.first - f) (gapCauses e.gap) e.k,
      covEnd := e.first,
      after := { x with cutter := { x.cutter with
        cutIndex := e.first, gapTotal := x.cutter.gapTotal + (e.first - f) } } }
  | .dataNext p =>
    let f := x.cutter.cutIndex
    let kept := (p.stop - f) / 2 ^ p.k
    { header := x.header f (decide (x.cutter.lastData = some ⟨f, p.k⟩)),
      body := .dataRec f p.k kept x.cfg.width (sourceRuns x.cfg.width f p.stop x.capture),
      covEnd := p.stop,
      after := { x with
        capture := cutList f p.stop x.capture,
        cutter := { x.cutter with
          cutIndex := p.stop, lastData := some ⟨p.stop, p.k⟩,
          kept := x.cutter.kept + kept, covered := x.cutter.covered + kept * 2 ^ p.k } } }
  | .closeNext =>
    let discarded := satAdd 65535 x.cutter.discarded x.lost
    { header := x.header x.endIndex false,
      body := .closeRec x.endIndex x.closeReason x.cutter.kept x.cutter.covered x.cutter.gapTotal discarded,
      covEnd := x.endIndex,
      after := { x with lost := 0, cutter := { x.cutter with closeCut := true, discarded := discarded } } }

/-- The commit-list entry a cut claims: READY at an address, placements made 1 (R104, R128). -/
def CutPlan.entry (p : CutPlan) (i : StreamId) (addr : Nat) : CommitEntry where
  stream := i
  seq := p.after.cutter.nextSeq
  header := p.header
  body := p.body
  covEnd := p.covEnd
  size := p.body.size
  addr := some addr
  st := .ready
  placements := 1
  xfer := .start
  cause := none
  code := none
  timer := none

/-- The cut of a stream's next record (R104): nothing of the stream changes when no space is left. -/
def State.cutRecord (s : State) (i : StreamId) (n : NextRecord) : State :=
  let p := (s.stream i).cutOf n
  let r := s.placeRequest p.body.size
  match r.2 with
  | none => r.1
  | some a =>
    ((r.1.modLink fun l => { l with commit := l.commit ++ [p.entry i a] }).setStream i
      { p.after with cutter := { p.after.cutter with nextSeq := p.after.cutter.nextSeq + 1 } }).settle

/-- One try of the cutter (R83, R103, R104): nothing without a free entry, while STARVED, or with no stream
ready. -/
def State.cut (s : State) : State :=
  if s.link.commit.length < maxCommit ∧ ¬ s.place.starved then
    match s.chooseStream with
    | none => s
    | some i =>
      match (s.stream i).next s.powerFail with
      | none => s
      | some n => s.cutRecord i n
  else s

end Sys2Proof.Machine
end

