-- ==== Sys2Proof/Machine/ArchiveCommands.lean ====
section
/-! DEFINITION. The meanings of the cutter, placement and archive link commands (chapters 5 to 7). -/

namespace Sys2Proof.Machine

/-- CUT (R104). -/
def execCut (s : State) : Result := .next s.cut

/-- RE_PLACEMENT (R152). -/
def execRePlacement (s : State) : Result := .next s.rePlace

/-- GATE_END (R118). -/
def execGateEnd (s : State) : Result := .next s.gateEnd

/-- WRITE_SEND (R132): the transfer is read out of the replay buffer, upsets included, when it may go. -/
def execWriteSend (upsets : List Upset) (s : State) : Result := .next (s.upsets upsets).trySend

/-- DURABLE_QUERY_SEND (R148). -/
def execDurableQuerySend (s : State) : Result := .next s.durableQuerySend

/-- ACCEPT (R134). -/
def execAccept (s : State) : Result := .next s.accept

/-- RETRY (R135). -/
def execRetry (upsets : List Upset) (s : State) : Result := .next (s.retry upsets)

/-- NARROW (R138). -/
def execNarrow (s : State) : Result := .next s.narrow

/-- REFUSE (R139). -/
def execRefuse (code : Byte) (s : State) : Result := .next (s.refuseWrite code)

/-- COMMITTED (R140). -/
def execCommitted (address : BitVec 48) (s : State) : Result := .next (s.committed address.toNat)

/-- REFUSED (R141). -/
def execRefused (address : BitVec 48) (code : Byte) (s : State) : Result :=
  .next (s.refusedMessage address.toNat code)

/-- COMMIT_TIMEOUT (R142). -/
def execCommitTimeout (stream : StreamId) (seq : Nat) (s : State) : Result :=
  .next (s.commitTimeout stream seq)

/-- DURABLE (R149). -/
def execDurable (s : State) : Result := .next s.durable

/-- NOT_YET (R149). -/
def execNotYet (s : State) : Result := .next s.notYet

/-- POLL_WAIT_END (R149). -/
def execPollWaitEnd (s : State) : Result := .next s.pollWaitEnd

/-- SYNC_TIMEOUT (R150). -/
def execSyncTimeout (s : State) : Result := .next s.syncTimeout

/-- RESPONSE_TIMEOUT (R122). -/
def execResponseTimeout (s : State) : Result := .next s.responseTimeout

/-- BAD_FRAME (R121). -/
def execBadFrame (s : State) : Result := .next (s.linkFault .badFrame)

/-- TRAINING_LOST (R126). -/
def execTrainingLost (s : State) : Result := .next (s.linkFault .trainingLost)

/-- FAULT_WAIT_END (R126). -/
def execFaultWaitEnd (s : State) : Result := .next s.faultWaitEnd

/-- TRAINING_REPLY (R125). -/
def execTrainingReply (s : State) : Result := .next s.trainingReply

/-- ATTEMPT_END (R125). -/
def execAttemptEnd (s : State) : Result := .next s.attemptEnd

/-- REST_END (R125). -/
def execRestEnd (s : State) : Result := .next s.restEnd

end Sys2Proof.Machine
end

