-- ==== Sys2Proof/Machine/Operands.lean ====
section
/-! DEFINITION. The bodies of control-link requests: their lengths, their decoding by byte position and their
encoding (section 11.3, R183, R206). -/

namespace Sys2Proof.Machine

/-- The fixed body length of a request kind; none for a kind the part does not implement (section 11.3). -/
def kindLength (kind : Byte) : Option Nat :=
  match kind.toNat with
  | 1 => some 0
  | 2 => some 38
  | 3 => some 3
  | 4 => some 32
  | 5 => some 1
  | 6 => some 1
  | 7 => some 1
  | 8 => some 1
  | 9 => some 16
  | 10 => some 1
  | 11 => some 1
  | 12 => some 12
  | 13 => some 2
  | 14 => some 2
  | 15 => some 2
  | 16 => some 2
  | 17 => some 2
  | 18 => some 8
  | 19 => some 16
  | 20 => some 0
  | _ => none

/-- The byte at an offset of a body. -/
def byteAt (body : List Byte) (i : Nat) : Byte := body.getD i 0#8

/-- The little-endian field of `n` bytes at an offset of a body, as `w` bits. -/
def fieldAt (w : Nat) (body : List Byte) (off n : Nat) : BitVec w := BitVec.ofNat w (leNat (slice body off n))

/-- STREAM_SETUP's fields (section 11.3). -/
def decodeSetup (b : List Byte) : SetupFields where
  stream := byteAt b 0
  width := byteAt b 1
  kmin := byteAt b 2
  kmax := byteAt b 3
  policy := byteAt b 4
  cutOnMark := byteAt b 5
  flushAge := fieldAt 16 b 6 2
  base := fieldAt 32 b 8 4
  count := fieldAt 32 b 12 4
  intervalInt := fieldAt 32 b 16 4
  intervalFrac := fieldAt 32 b 20 4
  high := fieldAt 32 b 24 4
  low := fieldAt 32 b 28 4
  extent := fieldAt 32 b 32 4
  fillValue := fieldAt 16 b 36 2

/-- RUN_START's fields (section 11.3). -/
def decodeStart (b : List Byte) : StartFields where
  stream := byteAt b 0
  mode := byteAt b 1
  lengthPresent := byteAt b 2
  runId := fieldAt 32 b 4 4
  startIndex := fieldAt 48 b 8 6
  epoch := fieldAt 64 b 16 8
  runLength := fieldAt 48 b 24 6

/-- The request of an implemented kind whose body has the kind's length (R206). -/
def decodeBody (kind : Byte) (b : List Byte) : Option Request :=
  match kind.toNat with
  | 1 => some .ident
  | 2 => some (.streamSetup (decodeSetup b))
  | 3 => some (.auxRoute (byteAt b 0) (byteAt b 1) (byteAt b 2))
  | 4 => some (.runStart (decodeStart b))
  | 5 => some (.runStop (byteAt b 0))
  | 6 => some (.runAbort (byteAt b 0))
  | 7 => some (.drainResume (byteAt b 0))
  | 8 => some (.markNow (byteAt b 0))
  | 9 => some (.windowGrant (fieldAt 48 b 0 6) (fieldAt 48 b 8 6))
  | 10 => some (.linkControl (byteAt b 0))
  | 11 => some (.sync (byteAt b 0))
  | 12 => some (.preview (byteAt b 0) (byteAt b 1) (fieldAt 16 b 2 2) (fieldAt 48 b 4 6))
  | 13 => some (.status (byteAt b 0) (byteAt b 1))
  | 14 => some (.noticeMask (fieldAt 16 b 0 2))
  | 15 => some (.noticeTake (fieldAt 16 b 0 2))
  | 16 => some (.errorSetup (byteAt b 0) (byteAt b 1))
  | 17 => some (.errorRead (byteAt b 0) (byteAt b 1))
  | 18 => some (.inject (byteAt b 0) (byteAt b 1) (byteAt b 2) (fieldAt 16 b 4 2) (fieldAt 16 b 6 2))
  | 19 => some (.timingSet (byteAt b 0) (fieldAt 32 b 4 4) (fieldAt 32 b 8 4) (fieldAt 32 b 12 4))
  | 20 => some .reset
  | _ => none

/-- What a request taken is found to be (R183 steps 1 and 2). -/
inductive Decoded where
  | unknown
  | badLength
  | request (r : Request)
  deriving DecidableEq, Repr

/-- A frame checked against its kind (R183, R206). -/
def decodeFrame (f : InFrame) : Decoded :=
  match kindLength f.kind with
  | none => .unknown
  | some n =>
    if f.body.length = n then
      match decodeBody f.kind f.body with
      | some r => .request r
      | none => .unknown
    else .badLength

/-! ### The frames the host sends -/

/-- A field of `w` bits in `n` bytes, least significant byte first. -/
def fieldBytes {w : Nat} (n : Nat) (x : BitVec w) : List Byte := leBytes n x.toNat

/-- STREAM_SETUP's body. -/
def encodeSetup (f : SetupFields) : List Byte :=
  [f.stream, f.width, f.kmin, f.kmax, f.policy, f.cutOnMark] ++ fieldBytes 2 f.flushAge ++
  fieldBytes 4 f.base ++ fieldBytes 4 f.count ++ fieldBytes 4 f.intervalInt ++ fieldBytes 4 f.intervalFrac ++
  fieldBytes 4 f.high ++ fieldBytes 4 f.low ++ fieldBytes 4 f.extent ++ fieldBytes 2 f.fillValue

/-- RUN_START's body; ignored bytes zero. -/
def encodeStart (f : StartFields) : List Byte :=
  [f.stream, f.mode, f.lengthPresent, 0#8] ++ fieldBytes 4 f.runId ++
  fieldBytes 6 f.startIndex ++ zeros 2 ++ fieldBytes 8 f.epoch ++ fieldBytes 6 f.runLength ++ zeros 2

/-- The kind of a request (section 11.3). -/
def requestKind : Request → Byte
  | .ident => kindIdent
  | .streamSetup _ => kindStreamSetup
  | .auxRoute .. => kindAuxRoute
  | .runStart _ => kindRunStart
  | .runStop _ => kindRunStop
  | .runAbort _ => kindRunAbort
  | .drainResume _ => kindDrainResume
  | .markNow _ => kindMarkNow
  | .windowGrant .. => kindWindowGrant
  | .linkControl _ => kindLinkControl
  | .sync _ => kindSync
  | .preview .. => kindPreview
  | .status .. => kindStatus
  | .noticeMask _ => kindNoticeMask
  | .noticeTake _ => kindNoticeTake
  | .errorSetup .. => kindErrorSetup
  | .errorRead .. => kindErrorRead
  | .inject .. => kindInject
  | .timingSet .. => kindTimingSet
  | .reset => kindReset

/-- The body of a request, ignored bytes zero (section 11.3). -/
def requestBody : Request → List Byte
  | .ident => []
  | .streamSetup f => encodeSetup f
  | .auxRoute l e m => [l, e, m]
  | .runStart f => encodeStart f
  | .runStop i => [i]
  | .runAbort i => [i]
  | .drainResume i => [i]
  | .markNow i => [i]
  | .windowGrant a n => fieldBytes 6 a ++ zeros 2 ++ fieldBytes 6 n ++ zeros 2
  | .linkControl a => [a]
  | .sync m => [m]
  | .preview i sel n x => [i, sel] ++ fieldBytes 2 n ++ fieldBytes 6 x ++ zeros 2
  | .status sel i => [sel, i]
  | .noticeMask e => fieldBytes 2 e
  | .noticeTake e => fieldBytes 2 e
  | .errorSetup m c => [m, c]
  | .errorRead m f => [m, f]
  | .inject m t p a b => [m, t, p, 0#8] ++ fieldBytes 2 a ++ fieldBytes 2 b
  | .timingSet f c y l => [f] ++ zeros 3 ++ fieldBytes 4 c ++ fieldBytes 4 y ++ fieldBytes 4 l
  | .reset => []

/-- The frame of a request with its tag, as the interface receives it (R176, R178). -/
def requestFrame (tag : Byte) (r : Request) : InFrame := ⟨requestKind r, tag, requestBody r⟩

/-- The bytes a host sends after the opener for a frame: kind, tag, length, body, CRC-16 (R176, R177). -/
def frameBytes (f : InFrame) : List Byte :=
  let checked := f.kind :: f.tag :: (leBytes 2 f.body.length ++ f.body)
  checked ++ leBytes 2 (crc16 checked).toNat

end Sys2Proof.Machine
end

