-- ==== Sys2Proof/Machine/Runs.lean ====
section
/-! DEFINITION. Run control (chapter 4): STREAM_SETUP, RUN_START, RUN_STOP, RUN_ABORT, PFAIL#, and the AUX edges
(chapter 3). -/

namespace Sys2Proof.Machine

/-! ### STREAM_SETUP (R65 to R67) -/

def widthOf : Nat → Option Width
  | 8 => some .w8
  | 16 => some .w16
  | _ => none

def policyOf : Nat → Option Policy
  | 0 => some .dropNew
  | 1 => some .dropOld
  | 2 => some .decimate
  | _ => none

def startModeOf : Nat → Option StartMode
  | 0 => some .immediate
  | 1 => some .aux0
  | 2 => some .aux1
  | 3 => some .laneTrigger
  | _ => none

/-- The configuration the fields give when every one is within its accepted values (R65 order 4). -/
def setupConfig (f : SetupFields) : Option StreamCfg :=
  match widthOf f.width.toNat, policyOf f.policy.toNat with
  | some w, some p =>
    if f.base.toNat ≤ 65535 ∧ 8 ≤ f.count.toNat ∧ f.base.toNat + f.count.toNat ≤ 65536 ∧
        f.intervalFrac.toNat < 16777216 ∧ ¬ (f.intervalInt.toNat = 0 ∧ f.intervalFrac.toNat = 0) ∧
        f.kmax.toNat ≤ 7 ∧ f.kmin.toNat ≤ f.kmax.toNat ∧
        1 ≤ f.high.toNat ∧ f.high.toNat ≤ f.count.toNat ∧ f.low.toNat < f.high.toNat ∧
        4096 ≤ f.extent.toNat ∧ f.extent.toNat ≤ 16777216 ∧ f.extent.toNat % 4096 = 0 ∧
        f.flushAge.toNat ≤ 10000 ∧ f.cutOnMark.toNat ≤ 1 ∧
        (w = .w8 → f.fillValue.toNat ≤ 255) then
      some {
        base := f.base.toNat, count := f.count.toNat, width := w,
        intervalInt := f.intervalInt.toNat, intervalFrac := f.intervalFrac.toNat,
        kmin := f.kmin.toNat, kmax := f.kmax.toNat, policy := p,
        high := f.high.toNat, low := f.low.toNat, extent := f.extent.toNat,
        flushAge := f.flushAge.toNat, cutOnMark := decide (f.cutOnMark.toNat = 1),
        fillValue := f.fillValue.toNat }
    else none
  | _, _ => none

/-- A pool range shares a block with the pool of another configured stream (R65 order 5). -/
def State.poolOverlaps (s : State) (i : StreamId) (base count : Nat) : Bool :=
  StreamId.all.any fun j =>
    decide (j ≠ i) && decide ((s.stream j).phase ≠ .unconfigured) &&
    rangesMeet (s.stream j).cfg.base (s.stream j).cfg.count base count

/-- A stream with a new configuration and its pool rebuilt (R3, R66). -/
def Stream.configure (x : Stream) (c : StreamCfg) : Stream :=
  { x with cfg := c, phase := .idle, spare := poolBlocks c.base c.count, retired := [], capture := [] }

/-- A stream unconfigured (R3, R67). -/
def Stream.unconfigure (x : Stream) : Stream :=
  { x with cfg := .reset, phase := .unconfigured, spare := [], retired := [], capture := [] }

/-- STREAM_SETUP (R65). -/
def State.streamSetup (s : State) (tag : Byte) (f : SetupFields) : State :=
  match streamOf f.stream with
  | none => s.refuse kindStreamSetup tag .range
  | some i =>
    let x := s.stream i
    if ¬ (x.phase = .unconfigured ∨ x.phase = .idle) then s.refuse kindStreamSetup tag .state
    else if f.count = 0#32 then (s.setStream i x.unconfigure).reply kindStreamSetup tag .ok []
    else
      match setupConfig f with
      | none => s.refuse kindStreamSetup tag .range
      | some c =>
        if s.poolOverlaps i c.base c.count then s.refuse kindStreamSetup tag .overlap
        else (s.setStream i (x.configure c)).reply kindStreamSetup tag .ok []

/-! ### RUN_START (R68, R69) -/

/-- The run set up by an accepted RUN_START, before any entering of RUNNING (R69, R27, R47, R60). -/
def Stream.setupRun (x : Stream) (mode : StartMode) (f : StartFields) : Stream :=
  { x with
    startIndex := f.startIndex.toNat, epoch := f.epoch.toNat, runId := f.runId.toNat,
    runLen := if f.lengthPresent = 0#8 then none else some f.runLength.toNat,
    closeReason := .noReason, endIndex := f.startIndex.toNat, drain := .flowing, overrun := 0,
    startMode := mode, phase := .armed }

/-- The start index of a RUN_START is accepted (R68 order 5). -/
def startIndexOk (f : StartFields) : Bool :=
  decide (f.startIndex.toNat % grain = 0) && decide (f.startIndex.toNat < indexLimit)

/-- RUN_START (R68, R69). -/
def State.runStart (s : State) (tag : Byte) (f : StartFields) : State :=
  match streamOf f.stream with
  | none => s.refuse kindRunStart tag .range
  | some i =>
    let x := s.stream i
    if x.phase ≠ .idle then s.refuse kindRunStart tag .state
    else if s.powerFail then s.refuse kindRunStart tag .held
    else
      match startModeOf f.mode.toNat with
      | none => s.refuse kindRunStart tag .range
      | some m =>
        if !startIndexOk f || (f.lengthPresent != 0#8 && f.runLength == 0#48) then s.refuse kindRunStart tag .range
        else
          let y := if m = .immediate then (x.setupRun m f).enterRunning else x.setupRun m f
          (s.setStream i y).reply kindRunStart tag .ok (byteField y.phase.code ++ zeros 3)

/-! ### RUN_STOP (R71) -/

/-- The stop index a stream's writer holds, 0 when it holds none. -/
def Writer.heldStop (w : Writer) : Nat :=
  match w.stop with
  | none => 0
  | some r => r.index

/-- The fields of a RUN_STOP reply (section 11.4). -/
def stopFields (phase : Phase) (stop : Nat) : List Byte := byteField phase.code ++ zeros 3 ++ slot8 stop

/-- An ARMED wait is abandoned (R62, R71, R73, R78). -/
def Stream.disarm (x : Stream) : Stream := { x with phase := .idle }

/-- RUN_STOP (R71). -/
def State.runStop (s : State) (tag stream : Byte) : State :=
  match streamOf stream with
  | none => s.refuse kindRunStop tag .range
  | some i =>
    match (s.stream i).phase with
    | .armed => (s.modStream i Stream.disarm).reply kindRunStop tag .ok (stopFields .idle 0)
    | .running =>
      let s1 := (s.requestStop i .hostStop).settle
      s1.reply kindRunStop tag .ok (stopFields .closing (s.stream i).writer.stopIndex)
    | _ => s.refuse kindRunStop tag .state

/-! ### RUN_ABORT (R73 to R76, R155) -/

/-- The writer context after an abort (R46). -/
def Writer.aborted (w : Writer) : Writer :=
  { w with
    mode := .stopped, stop := none, beat := [], boundaryDone := false, write := none,
    filling := none, fillOffset := 0, fillBuf := .empty, awaiting := [], ageRunning := false }

/-- The causes of the ABORTED gap (R74 step 3): ABORTED, the gap_before of each freed entry, a tail gap
already held, and the open drop gap of a DROPPING writer. -/
def Stream.abortCauses (x : Stream) : Causes :=
  let freed := (abortFreed x.capture).foldl (fun c e => c.union (gapCauses e.gap)) Causes.abortedOnly
  let withTail := match x.cutter.tailGap with
    | none => freed
    | some g => freed.union g.causes
  if x.writer.mode = .dropping then withTail.union .newOnly else withTail

/-- The number of markers an abort discards (R54). -/
def Stream.discardCount (x : Stream) : Nat :=
  min 65535 (x.markers.length + (x.markers.map (·.lost)).sum + x.lost)

/-- A stream after an abort, but for STUCK entries (R74 steps 1 to 5). The stop index is the writer index as
it stands. With CLOSE cut no coverage is uncut and no gap is formed (R73). -/
def Stream.aborted (x : Stream) : Stream :=
  let stop := x.writer.index
  let gap : Option TailGap :=
    if x.cutter.cutIndex < stop ∧ ¬ x.cutter.closeCut then
      some ⟨x.cutter.cutIndex, stop, x.abortCauses, x.writer.k⟩
    else none
  { x with
    phase := .closing,
    closeReason := if x.cutter.closeCut then x.closeReason else .abort,
    endIndex := stop,
    spare := (abortFreed x.capture).foldl (fun sp e => e.block :: sp) x.spare,
    capture := abortList x.capture,
    hold := [], markers := [], lost := 0, pendingLane := none,
    writer := x.writer.aborted,
    cutter := { x.cutter with
      tailGap := gap, discarded := satAdd 65535 x.cutter.discarded x.discardCount } }

/-- The record that replaces a STUCK one on an abort (R76, R99, R205). -/
def RecBody.replacement : RecBody → RecBody
  | .dataRec first k kept _ _ => .gapRec first (kept * 2 ^ k) .abortedOnly k
  | .gapRec first len causes k => .gapRec first len (causes.union .abortedOnly) k
  | other => other

/-- A STUCK entry replaced: FAILED with placements made 0 (R76, R155). -/
def CommitEntry.replaced (e : CommitEntry) : CommitEntry :=
  { e with
    body := e.body.replacement, size := e.body.replacement.size,
    header := { e.header with continuation := false }, st := .failed, placements := 0 }

/-- The entry is a STUCK one of the stream. -/
def CommitEntry.stuckOf (i : StreamId) (e : CommitEntry) : Bool := decide (e.stream = i) && e.st == .stuck

/-- The totals after the replacement of a STUCK record (R102). -/
def Cutter.replaceTotals (c : Cutter) : RecBody → Cutter
  | .dataRec _ k kept _ _ =>
    { c with kept := c.kept - kept, covered := c.covered - kept * 2 ^ k,
             gapTotal := c.gapTotal + kept * 2 ^ k }
  | _ => c

/-- The STUCK entries of an aborted stream are replaced, in list order, and its drain becomes FLOWING (R76,
R102, R155). -/
def State.replaceStuck (s : State) (i : StreamId) : State :=
  let stuck := s.link.commit.filter (CommitEntry.stuckOf i)
  let s1 := s.modLink fun l =>
    { l with commit := l.commit.map fun e => if e.stuckOf i then e.replaced else e }
  s1.modStream i fun x =>
    { x with drain := .flowing,
             cutter := stuck.foldl (fun c e => c.replaceTotals e.body) x.cutter }

/-- RUN_ABORT of a RUNNING or CLOSING stream (R74). -/
def State.abortRun (s : State) (i : StreamId) : State :=
  let s1 := s.previewSnap i
  let s2 := { s1 with port := s1.port.orphanFlush i (s1.stream i).writer }
  let s3 := s2.modStream i Stream.aborted
  if (s3.stream i).drain = .blocked then s3.replaceStuck i else s3

/-- The length of the ABORTED gap an abort forms (R73, R74). -/
def Stream.abortedGap (x : Stream) : Nat :=
  if x.cutter.closeCut then 0 else x.writer.index - x.cutter.cutIndex

/-- RUN_ABORT (R73, R74). -/
def State.runAbort (s : State) (tag stream : Byte) : State :=
  match streamOf stream with
  | none => s.refuse kindRunAbort tag .range
  | some i =>
    let x := s.stream i
    match x.phase with
    | .armed =>
      (s.modStream i Stream.disarm).reply kindRunAbort tag .ok (stopFields .idle 0 ++ slot8 0)
    | .running | .closing =>
      ((s.abortRun i).settle).reply kindRunAbort tag .ok
        (stopFields .closing x.writer.index ++ slot8 x.abortedGap)
    | _ => s.refuse kindRunAbort tag .state

/-! ### PFAIL# (R78, R79) -/

/-- What the assertion of PFAIL# does to one stream (R78). -/
def State.powerFailStream (s : State) (i : StreamId) : State :=
  match (s.stream i).phase with
  | .running => (s.raise i .run).requestStop i .powerFail
  | .armed => (s.modStream i Stream.disarm).raise i .run
  | _ => s

/-- The assertion of PFAIL# is taken (R78). A line already asserted has no edge to take (log 14). -/
def State.pfailAssert (s : State) : State :=
  if s.pfail then s
  else
    let s1 := { s with pfail := true, powerFail := true }
    ((StreamId.all.foldl State.powerFailStream s1).raiseDev .power).settle

/-- The deassertion of PFAIL# is taken (R79, R196): the mask is cleared but for POWER, then POWER is raised. -/
def State.pfailDeassert (s : State) : State :=
  if s.pfail then
    ({ s with pfail := false, powerFail := false,
              notices := { s.notices with mask := powerBit } }).raiseDev .power
  else s

/-! ### AUX lines (R57, R58, R60) -/

def edgeOf : Nat → Option EdgeSel
  | 0 => some .off
  | 1 => some .rising
  | 2 => some .falling
  | 3 => some .both
  | _ => none

/-- The route takes a change of level as an edge (R57). -/
def EdgeSel.takes (e : EdgeSel) (rising : Bool) : Bool :=
  match e with
  | .off => false
  | .rising => rising
  | .falling => !rising
  | .both => true

/-- The route of a line. -/
def Routes.get (r : Routes) : AuxLine → Route
  | .aux0 => r.aux0
  | .aux1 => r.aux1

/-- Replace the route of a line. -/
def Routes.set (r : Routes) (l : AuxLine) (x : Route) : Routes :=
  match l with
  | .aux0 => { r with aux0 := x }
  | .aux1 => { r with aux1 := x }

/-- The marker source of a line. -/
def auxSource : AuxLine → MarkSource
  | .aux0 => .aux0
  | .aux1 => .aux1

/-- The start mode that waits for a line. -/
def auxMode : AuxLine → StartMode
  | .aux0 => .aux0
  | .aux1 => .aux1

/-- An edge reaches one stream: a stream ARMED on the line starts (R60); else a stream of the mask receives
a marker at its writer index (R58). The edge that starts a run leaves no marker on it (log 15). -/
def State.auxStream (s : State) (line : AuxLine) (i : StreamId) : State :=
  let x := s.stream i
  if x.phase = .armed ∧ x.startMode = auxMode line then s.startRun i
  else if (s.routes.get line).mask.getLsbD i.num then s.latchMarker i x.writer.index (auxSource line)
  else s

/-- A change of level on an AUX line (R57, R58, R60). -/
def State.auxEdge (s : State) (line : AuxLine) (rising : Bool) : State :=
  if (s.routes.get line).edge.takes rising then
    StreamId.all.foldl (fun s i => s.auxStream line i) s
  else s

/-- The line a request byte names. -/
def lineOf : Nat → Option AuxLine
  | 0 => some .aux0
  | 1 => some .aux1
  | _ => none

/-- AUX_ROUTE (R57). -/
def State.auxRoute (s : State) (tag line edge mask : Byte) : State :=
  match lineOf line.toNat, edgeOf edge.toNat with
  | some l, some e =>
    let m : BitVec 4 := mask.setWidth 4
    ({ s with routes := s.routes.set l ⟨e, m⟩ }).reply kindAuxRoute tag .ok
      (byteField line.toNat ++ byteField e.code ++ byteField m.toNat ++ zeros 1)
  | _, _ => s.refuse kindAuxRoute tag .range

/-- MARK_NOW (R59). -/
def State.markNow (s : State) (tag stream : Byte) : State :=
  match streamOf stream with
  | none => s.refuse kindMarkNow tag .range
  | some i =>
    let x := s.stream i
    if x.phase = .running then
      (s.latchMarker i x.writer.index .host).reply kindMarkNow tag
        (if x.markers.length < maxMarkers then .ok else .full) (zeros 4 ++ slot8 x.writer.index)
    else s.refuse kindMarkNow tag .state

end Sys2Proof.Machine
end

