-- ==== Sys2Proof/Machine/Status.lean ====
section
/-! DEFINITION. The device and stream STATUS reports (sections 10.5, 10.6, 11.5). -/

namespace Sys2Proof.Machine

/-! ### Codes of section 11.5 -/

def TrainPhase.code : TrainPhase → Nat
  | .attempt => 0
  | .rest => 1

/-- Outstanding request: 0 none, 1 WRITE, 2 DURABLE_QUERY. -/
def Link.outstandingCode (l : Link) : Nat :=
  match l.outstanding with
  | none => 0
  | some (.write _ _) => 1
  | some .durableQuery => 2

def LinkFault.code : LinkFault → Nat
  | .responseTimeout => 1
  | .badFrame => 2
  | .trainingLost => 3

/-- Last fault cause, 0 when absent. -/
def Link.causeCode (l : Link) : Nat :=
  match l.lastCause with
  | none => 0
  | some c => c.code

def SyncPhase.code : SyncPhase → Nat
  | .idle => 0
  | .waitLeave => 1
  | .queryDue => 2
  | .queryOut => 3
  | .pollWait => 4

def CommitState.code : CommitState → Nat
  | .ready => 0
  | .sending => 1
  | .awaitCommit => 2
  | .committed => 3
  | .failed => 4
  | .stuck => 5

def FailCause.code : FailCause → Nat
  | .refuse => 1
  | .retryLimit => 2
  | .narrowLimit => 3
  | .refused => 4
  | .commitTimeout => 5

/-- Failure cause, 0 when absent. -/
def CommitEntry.causeCode (e : CommitEntry) : Nat :=
  match e.cause with
  | none => 0
  | some c => c.code

def DrainCond.code : DrainCond → Nat
  | .flowing => 0
  | .blocked => 1

def WriterMode.code : WriterMode → Nat
  | .stopped => 0
  | .noBlock => 1
  | .filling => 2
  | .sealing => 3
  | .dropping => 4

/-- A flag as 0 or 1. -/
def flagNat (b : Bool) : Nat := if b then 1 else 0

/-! ### The device report -/

/-- The 32 bytes of a commit-list entry: its address while it holds one, its target code when present. -/
def CommitEntry.statusBytes (e : CommitEntry) : List Byte :=
  byteField e.stream.num ++ byteField e.body.kindCode ++ byteField e.st.code ++ byteField e.placements ++
  byteField e.causeCode ++ [e.code.getD 0#8] ++
  byteField (flagNat e.addr.isSome + 2 * flagNat e.code.isSome) ++ zeros 1 ++
  leBytes 8 e.seq ++ slot8 (e.addr.getD 0) ++ leBytes 4 e.size ++ leBytes 4 e.xfer.accepted

/-- The 24 bytes of a window. -/
def Window.statusBytes (w : Window) : List Byte := slot8 w.start ++ slot8 w.length ++ slot8 w.next

/-- Report bytes 4 to 19: link, power, sync, PREVIEW and placement conditions. -/
def State.statusConditions (s : State) : List Byte :=
  byteField s.link.state.code ++ byteField s.link.train.code ++ byteField s.link.outstandingCode ++
  byteField s.link.causeCode ++
  leBytes 2 s.link.faultCount ++ leBytes 2 s.link.stale ++
  [boolByte s.pfail, boolByte s.powerFail] ++ byteField s.link.sync.phase.code ++
  byteField s.link.sync.waitingMask ++
  [boolByte s.preview.isSome] ++ byteField ((s.preview.map (·.stream.num)).getD 0) ++
  [boolByte s.place.starved, boolByte s.place.low]

/-- Report bytes 20 to 79: the placement unit and its rate meter (R118). -/
def State.statusPlacement (s : State) : List Byte :=
  slotRemaining s.place.remaining ++ slot8 s.place.abandoned ++ slot8 s.place.dead ++
  slot8 ((s.place.lastDead.map (·.address)).getD 0) ++ leBytes 4 ((s.place.lastDead.map (·.size)).getD 0) ++
  leBytes 5 s.place.rateCounter ++ zeros 3 ++ leBytes 5 s.place.latchedRate ++ zeros 3 ++
  slot8 (threshold s.place.latchedRate s.ctl.timing.lead)

/-- Bytes 80 to 91: the timing set (R187). -/
def Timing.bytes (t : Timing) : List Byte := leBytes 4 t.commit ++ leBytes 4 t.sync ++ leBytes 4 t.lead

/-- Bytes 92 to 99: the four counts of R179. -/
def Control.countBytes (c : Control) : List Byte :=
  leBytes 2 c.crcErrors ++ leBytes 2 c.framingErrors ++ leBytes 2 c.shortDrops ++ leBytes 2 c.longDrops

/-- The armed flags: bit 0 CAPTURE, bit 1 STAGING, bit 2 REPLAY. -/
def Integrity.armedFlags (g : Integrity) : Nat :=
  flagNat g.capture.arming.isSome + 2 * flagNat g.staging.arming.isSome + 4 * flagNat g.replay.arming.isSome

/-- Bytes 100 to 111: the error counts of the three memories. -/
def Integrity.countBytes (g : Integrity) : List Byte :=
  leBytes 2 g.capture.corrected ++ byteField g.capture.uncorrectable ++ byteField g.armedFlags ++
  leBytes 2 g.staging.corrected ++ byteField g.staging.uncorrectable ++ zeros 1 ++
  leBytes 2 g.replay.corrected ++ byteField g.replay.uncorrectable ++ zeros 1

/-- The device report from body byte 4 on (R200, R201, R208). -/
def State.deviceReport (s : State) : List Byte :=
  s.statusConditions ++ s.statusPlacement ++ s.ctl.timing.bytes ++ s.ctl.countBytes ++ s.integ.countBytes ++
  leBytes 2 (s.notices.mask ||| powerBit).toNat ++ zeros 2 ++ s.notices.pendingSet ++
  (StreamId.all.flatMap fun i => leBytes 6 (s.stream i).commitIndex) ++
  byteField s.link.commit.length ++ byteField s.place.windows.length ++ zeros 2 ++
  s.link.commit.flatMap CommitEntry.statusBytes ++ s.place.windows.flatMap Window.statusBytes

/-! ### The stream report -/

/-- Report bytes 4 to 31: run context. -/
def Stream.statusRun (x : Stream) (i : StreamId) : List Byte :=
  byteField i.num ++ byteField x.phase.code ++ byteField x.drain.code ++ byteField x.closeReason.code ++
  leBytes 4 x.runId ++ [boolByte x.runLen.isSome] ++
  byteField (if x.phase = .armed then x.startMode.code else 255) ++
  byteField x.writer.mode.code ++ byteField x.writer.k ++
  slot8 (x.runLen.getD 0) ++ slot8 x.endIndex

/-- Bytes 32 to 71: configuration, then OPEN due, CLOSE cut and stop request held. -/
def Stream.statusConfig (x : Stream) : List Byte :=
  leBytes 4 x.cfg.base ++ leBytes 4 x.cfg.count ++
  byteField x.cfg.width.code ++ byteField x.cfg.kmin ++ byteField x.cfg.kmax ++ byteField x.cfg.policy.code ++
  leBytes 4 x.cfg.intervalInt ++ leBytes 4 x.cfg.intervalFrac ++ leBytes 4 x.cfg.high ++ leBytes 4 x.cfg.low ++
  leBytes 4 x.cfg.extent ++ leBytes 2 x.cfg.flushAge ++ leBytes 2 x.cfg.fillValue ++
  [boolByte x.cfg.cutOnMark, boolByte x.cutter.openDue, boolByte x.cutter.closeCut,
   boolByte x.writer.stop.isSome]

/-- The kept count of the FILLING entry, 0 with none. -/
def Stream.fillingKept (x : Stream) : Nat :=
  match x.capture.find? fun e => e.st == .filling with
  | none => 0
  | some e => e.kept

/-- Bytes 72 to 119: timebase and writer context. -/
def Stream.statusWriter (x : Stream) : List Byte :=
  slot8 x.startIndex ++ leBytes 8 x.epoch ++
  slot8 x.writer.index ++ slot8 x.writer.dropStart ++
  leBytes 4 (x.writer.filling.getD 4294967295) ++ leBytes 4 x.fillingKept ++
  leBytes 6 x.writer.heldStop ++ leBytes 2 x.overrun

/-- Listed entries in a state. -/
def Stream.countState (x : Stream) (st : BlockState) : Nat := (x.capture.filter fun e => e.st == st).length

/-- Bytes 120 to 171: block lists and capture list. -/
def Stream.statusBlocks (x : Stream) : List Byte :=
  leBytes 4 x.spare.length ++ leBytes 4 x.capture.length ++ leBytes 4 x.retired.length ++
  byteField (x.countState .filling) ++ zeros 1 ++
  leBytes 2 (x.capture.filter fun e => decide (0 < e.pins)).length ++
  leBytes 4 (x.countState .full) ++ leBytes 4 (x.countState .draining) ++ leBytes 4 (x.countState .drained) ++
  leBytes 6 ((x.capture.head?.map Entry.firstCovered).getD 0) ++
  byteField (flagNat x.capture.head?.isSome + 2 * flagNat x.tail.isSome) ++ zeros 1 ++
  slot8 x.oldestHeld ++ slot8 ((x.tail.map Entry.covEnd).getD 0)

/-- The length of the tail gap, 0 with none. -/
def Cutter.tailLen (c : Cutter) : Nat :=
  match c.tailGap with
  | none => 0
  | some g => g.stop - g.first

/-- Bytes 172 to 235: cutter, markers and commit index. -/
def Stream.statusCutter (x : Stream) : List Byte :=
  leBytes 6 x.cutter.cutIndex ++ [boolByte x.cutter.tailGap.isSome] ++ zeros 1 ++ leBytes 8 x.cutter.nextSeq ++
  slot8 x.cutter.tailLen ++ slot8 x.cutter.kept ++ slot8 x.cutter.covered ++ slot8 x.cutter.gapTotal ++
  byteField x.markers.length ++ zeros 1 ++ leBytes 2 x.lost ++ leBytes 2 x.cutter.discarded ++ zeros 2 ++
  slot8 x.commitIndex

/-- The stream report from body byte 4 on (R202, R203). -/
def Stream.report (x : Stream) (i : StreamId) : List Byte :=
  x.statusRun i ++ x.statusConfig ++ x.statusWriter ++ x.statusBlocks ++ x.statusCutter

/-- STATUS (R199, R206): the stream byte is examined for STREAM alone. -/
def State.statusRequest (s : State) (tag selector stream : Byte) : State :=
  if selector = 0#8 then s.reply kindStatus tag .ok s.deviceReport
  else if selector = 1#8 then
    match streamOf stream with
    | none => s.refuse kindStatus tag .range
    | some i => s.reply kindStatus tag .ok ((s.stream i).report i)
  else s.refuse kindStatus tag .range

end Sys2Proof.Machine
end

