-- ==== Sys2Proof/Machine/Requests.lean ====
section
/-! DEFINITION. The requests answered outside run control (chapters 1, 6 to 10), the dispatch of a request taken
(R183, R206), the inbound queues (R178) and the executor (R182). -/

namespace Sys2Proof.Machine

/-! ### IDENT (R186) -/

def ResetCause.code : ResetCause → Nat
  | .powerOn => 0
  | .rst => 1
  | .resetRequest => 2

/-- The fields of the IDENT reply (R186, section 11.4). -/
def identFields (cause : ResetCause) : List Byte :=
  leBytes 2 0x0748 ++ byteField 1 ++ byteField cause.code ++
  byteField 4 ++ byteField maxWindows ++ byteField maxCommit ++ byteField outSlots ++
  byteField shortSlots ++ byteField longSlots ++ zeros 2 ++ leBytes 4 65536 ++ leBytes 4 blockBytes

/-- IDENT (R186). -/
def State.ident (s : State) (tag : Byte) : State := s.reply kindIdent tag .ok (identFields s.ctl.resetCause)

/-! ### DRAIN_RESUME (R154) -/

/-- A STUCK entry resumed: FAILED with placements made 0. -/
def CommitEntry.resumed (e : CommitEntry) : CommitEntry := { e with st := .failed, placements := 0 }

/-- The number of STUCK entries of a stream. -/
def Link.stuckCount (l : Link) (i : StreamId) : Nat := (l.commit.filter (CommitEntry.stuckOf i)).length

/-- DRAIN_RESUME (R154). -/
def State.drainResume (s : State) (tag stream : Byte) : State :=
  match streamOf stream with
  | none => s.refuse kindDrainResume tag .range
  | some i =>
    if (s.stream i).drain = .blocked then
      let s1 := s.modLink fun l =>
        { l with commit := l.commit.map fun e => if e.stuckOf i then e.resumed else e }
      (s1.modStream i fun x => { x with drain := .flowing }).reply kindDrainResume tag .ok
        (byteField (s.link.stuckCount i) ++ zeros 3)
    else s.refuse kindDrainResume tag .state

/-! ### WINDOW_GRANT (R109, R110) -/

/-- Order 1 to 3 of R109: multiples of 512, at least 33,554,432 bytes, within the 48-bit address space. -/
def grantInRange (start length : Nat) : Bool :=
  decide (start % 512 = 0) && decide (length % 512 = 0) && decide (33554432 ≤ length) &&
  decide (start + length ≤ 281474976710656)

/-- An accepted grant: the window joins the tail, STARVED is cleared and the low state evaluated (R110). -/
def State.addWindow (s : State) (start length : Nat) : State :=
  (s.modPlace fun p =>
    { p with windows := p.windows ++ [⟨start, length, 0⟩], starved := false }).evalLow

/-- WINDOW_GRANT (R109, R110). -/
def State.windowGrant (s : State) (tag : Byte) (start length : BitVec 48) : State :=
  if !grantInRange start.toNat length.toNat then s.refuse kindWindowGrant tag .range
  else if s.grantOverlaps start.toNat length.toNat then s.refuse kindWindowGrant tag .overlap
  else if maxWindows ≤ s.place.windows.length then s.refuse kindWindowGrant tag .full
  else
    let s1 := s.addWindow start.toNat length.toNat
    s1.reply kindWindowGrant tag .ok
      (byteField s1.place.windows.length ++ zeros 3 ++ slotRemaining s1.place.remaining)

/-! ### LINK_CONTROL (R124) -/

/-- LINK_CONTROL (R124, R206). -/
def State.linkControl (s : State) (tag action : Byte) : State :=
  if action = 1#8 then
    s.linkEnable.reply kindLinkControl tag .ok (byteField s.linkEnable.link.state.code ++ zeros 3)
  else if action = 2#8 then
    s.linkDisable.reply kindLinkControl tag .ok (byteField s.linkDisable.link.state.code ++ zeros 3)
  else s.refuse kindLinkControl tag .range

/-! ### SYNC (R147) -/

/-- The sync context of a SYNC accepted with a mask (R147, R148). -/
def State.syncStart (s : State) (tag : Byte) (mask : Nat) : SyncCtx :=
  SyncCtx.check ⟨.waitLeave, tag, s.link.newestOf mask, s.ctl.timing.sync⟩

/-- SYNC (R147): an accepted one keeps its reservation and replies later. -/
def State.syncRequest (s : State) (tag mask : Byte) : State :=
  if mask = 0#8 ∨ 16 ≤ mask.toNat then s.refuse kindSync tag .range
  else if s.link.sync.phase ≠ .idle then s.refuse kindSync tag .busy
  else s.modLink fun l => { l with sync := s.syncStart tag mask.toNat }

/-! ### PREVIEW (R20 to R23) -/

/-- The samples a PREVIEW asks for after the clamp (R20). -/
def previewCount (w : Width) (maxBytes : Nat) : Nat := min maxBytes 4064 / w.bytes

/-- The GONE reply's fields (R20, R208): stream, k 0, width, the oldest index held, no sample. -/
def Stream.goneFields (x : Stream) (i : StreamId) : List Byte :=
  byteField i.num ++ zeros 1 ++ byteField x.cfg.width.code ++ zeros 1 ++ slot8 x.oldestHeld ++ zeros 16

/-- An accepted PREVIEW: its span is fixed, the entries it meets are pinned, and the preview reader starts
(R21 to R23). -/
def State.previewStart (s : State) (i : StreamId) (tag : Byte) (plan : SpanPlan) : State :=
  let x := s.stream i
  let blocks := Seg.blocks plan.segs
  let s1 := s.modStream i fun y => { y with capture := pinBlocks blocks y.capture }
  ({ s1 with preview := some {
      stream := i, tag := tag, k := plan.k, width := x.cfg.width, first := plan.first,
      segs := plan.segs, data := [], replaced := 0, pinned := blocks } }).previewRun.settle

/-- PREVIEW (R20, R206). -/
def State.previewRequest (s : State) (tag stream sel : Byte) (maxBytes : BitVec 16) (index : BitVec 48) :
    State :=
  match streamOf stream with
  | none => s.refuse kindPreview tag .range
  | some i =>
    let x := s.stream i
    let n := previewCount x.cfg.width maxBytes.toNat
    if 2 ≤ sel.toNat then s.refuse kindPreview tag .range
    else if n = 0 then s.refuse kindPreview tag .range
    else if !x.active then s.refuse kindPreview tag .state
    else if s.preview.isSome then s.refuse kindPreview tag .busy
    else if sel = 0#8 then s.previewStart i tag (x.newestPlan n)
    else if x.writer.index ≤ index.toNat then s.refuse kindPreview tag .range
    else if index.toNat < x.oldestHeld then s.reply kindPreview tag .gone (x.goneFields i)
    else s.previewStart i tag (x.fromPlan index.toNat n)

/-! ### NOTICE_MASK and NOTICE_TAKE (R195, R197) -/

/-- The set names a category the part does not define (R206: bits 11 to 15). -/
def unknownCategory (set : BitVec 16) : Bool := decide (2048 ≤ set.toNat)

/-- The mask as applied: POWER reads as enabled whatever the request gives (R195). -/
def appliedMask (enables : BitVec 16) : BitVec 11 := enables.setWidth 11 ||| powerBit

/-- NOTICE_MASK (R195). -/
def State.noticeMask (s : State) (tag : Byte) (enables : BitVec 16) : State :=
  if unknownCategory enables then s.refuse kindNoticeMask tag .range
  else
    ({ s with notices := { s.notices with mask := appliedMask enables } }).reply kindNoticeMask tag .ok
      (leBytes 2 (appliedMask enables).toNat ++ zeros 2 ++ s.notices.pendingSet)

/-- The counts of one stream with the selected categories cleared. -/
def StreamCounts.clear (sel : BitVec 16) (n : StreamCounts) : StreamCounts :=
  StreamCat.all.foldl (fun n c => if sel.getLsbD c.bit then n.set c 0 else n) n

/-- The device counts with the selected categories cleared. -/
def DeviceCounts.clear (sel : BitVec 16) (n : DeviceCounts) : DeviceCounts :=
  DeviceCat.all.foldl (fun n c => if sel.getLsbD c.bit then n.set c 0 else n) n

/-- The notice unit after a take (R197): the selected counts are 0, the mask is unchanged. -/
def Notices.taken (n : Notices) (sel : BitVec 16) : Notices where
  streams := ⟨n.streams.q0.clear sel, n.streams.q1.clear sel, n.streams.q2.clear sel, n.streams.q3.clear sel⟩
  device := n.device.clear sel
  mask := n.mask

/-- The counts a NOTICE_TAKE reply carries (R197, section 11.5); 0 for a category not selected (R207). -/
def Notices.takeCounts (n : Notices) (sel : BitVec 16) : List Byte :=
  (StreamCat.all.flatMap fun c => StreamId.all.flatMap fun i =>
    leBytes 2 (if sel.getLsbD c.bit then n.streamCount i c else 0)) ++
  (DeviceCat.all.flatMap fun c => leBytes 2 (if sel.getLsbD c.bit then n.device.get c else 0))

/-- NOTICE_TAKE (R197). -/
def State.noticeTake (s : State) (tag : Byte) (sel : BitVec 16) : State :=
  if unknownCategory sel then s.refuse kindNoticeTake tag .range
  else
    ({ s with notices := s.notices.taken sel }).reply kindNoticeTake tag .ok
      (leBytes 2 sel.toNat ++ zeros 2 ++ s.notices.takeCounts sel ++ zeros 2 ++
       (s.notices.taken sel).pendingSet)

/-! ### ERROR_SETUP, ERROR_READ, INJECT (R170 to R172) -/

/-- The memory a request byte names (chapter 11). -/
def memoryOf : Nat → Option MemId
  | 0 => some .capture
  | 1 => some .staging
  | 2 => some .replay
  | _ => none

def captureModeOf : Nat → Option CaptureMode
  | 0 => some .first
  | 1 => some .last
  | _ => none

def CaptureMode.code : CaptureMode → Nat
  | .first => 0
  | .last => 1

/-- ERROR_SETUP (R170). -/
def State.errorSetup (s : State) (tag memory mode : Byte) : State :=
  match memoryOf memory.toNat, captureModeOf mode.toNat with
  | some m, some c =>
    (s.modMon m fun x => { x with mode := c }).reply kindErrorSetup tag .ok
      (byteField memory.toNat ++ byteField c.code ++ zeros 2)
  | _, _ => s.refuse kindErrorSetup tag .range

/-- A memory's monitor after an ERROR_READ with its two clear flags (R171). -/
def MemMon.cleared (x : MemMon) (corrected uncorrectable : Bool) : MemMon where
  corrected := if corrected then 0 else x.corrected
  uncorrectable := if uncorrectable then 0 else x.uncorrectable
  corrAddr := if corrected then none else x.corrAddr
  uncorrAddr := if uncorrectable then none else x.uncorrAddr
  mode := x.mode
  arming := x.arming

/-- The fields of an ERROR_READ reply (R171, section 11.4). -/
def MemMon.fields (x : MemMon) (memory : Nat) : List Byte :=
  byteField memory ++ byteField x.mode.code ++
  byteField (flagNat x.corrAddr.isSome + 2 * flagNat x.uncorrAddr.isSome + 4 * flagNat x.arming.isSome) ++
  byteField x.uncorrectable ++ leBytes 2 x.corrected ++ zeros 6 ++
  leBytes 8 (x.corrAddr.getD 0) ++ leBytes 8 (x.uncorrAddr.getD 0)

/-- ERROR_READ (R171): flag bit 0 clears the corrected items, bit 1 the uncorrectable ones. -/
def State.errorRead (s : State) (tag memory flags : Byte) : State :=
  match memoryOf memory.toNat with
  | none => s.refuse kindErrorRead tag .range
  | some m =>
    (s.modMon m fun x => x.cleared (flags.getLsbD 0) (flags.getLsbD 1)).reply kindErrorRead tag .ok
      ((s.integ.get m).fields memory.toNat)

/-- The number of positions of a memory and target (R172). -/
def positionLimit (m : MemId) (check : Bool) : Nat :=
  if check then 8 else match m with | .capture => 64 | _ => 512

/-- INJECT (R172): position b is not examined when absent (R206). -/
def State.inject (s : State) (tag memory target bPresent : Byte) (a b : BitVec 16) : State :=
  match memoryOf memory.toNat with
  | none => s.refuse kindInject tag .range
  | some m =>
    let limit := positionLimit m (target = 1#8)
    if 2 ≤ target.toNat ∨ limit ≤ a.toNat ∨ (bPresent ≠ 0#8 ∧ limit ≤ b.toNat) then
      s.refuse kindInject tag .range
    else
      let g : Arming := ⟨target = 1#8, a.toNat, if bPresent = 0#8 then none else some b.toNat⟩
      (s.modMon m fun x => { x with arming := some g }).reply kindInject tag .ok
        (byteField (flagNat (s.integ.get m).arming.isSome) ++ zeros 3)

/-! ### TIMING_SET (R187) -/

/-- A value clamped to a range (R187). -/
def clampTo (lo hi v : Nat) : Nat := max lo (min hi v)

/-- The timing set after a TIMING_SET (R187). -/
def Timing.apply (t : Timing) (flags : Byte) (commit sync lead : Nat) : Timing where
  commit := if flags.getLsbD 0 then clampTo 1 1000 commit else t.commit
  sync := if flags.getLsbD 1 then clampTo 10 60000 sync else t.sync
  lead := if flags.getLsbD 2 then clampTo 0 60000 lead else t.lead

/-- TIMING_SET (R187): a change of the lead time evaluates the low state (R119). -/
def State.timingSet (s : State) (tag flags : Byte) (commit sync lead : BitVec 32) : State :=
  let t := s.ctl.timing.apply flags commit.toNat sync.toNat lead.toNat
  let s1 := s.modCtl fun c => { c with timing := t }
  let s2 := if t.lead = s.ctl.timing.lead then s1 else s1.evalLow
  s2.reply kindTimingSet tag .ok t.bytes

/-! ### RESET (R188) -/

/-- RESET: the OK reply is built and the RESET hold set (R188). -/
def State.resetRequest (s : State) (tag : Byte) : State :=
  s.modCtl fun c =>
    { c with
      out := c.out ++ [⟨c.replyFrame kindReset tag .ok [], true⟩],
      reserved := c.reserved - 1, resetHold := true }

/-! ### The executor (R182, R183) -/

/-- A request taken is checked and executed by its own rule. -/
def State.runRequest (s : State) (tag : Byte) : Request → State
  | .ident => s.ident tag
  | .streamSetup f => s.streamSetup tag f
  | .auxRoute line edge mask => s.auxRoute tag line edge mask
  | .runStart f => s.runStart tag f
  | .runStop i => s.runStop tag i
  | .runAbort i => s.runAbort tag i
  | .drainResume i => s.drainResume tag i
  | .markNow i => s.markNow tag i
  | .windowGrant a n => s.windowGrant tag a n
  | .linkControl a => s.linkControl tag a
  | .sync m => s.syncRequest tag m
  | .preview i sel n x => s.previewRequest tag i sel n x
  | .status sel i => s.statusRequest tag sel i
  | .noticeMask e => s.noticeMask tag e
  | .noticeTake e => s.noticeTake tag e
  | .errorSetup m c => s.errorSetup tag m c
  | .errorRead m f => s.errorRead tag m f
  | .inject m t p a b => s.inject tag m t p a b
  | .timingSet f c y l => s.timingSet tag f c y l
  | .reset => s.resetRequest tag

/-- A frame taken is checked against its kind, then its request runs (R183). -/
def State.runFrame (s : State) (f : InFrame) : State :=
  match decodeFrame f with
  | .unknown => s.refuse f.kind f.tag .unknown
  | .badLength => s.refuse f.kind f.tag .length
  | .request r => s.runRequest f.tag r

/-- The conditions of a take but for a frame being queued: a free outbound slot and no RESET hold (R182). -/
def Control.mayTake (c : Control) : Bool :=
  decide (c.reserved + c.out.length < outSlots) && !c.resetHold

/-- The oldest frame leaves its queue and a slot is reserved (R181, R182). -/
def State.takeFrame (s : State) (rest : List InFrame) : State :=
  s.modCtl fun c => { c with inbound := rest, reserved := c.reserved + 1 }

/-- The executor takes frames while the conditions of R182 hold, at most `fuel` of them. -/
def State.execute : Nat → State → State
  | 0, s => s
  | fuel + 1, s =>
    match s.ctl.inbound with
    | [] => s
    | f :: rest =>
      if s.ctl.mayTake then State.execute fuel ((s.takeFrame rest).runFrame f) else s

/-- The executor goes on as far as it can (R182). -/
def State.executor (s : State) : State := s.execute s.ctl.inbound.length

/-! ### Filing (R178) -/

/-- A good frame is filed, or dropped and counted at a full queue (R178). -/
def Control.file (c : Control) (f : InFrame) : Control :=
  if f.isShort then
    if c.shortUsed < shortSlots then { c with inbound := c.inbound ++ [f] }
    else { c with shortDrops := inc16 c.shortDrops }
  else
    if c.longUsed < longSlots then { c with inbound := c.inbound ++ [f] }
    else { c with longDrops := inc16 c.longDrops }

/-- A good frame is received: it is filed, and the executor goes on (R178, R182). -/
def State.submit (s : State) (f : InFrame) : State := (s.modCtl fun c => c.file f).executor

/-- The host sends a request in a good frame. -/
def State.request (s : State) (tag : Byte) (r : Request) : State := s.submit (requestFrame tag r)

end Sys2Proof.Machine
end

