-- ==== Sys2Proof/Machine/ControlLink.lean ====
section
/-! DEFINITION. The resets (R80, R81, R189, R191) and the periods of the control link (R175 to R180). -/

namespace Sys2Proof.Machine

/-! ### Resets -/

/-- After a reset the device takes the level of PFAIL# as it stands: asserted, it is in the power-fail
condition with POWER pending (R79). -/
def State.takePfail (s : State) (level : Bool) : State :=
  let s1 := { s with pfail := level, powerFail := level }
  if level then s1.raiseDev .power else s1

/-- Power-on and RST# (R80, R191): every item at its reset value; the waiting commands and the level of the
PFAIL# line stay. -/
def State.hardReset (s : State) (cause : ResetCause) : State :=
  let fresh := State.reset
  ({ fresh with
      pending := s.pending,
      ctl := { fresh.ctl with resetCause := cause } }).takePfail s.pfail

/-- An access already granted completes after a RESET request: a flush with the bytes its buffer held, a
read with its data discarded (R19, R81). -/
def State.grantedAfterReset (s : State) : Option Access :=
  match s.port.granted with
  | none => none
  | some (.flush i a none) => some (.flush i a (s.stream i).writer.awaiting.head?)
  | some (.flush i a (some b)) => some (.flush i a (some b))
  | some (.drain a n p _) => some (.drain a n p false)
  | some (.preview a n _) => some (.preview a n false)

/-- The monitor of a memory after a RESET request: kept but for the arming (R156, R174). -/
def MemMon.disarmed (x : MemMon) : MemMon := { x with arming := none }

/-- The archive link controller after a RESET request (R123). -/
def Link.softReset (l : Link) : Link :=
  { Link.reset with state := if l.state = .disabled then .disabled else .training }

/-- A RESET request takes effect (R81, R189): capture memory and the integrity monitor's counts are kept, the
archive link keeps its enable, every other item takes its reset value. -/
def State.softReset (s : State) : State :=
  let fresh := State.reset
  ({ fresh with
      pending := s.pending,
      mem := s.mem,
      port := { Port.reset with granted := s.grantedAfterReset },
      link := s.link.softReset,
      integ := ⟨s.integ.capture.disarmed, s.integ.staging.disarmed, s.integ.replay.disarmed⟩,
      ctl := { fresh.ctl with resetCause := .resetRequest } }).takePfail s.pfail

/-! ### Periods -/

/-- A framing error (R179). -/
def Control.framingError (c : Control) : Control := { c with framingErrors := inc16 c.framingErrors }

/-- A CRC error (R179). -/
def Control.crcError (c : Control) : Control := { c with crcErrors := inc16 c.crcErrors }

/-- A period with another opener than 0xA7 and 0xB4 is discarded and counted (R175). -/
def State.badOpener (s : State) (opener : Byte) : State :=
  if opener = 0xA7#8 ∨ opener = 0xB4#8 then s else s.modCtl Control.framingError

/-- What the bytes after the opener of a write period yield (R176, R177). -/
inductive Received where
  | framing
  | crc
  | frame (f : InFrame)
  deriving DecidableEq, Repr

/-- The checks made at the end of a write period (R176, R177): `bytes` are those after the opener, so a whole
frame has 6 + body length of them. -/
def receive (bytes : List Byte) : Received :=
  match bytes with
  | kind :: tag :: l0 :: l1 :: rest =>
    let n := leNat [l0, l1]
    if 256 < n then .framing
    else if rest.length ≠ n + 2 then .framing
    else
      let body := rest.take n
      let checked := kind :: tag :: l0 :: l1 :: body
      if leNat (rest.drop n) = (crc16 checked).toNat then .frame ⟨kind, tag, body⟩ else .crc
  | _ => .framing

/-- The end of a write period (R176 to R178). -/
def State.writePeriodEnd (s : State) (bytes : List Byte) : State :=
  match receive bytes with
  | .framing => s.modCtl Control.framingError
  | .crc => s.modCtl Control.crcError
  | .frame f => s.submit f

/-- The empty frame (R180, section 11.3). -/
def Control.emptyFrame (c : Control) : List Byte :=
  outFrame 0#8 0#8 [BitVec.ofNat 8 c.shortFree, BitVec.ofNat 8 c.longFree]

/-- The frame a read period sends: the head of the outbound queue, or the empty frame (R180). -/
def Control.readFrame (c : Control) : ReadPeriod :=
  match c.out with
  | [] => ⟨c.emptyFrame, false⟩
  | f :: _ => ⟨f.bytes, true⟩

/-- The byte CL_SDO carries while the byte in position `n` of a read period is clocked: 0x00 during the opener,
which has position 0, then the frame's bytes, then 0x00 for as long as the host keeps clocking (R175, R180). -/
def ReadPeriod.sdo (r : ReadPeriod) : Nat → Byte
  | 0 => 0#8
  | n + 1 => r.bytes.getD n 0#8

/-- The byte CL_SDO carries in position `n` of the period in progress. Where no read period is in progress it is
0x00: a write period and one with a bad opener carry 0x00 on every byte (R175). -/
def State.sdo (s : State) (n : Nat) : Byte :=
  match s.ctl.reading with
  | none => 0#8
  | some r => r.sdo n

/-- The opener of a read period is taken (R180). -/
def State.readPeriodStart (s : State) : State := s.modCtl fun c => { c with reading := some c.readFrame }

/-- The head frame leaves the outbound queue: the RESET reply's leaving makes the reset take effect (R188),
any other lets the executor go on (R182). -/
def State.removeHead (s : State) : State :=
  match s.ctl.out with
  | [] => s
  | f :: rest =>
    if f.isReset then s.softReset else (s.modCtl fun c => { c with out := rest }).executor

/-- The end of a read period in which `clocked` whole bytes were clocked out after the opener (R180): a
queued frame clocked out to its last CRC byte leaves the queue, whatever follows it (`ReadPeriod.sdo`). -/
def State.readPeriodEnd (s : State) (clocked : Nat) : State :=
  match s.ctl.reading with
  | none => s
  | some r =>
    let s1 := s.modCtl fun c => { c with reading := none }
    if r.fromQueue && decide (r.bytes.length ≤ clocked) then s1.removeHead else s1

end Sys2Proof.Machine
end

