-- ==== Sys2Proof/Machine/ControlCommands.lean ====
section
/-! DEFINITION. The meanings of the control link's periods and requests (chapters 9 to 11). A request command is
the good write period of that request: its frame is filed and the executor goes on (R178, R182). -/

namespace Sys2Proof.Machine

/-- BAD_OPENER (R175). -/
def execBadOpener (opener : Byte) (s : State) : Result := .next (s.badOpener opener)

/-- WRITE_PERIOD_END (R176). The table has no start of a write period, so none is held; one that a reset abandons
gives no WRITE_PERIOD_END (R175; DESIGN CHOICE, log 28). -/
def execWritePeriodEnd (bytes : List Byte) (s : State) : Result := .next (s.writePeriodEnd bytes)

/-- READ_PERIOD_START (R180): it fixes the frame that CL_SDO carries in the period (`State.sdo`). -/
def execReadPeriodStart (s : State) : Result := .next s.readPeriodStart

/-- READ_PERIOD_END (R180). -/
def execReadPeriodEnd (clocked : Nat) (s : State) : Result := .next (s.readPeriodEnd clocked)

/-- UNKNOWN_REQUEST (R183). -/
def execUnknownRequest (tag kind : Byte) (body : List Byte) (s : State) : Result :=
  .next (s.submit ⟨kind, tag, body⟩)

/-- IDENT (R186). -/
def execIdent (tag : Byte) (s : State) : Result := .next (s.request tag .ident)

/-- STREAM_SETUP (R65). -/
def execStreamSetup (tag : Byte) (fields : SetupFields) (s : State) : Result :=
  .next (s.request tag (.streamSetup fields))

/-- AUX_ROUTE (R57). -/
def execAuxRoute (tag line edge mask : Byte) (s : State) : Result :=
  .next (s.request tag (.auxRoute line edge mask))

/-- RUN_START (R68). -/
def execRunStart (tag : Byte) (fields : StartFields) (s : State) : Result :=
  .next (s.request tag (.runStart fields))

/-- RUN_STOP (R71). -/
def execRunStop (tag stream : Byte) (s : State) : Result := .next (s.request tag (.runStop stream))

/-- RUN_ABORT (R73). -/
def execRunAbort (tag stream : Byte) (s : State) : Result := .next (s.request tag (.runAbort stream))

/-- DRAIN_RESUME (R154). -/
def execDrainResume (tag stream : Byte) (s : State) : Result := .next (s.request tag (.drainResume stream))

/-- MARK_NOW (R59). -/
def execMarkNow (tag stream : Byte) (s : State) : Result := .next (s.request tag (.markNow stream))

/-- WINDOW_GRANT (R109). -/
def execWindowGrant (tag : Byte) (start length : BitVec 48) (s : State) : Result :=
  .next (s.request tag (.windowGrant start length))

/-- LINK_CONTROL with action ENABLE (R124). -/
def execLinkControlEnable (tag : Byte) (s : State) : Result := .next (s.request tag (.linkControl 1#8))

/-- LINK_CONTROL with action DISABLE (R124). -/
def execLinkControlDisable (tag : Byte) (s : State) : Result := .next (s.request tag (.linkControl 2#8))

/-- SYNC (R147). -/
def execSync (tag mask : Byte) (s : State) : Result := .next (s.request tag (.sync mask))

/-- PREVIEW (R20). -/
def execPreview (tag stream selection : Byte) (maxBytes : BitVec 16) (index : BitVec 48) (s : State) : Result :=
  .next (s.request tag (.preview stream selection maxBytes index))

/-- STATUS with selector DEVICE (R199). -/
def execStatusDevice (tag : Byte) (s : State) : Result := .next (s.request tag (.status 0#8 0#8))

/-- STATUS with selector STREAM (R199). -/
def execStatusStream (tag stream : Byte) (s : State) : Result := .next (s.request tag (.status 1#8 stream))

/-- NOTICE_MASK (R195). -/
def execNoticeMask (tag : Byte) (enables : BitVec 16) (s : State) : Result :=
  .next (s.request tag (.noticeMask enables))

/-- NOTICE_TAKE (R197). -/
def execNoticeTake (tag : Byte) (selection : BitVec 16) (s : State) : Result :=
  .next (s.request tag (.noticeTake selection))

/-- ERROR_SETUP (R170). -/
def execErrorSetup (tag memory mode : Byte) (s : State) : Result :=
  .next (s.request tag (.errorSetup memory mode))

/-- ERROR_READ (R171). -/
def execErrorRead (tag memory flags : Byte) (s : State) : Result :=
  .next (s.request tag (.errorRead memory flags))

/-- INJECT (R172). -/
def execInject (tag memory target bPresent : Byte) (a b : BitVec 16) (s : State) : Result :=
  .next (s.request tag (.inject memory target bPresent a b))

/-- TIMING_SET (R187). -/
def execTimingSet (tag flags : Byte) (commit sync lead : BitVec 32) (s : State) : Result :=
  .next (s.request tag (.timingSet flags commit sync lead))

/-- RESET (R188). -/
def execReset (tag : Byte) (s : State) : Result := .next (s.request tag .reset)

end Sys2Proof.Machine
end

