-- ==== Sys2Proof/Machine/LaneCommands.lean ====
section
/-! DEFINITION. The meanings of the lane, writer and AUX commands (chapters 2 and 3). -/

namespace Sys2Proof.Machine

/-- BEAT_ARRIVAL (R25). -/
def execBeatArrival (lane : StreamId) (beat : List Byte) (mark : Option Nat) (s : State) : Result :=
  .next (s.beatArrival lane beat mark)

/-- BEAT_TAKE (R27). -/
def execBeatTake (stream : StreamId) (s : State) : Result := .next (s.beatTake stream)

/-- SAMPLE_PROCESS (R30). -/
def execSampleProcess (stream : StreamId) (s : State) : Result := .next (s.sampleProcess stream)

/-- FLUSH_AGE_EXPIRY (R35). -/
def execFlushAgeExpiry (stream : StreamId) (s : State) : Result := .next (s.flushAgeExpiry stream)

/-- AUX_EDGE (R58). -/
def execAuxEdge (line : AuxLine) (rising : Bool) (s : State) : Result := .next (s.auxEdge line rising)

end Sys2Proof.Machine
end

