-- ==== Sys2Proof/Machine/PortCommands.lean ====
section
/-! DEFINITION. The meanings of the memory port's completions (chapters 1, 2, 7 and 8). Each acts when the port
has granted an access of its kind, and does nothing otherwise. -/

namespace Sys2Proof.Machine

/-- The bytes the granted flush of stream `i` writes: whole words (R33). -/
def State.flushLen (s : State) (i : StreamId) (orphan : Option StageBuf) : Nat :=
  match orphan with
  | some b => 8 * b.words
  | none =>
    match (s.stream i).writer.awaiting with
    | [] => 0
    | b :: _ => 8 * b.words

/-- FLUSH_COMPLETE (R32). -/
def execFlushComplete (upsets : List Upset) (s : State) : Result :=
  match s.port.granted with
  | some (.flush i addr orphan) =>
    if inCapture addr (s.flushLen i orphan) then .next ((s.upsets upsets).flushDone i addr orphan)
    else .fault .captureAddress
  | _ => .next s

/-- DRAIN_READ_COMPLETE (R132). An access whose reader has gone completes all the same: its data are discarded
(R19), the errors of its units are counted as at each read (R159), and they join no tally (log 11). -/
def execDrainReadComplete (upsets : List Upset) (s : State) : Result :=
  match s.port.granted with
  | some (.drain addr len pos live) =>
    if inCapture addr len then
      let s1 := s.upsets upsets
      let s2 := if live then s1.drainTake addr len pos else s1.countUnits addr len (unitsOf addr len)
      .next (s2.freePort).settle
    else .fault .captureAddress
  | _ => .next s

/-- PREVIEW_READ_COMPLETE (R23). An access whose reader has gone completes all the same: its data are discarded
(R19) and the errors of its units are counted as at each read (R159). -/
def execPreviewReadComplete (upsets : List Upset) (s : State) : Result :=
  match s.port.granted with
  | some (.preview addr len live) =>
    if inCapture addr len then
      let s1 := (s.upsets upsets).freePort
      .next (if live then s1.previewTake addr len else s1.countUnits addr len (unitsOf addr len)).settle
    else .fault .captureAddress
  | _ => .next s

end Sys2Proof.Machine
end

