-- ==== Sys2Proof/Machine/PowerCommands.lean ====
section
/-! DEFINITION. The meanings of the power, reset and PFAIL# commands (chapter 4). -/

namespace Sys2Proof.Machine

/-- POWER_ON (R80). -/
def execPowerOn (s : State) : Result := .next (s.hardReset .powerOn)

/-- RST (R80). -/
def execRst (s : State) : Result := .next (s.hardReset .rst)

/-- PFAIL_ASSERT (R78). -/
def execPfailAssert (s : State) : Result := .next s.pfailAssert

/-- PFAIL_DEASSERT (R79). -/
def execPfailDeassert (s : State) : Result := .next s.pfailDeassert

end Sys2Proof.Machine
end

