-- ==== Sys2Proof/Machine/Dispatch.lean ====
section
/-! DEFINITION. The dispatch of a command to its meaning, one arm for each constructor of `Instr`. -/

namespace Sys2Proof.Machine

def exec (i : Instr) (s : State) : Host.Outcome State Fault Refusal :=
  match i with
  | .powerOn => Sys2Proof.Machine.execPowerOn s
  | .rst => Sys2Proof.Machine.execRst s
  | .pfailAssert => Sys2Proof.Machine.execPfailAssert s
  | .pfailDeassert => Sys2Proof.Machine.execPfailDeassert s
  | .beatArrival lane beat mark => Sys2Proof.Machine.execBeatArrival lane beat mark s
  | .beatTake stream => Sys2Proof.Machine.execBeatTake stream s
  | .sampleProcess stream => Sys2Proof.Machine.execSampleProcess stream s
  | .flushAgeExpiry stream => Sys2Proof.Machine.execFlushAgeExpiry stream s
  | .flushComplete upsets => Sys2Proof.Machine.execFlushComplete upsets s
  | .drainReadComplete upsets => Sys2Proof.Machine.execDrainReadComplete upsets s
  | .previewReadComplete upsets => Sys2Proof.Machine.execPreviewReadComplete upsets s
  | .auxEdge line rising => Sys2Proof.Machine.execAuxEdge line rising s
  | .cut => Sys2Proof.Machine.execCut s
  | .rePlacement => Sys2Proof.Machine.execRePlacement s
  | .gateEnd => Sys2Proof.Machine.execGateEnd s
  | .writeSend upsets => Sys2Proof.Machine.execWriteSend upsets s
  | .durableQuerySend => Sys2Proof.Machine.execDurableQuerySend s
  | .accept => Sys2Proof.Machine.execAccept s
  | .retry upsets => Sys2Proof.Machine.execRetry upsets s
  | .narrow => Sys2Proof.Machine.execNarrow s
  | .refuse code => Sys2Proof.Machine.execRefuse code s
  | .committed address => Sys2Proof.Machine.execCommitted address s
  | .refused address code => Sys2Proof.Machine.execRefused address code s
  | .commitTimeout stream seq => Sys2Proof.Machine.execCommitTimeout stream seq s
  | .durable => Sys2Proof.Machine.execDurable s
  | .notYet => Sys2Proof.Machine.execNotYet s
  | .pollWaitEnd => Sys2Proof.Machine.execPollWaitEnd s
  | .syncTimeout => Sys2Proof.Machine.execSyncTimeout s
  | .responseTimeout => Sys2Proof.Machine.execResponseTimeout s
  | .badFrame => Sys2Proof.Machine.execBadFrame s
  | .trainingLost => Sys2Proof.Machine.execTrainingLost s
  | .faultWaitEnd => Sys2Proof.Machine.execFaultWaitEnd s
  | .trainingReply => Sys2Proof.Machine.execTrainingReply s
  | .attemptEnd => Sys2Proof.Machine.execAttemptEnd s
  | .restEnd => Sys2Proof.Machine.execRestEnd s
  | .badOpener opener => Sys2Proof.Machine.execBadOpener opener s
  | .writePeriodEnd bytes => Sys2Proof.Machine.execWritePeriodEnd bytes s
  | .readPeriodStart => Sys2Proof.Machine.execReadPeriodStart s
  | .readPeriodEnd clocked => Sys2Proof.Machine.execReadPeriodEnd clocked s
  | .unknownRequest tag kind body => Sys2Proof.Machine.execUnknownRequest tag kind body s
  | .ident tag => Sys2Proof.Machine.execIdent tag s
  | .streamSetup tag fields => Sys2Proof.Machine.execStreamSetup tag fields s
  | .auxRoute tag line edge mask => Sys2Proof.Machine.execAuxRoute tag line edge mask s
  | .runStart tag fields => Sys2Proof.Machine.execRunStart tag fields s
  | .runStop tag stream => Sys2Proof.Machine.execRunStop tag stream s
  | .runAbort tag stream => Sys2Proof.Machine.execRunAbort tag stream s
  | .drainResume tag stream => Sys2Proof.Machine.execDrainResume tag stream s
  | .markNow tag stream => Sys2Proof.Machine.execMarkNow tag stream s
  | .windowGrant tag start length => Sys2Proof.Machine.execWindowGrant tag start length s
  | .linkControlEnable tag => Sys2Proof.Machine.execLinkControlEnable tag s
  | .linkControlDisable tag => Sys2Proof.Machine.execLinkControlDisable tag s
  | .sync tag mask => Sys2Proof.Machine.execSync tag mask s
  | .preview tag stream selection maxBytes index => Sys2Proof.Machine.execPreview tag stream selection maxBytes index s
  | .statusDevice tag => Sys2Proof.Machine.execStatusDevice tag s
  | .statusStream tag stream => Sys2Proof.Machine.execStatusStream tag stream s
  | .noticeMask tag enables => Sys2Proof.Machine.execNoticeMask tag enables s
  | .noticeTake tag selection => Sys2Proof.Machine.execNoticeTake tag selection s
  | .errorSetup tag memory mode => Sys2Proof.Machine.execErrorSetup tag memory mode s
  | .errorRead tag memory flags => Sys2Proof.Machine.execErrorRead tag memory flags s
  | .inject tag memory target bPresent a b => Sys2Proof.Machine.execInject tag memory target bPresent a b s
  | .timingSet tag flags commit sync lead => Sys2Proof.Machine.execTimingSet tag flags commit sync lead s
  | .reset tag => Sys2Proof.Machine.execReset tag s

end Sys2Proof.Machine
end

