-- ==== Sys2Proof/Safety.lean ====
section
/-! DEFINITION. What holds of every state a run reaches: the laws of the manual over the whole part, in the terms
the statements use. -/

namespace Sys2Proof.Machine

/-- A request that arrives now is taken at once: no frame waits, an outbound slot is free, and the RESET hold
is clear (R182). -/
def State.takesAtOnce (s : State) : Prop :=
  s.ctl.inbound = [] ∧ s.ctl.reserved + s.ctl.out.length < 8 ∧ s.ctl.resetHold = false

/-- The state with one more reply filled in the outbound queue, as a request taken at once leaves it: the reply
kind is the request's with bit 7 set, and both inbound queues are empty when it is built, so it
reports 16 and 2 free slots (R183, R207). -/
def State.answered (s : State) (kind tag status : Byte) (fields : List Byte) : State :=
  { s with ctl := { s.ctl with
      out := s.ctl.out ++ [⟨outFrame (kind ||| 0x80#8) tag ([status, 16#8, 2#8, 0#8] ++ fields), false⟩] } }

/-- The state with the reservation of a request in flight filled by its reply, which reports the free slots of
both inbound queues (R183, R185, R207). -/
def State.replied (s : State) (kind tag status : Byte) (fields : List Byte) : State :=
  { s with ctl := { s.ctl with
      reserved := s.ctl.reserved - 1,
      out := s.ctl.out ++ [⟨outFrame (kind ||| 0x80#8) tag
        ([status, BitVec.ofNat 8 (16 - s.ctl.shortUsed), BitVec.ofNat 8 (2 - s.ctl.longUsed), 0#8] ++ fields),
        false⟩] } }

/-- The notices `m` are the notices `n` with a category raised once for each stream of `p` (R194). -/
def Notices.RaisedFor (n m : Notices) (c : StreamCat) (p : StreamId → Prop) : Prop :=
  m.device = n.device ∧ m.mask = n.mask ∧ ∀ i d,
    (p i ∧ d = c → m.streamCount i d = min 65535 (n.streamCount i d + 1)) ∧
    (¬ (p i ∧ d = c) → m.streamCount i d = n.streamCount i d)

/-- The accepted values of STREAM_SETUP's fields, stream and pool overlap apart (section 4.2). -/
def setupInRange (f : SetupFields) : Prop :=
  f.base.toNat ≤ 65535 ∧ 8 ≤ f.count.toNat ∧ f.base.toNat + f.count.toNat ≤ 65536 ∧
  (f.width = 8#8 ∨ f.width = 16#8) ∧
  f.intervalFrac.toNat < 2 ^ 24 ∧ ¬ (f.intervalInt = 0#32 ∧ f.intervalFrac = 0#32) ∧
  f.kmin.toNat ≤ f.kmax.toNat ∧ f.kmax.toNat ≤ 7 ∧ f.policy.toNat ≤ 2 ∧
  1 ≤ f.high.toNat ∧ f.high.toNat ≤ f.count.toNat ∧ f.low.toNat < f.high.toNat ∧
  4096 ≤ f.extent.toNat ∧ f.extent.toNat ≤ 16777216 ∧ f.extent.toNat % 4096 = 0 ∧
  f.flushAge.toNat ≤ 10000 ∧ f.cutOnMark.toNat ≤ 1 ∧ (f.width = 8#8 → f.fillValue.toNat ≤ 255)

/-- A block of the range belongs to the pool of another configured stream (R65 order 5). -/
def State.poolTaken (s : State) (i : StreamId) (base count : Nat) : Prop :=
  ∃ j, j ≠ i ∧ (s.stream j).phase ≠ .unconfigured ∧ ∃ b, base ≤ b ∧ b < base + count ∧
    (s.stream j).cfg.base ≤ b ∧ b < (s.stream j).cfg.base + (s.stream j).cfg.count

/-! ### What the run requests leave of a stream (chapter 4) -/

/-- The run context an accepted RUN_START gives a stream, before any entering of RUNNING (R69). -/
def runGiven (x : Stream) (m : StartMode) (f : StartFields) : Stream :=
  { x with
    startIndex := f.startIndex.toNat, epoch := f.epoch.toNat, runId := f.runId.toNat,
    runLen := if f.lengthPresent = 0#8 then none else some f.runLength.toNat,
    closeReason := .noReason, endIndex := f.startIndex.toNat, drain := .flowing, overrun := 0,
    startMode := m, phase := .armed }

/-- What a stream holds on entering RUNNING (R28, R52, R69, R144). -/
def runEntered (x : Stream) : Stream :=
  { x with
    phase := .running,
    writer := { x.writer with
      index := x.startIndex, k := x.cfg.kmin, mode := .noBlock, stop := none, beat := [],
      boundaryDone := false },
    markers := [], lost := 0, pendingLane := none,
    cutter := {
      openDue := true, cutIndex := x.startIndex, nextSeq := 0, tailGap := none, lastData := none,
      closeCut := false, kept := 0, covered := 0, gapTotal := 0, discarded := 0 },
    commitIndex := x.startIndex }

/-- A stream whose writer stops at once at its index without a block (R43). -/
def stoppedAt (x : Stream) (reason : CloseReason) : Stream :=
  { x with
    phase := .closing, closeReason := reason, hold := [], pendingLane := none, endIndex := x.writer.index,
    writer := { x.writer with
      stop := some ⟨x.writer.index, reason⟩, mode := .stopped, beat := [], boundaryDone := false } }

/-- What a stop request with stop index `n`, the next multiple of 2^k, leaves of a stream whose writer holds none (R33,
R43, R45). Below `n`, and while SEALING, it is only recorded. At `n` a NO_BLOCK writer stops, a DROPPING one stops and
hands its open drop gap on as tail gap, and a FILLING one seals its block: at once when no byte is staged, else when
the staged bytes have been flushed. -/
def stopTaken (x : Stream) (n : Nat) (reason : CloseReason) : Stream :=
  let w := x.writer
  let asked : Stream := { x with
    phase := .closing, closeReason := reason, writer := { w with stop := some ⟨n, reason⟩ } }
  let stopped := stoppedAt x reason
  if w.index < n then asked
  else match w.mode with
    | .noBlock => stopped
    | .dropping => { stopped with cutter := { x.cutter with
        tailGap := if w.dropStart < n then some ⟨w.dropStart, n, ⟨true, false, false⟩, w.k⟩ else x.cutter.tailGap } }
    | .filling =>
      if w.fillBuf.count = 0 ∧ w.awaiting = [] then { stopped with
        capture := x.capture.dropLast ++ x.capture.getLast?.toList.map fun e =>
          if e.st = .filling then { e with st := .full } else e,
        writer := { stopped.writer with filling := none, fillOffset := 0, ageRunning := false, write := none } }
      else { asked with writer := { asked.writer with
        mode := .sealing, ageRunning := false, write := none,
        awaiting := if w.fillBuf.count = 0 then w.awaiting else w.awaiting ++ [w.fillBuf],
        fillBuf := if w.fillBuf.count = 0 then w.fillBuf else .empty } }
    | .sealing | .stopped => asked

/-- The causes of the gap an abort forms: ABORTED with the causes of what it gives up (R74 step 3). -/
def abortGathers (x : Stream) : Causes where
  ringFullNew :=
    x.capture.any (fun e => (e.st == .filling || e.st == .full) && (gapCauses e.gap).ringFullNew) ||
    x.cutter.tailGap.any (fun g => g.causes.ringFullNew) || x.writer.mode == .dropping
  ringFullOld :=
    x.capture.any (fun e => (e.st == .filling || e.st == .full) && (gapCauses e.gap).ringFullOld) ||
    x.cutter.tailGap.any (fun g => g.causes.ringFullOld)
  aborted := true

/-- What an abort leaves of a stream whose drain is FLOWING (R16, R46, R54, R73, R74). -/
def abortedAs (x : Stream) : Stream :=
  { x with
    phase := .closing,
    closeReason := if x.cutter.closeCut then x.closeReason else .abort,
    endIndex := x.writer.index,
    spare := ((x.capture.filter fun e => e.st == .filling || e.st == .full).map (·.block)).reverse ++ x.spare,
    capture := (x.capture.filter fun e => e.st == .draining || e.st == .drained).map fun e =>
      { e with st := .drained },
    hold := [], markers := [], lost := 0, pendingLane := none,
    writer := { x.writer with
      mode := .stopped, stop := none, beat := [], boundaryDone := false, write := none,
      filling := none, fillOffset := 0, fillBuf := .empty, awaiting := [], ageRunning := false },
    cutter := { x.cutter with
      tailGap := if x.cutter.closeCut = false ∧ x.cutter.cutIndex < x.writer.index then
          some ⟨x.cutter.cutIndex, x.writer.index, abortGathers x, x.writer.k⟩
        else none,
      discarded := min 65535
        (x.cutter.discarded + x.markers.length + (x.markers.map (·.lost)).sum + x.lost) } }

/-! ### The next sample (R30) -/

/-- The next sample of a stream stands at no boundary still to be evaluated, carries no lane mark, brings no stop,
and leaves the tail block with room (R30, R34, R37, R43, R56, R70). -/
structure PlainSample (x : Stream) : Prop where
  boundary : x.writer.boundaryDone = true ∨ x.writer.index % 131072 ≠ 0 ∨ x.writer.index ≤ x.startIndex
  mark : x.pendingLane ≠ some x.writer.index
  length : ∀ l, x.runLen = some l → x.writer.index + 1 ≠ x.startIndex + l
  limit : x.writer.index + 1 ≠ 2 ^ 48 - 131072
  stop : ∀ r, x.writer.stop = some r → r.index ≠ x.writer.index + 1
  room : ∀ e, x.capture.getLast? = some e → e.kept + 1 < 262144 / x.cfg.width.bytes

/-- The next sample is such a one and not the last of its beat. -/
structure QuietSample (x : Stream) : Prop extends PlainSample x where
  beat : x.cfg.width.bytes < x.writer.beat.length

/-- The writer context past the sample at its index (R30 step 5). -/
def Writer.pastSample (w : Writer) (width : Width) : Writer :=
  { w with index := w.index + 1, boundaryDone := false, beat := w.beat.drop width.bytes }

/-- The writer context with the sample at its index staged, in a write without a flip (R32). -/
def Writer.staged (w : Writer) (width : Width) : Writer :=
  { w with
    fillBuf := w.fillBuf.append (w.beat.take width.bytes),
    write := match w.write with | none => some ⟨w.fillBuf.count, none⟩ | some d => some d }

/-- The next kept sample of stream `i` is staged without a flip: it begins a write with STAGING disarmed, or joins a
write that has taken none (R173, log 7). -/
def State.stagesPlain (s : State) (i : StreamId) : Prop :=
  match (s.stream i).writer.write with
  | none => s.integ.staging.arming = none
  | some d => d.flip = none

/-- The writer context on the block it has just taken (R36). -/
def Writer.onBlock (w : Writer) (b : Nat) (flushAge : Nat) : Writer :=
  { w with mode := .filling, filling := some b, fillOffset := 0, ageRunning := decide (0 < flushAge) }

/-! ### Injected flips (R172, R173) -/

/-- The arming inverts bit position `q`. -/
def Arming.hits (g : Arming) (q : Nat) : Prop := q = g.a ∨ g.b = some q

/-- The positions of an arming lie below a limit. -/
def Arming.below (g : Arming) (limit : Nat) : Prop := g.a < limit ∧ ∀ q, g.b = some q → q < limit

/-- Bytes `bs` and parity bits `ps` differ from `bs'` and `ps'` in exactly the bits an arming names in the 64 bytes
from byte 64 × `line` on: data bits, or the parity bits of their eight words (R172, R173). -/
def flippedBy (g : Arming) (line : Nat) (bs bs' : List Byte) (ps ps' : List Bool) : Prop :=
  bs'.length = bs.length ∧ ps'.length = ps.length ∧
  (g.check = true → bs' = bs ∧ ∀ n, n < ps.length →
    (ps'.getD n false ≠ ps.getD n false ↔ ∃ q, g.hits q ∧ n = 8 * line + q)) ∧
  (g.check = false → ps' = ps ∧ ∀ n j, n < bs.length → j < 8 →
    ((bs'.getD n 0#8).getLsbD j ≠ (bs.getD n 0#8).getLsbD j ↔
      ∃ q, g.hits q ∧ n = 64 * line + q / 8 ∧ j = q % 8))

/-! ### Previews (R21 to R23) -/

/-- The kept samples of an entry in order: block, place in the block, index (R1, R8). -/
def Entry.samples (e : Entry) : List (Nat × Nat × Nat) :=
  (List.range e.kept).map fun j => (e.block, j, e.first + j * 2 ^ e.k)

/-- The kept samples, block and place, of a part of a span that is read where it is held. -/
def Seg.samples : Seg → List (Nat × Nat)
  | .held b j n => (List.range n).map fun i => (b, j + i)
  | .copied _ _ _ => []

/-- Entry `b` continues entry `a` in a span: no gap_before and the same k (R21, R22). -/
def Entry.continues (a b : Entry) : Prop := b.gap = none ∧ b.k = a.k

/-! ### Leaving the commit list (R145) -/

/-- The entries of stream `i` that leave a commit list at once: its earliest ones, as long as they are COMMITTED. -/
def leaving (i : StreamId) (list : List CommitEntry) : List CommitEntry :=
  (list.filter fun e => decide (e.stream = i)).takeWhile fun e => e.st == .committed

/-- The commit list without them. -/
def withoutLeaving (i : StreamId) : List CommitEntry → List CommitEntry
  | [] => []
  | e :: rest =>
    if e.stream = i then (if e.st = .committed then withoutLeaving i rest else e :: rest)
    else e :: withoutLeaving i rest

/-- The release scans of a leaving chain: the commit index becomes each entry's coverage end in turn, and the scan runs
(R14, R145 steps 2 and 4). -/
def State.scansOf (s : State) (i : StreamId) (gone : List CommitEntry) : State :=
  gone.foldl (fun u e => (u.setStream i { u.stream i with commitIndex := e.covEnd }).releaseScan i false) s

/-! ### The link going down (R126, R127) -/

/-- What a fault and a DISABLE leave: no request outstanding, the buffer empty, SENDING and AWAIT_COMMIT entries
READY at their addresses, a query out due again, and a granted drain access without its reader. -/
def State.linkLost (s : State) (st : LinkState) : State :=
  { s with
    port := { s.port with granted := match s.port.granted with
      | some (.drain a n q _) => some (.drain a n q false)
      | g => g },
    link := { s.link with
      state := st, outstanding := none, replay := none,
      commit := s.link.commit.map fun e =>
        if e.st = .sending ∨ e.st = .awaitCommit then
          { e with st := .ready, xfer := ⟨0, false, 0, [], false, 0xFFFFFFFF#32, []⟩, timer := none }
        else e,
      sync := if s.link.sync.phase = .queryOut then { s.link.sync with phase := .queryDue }
        else s.link.sync } }

/-! ### A placement failure (R116, R151, R153) -/

/-- What a placement failure leaves of the state, for the entry `e` at address `a` that `p` is the first to
name: the range is a dead span, the buffer is given up if the entry was SENDING, and at the third placement the
stream's drain is BLOCKED and ARCHIVE_FAULT is raised. -/
def State.afterFailure (s : State) (p : CommitEntry → Bool) (e : CommitEntry) (a : Nat) (cause : FailCause)
    (code : Option Byte) : State :=
  let t : State := { s with
    port := if e.st = .sending then
        { s.port with granted := match s.port.granted with
          | some (.drain b n q _) => some (.drain b n q false)
          | g => g }
      else s.port,
    place := { s.place with
      dead := min 281474976710655 (s.place.dead + e.size), lastDead := some ⟨a, e.size⟩ },
    link := { s.link with
      replay := if e.st = .sending then none else s.link.replay,
      commit := modifyFirst p (fun f => { f with
        st := if f.placements < 3 then .failed else .stuck, addr := none,
        xfer := ⟨0, false, 0, [], false, 0xFFFFFFFF#32, []⟩, timer := none,
        cause := some cause, code := code }) s.link.commit } }
  if e.placements < 3 then t
  else (t.modStream e.stream fun x => { x with drain := .blocked }).raise e.stream .archiveFault

/-! ### Transfers (R131) -/

/-- The lengths of the transfers in which a record is sent from its bytes accepted on, each of them accepted. -/
def transferLengths : Nat → CommitEntry → List Nat
  | 0, _ => []
  | fuel + 1, e =>
    if e.size ≤ e.xfer.accepted then []
    else e.transferLen ::
      transferLengths fuel { e with xfer := { e.xfer with accepted := e.xfer.accepted + e.transferLen } }

/-- The bytes of a 512-byte record without payload: header, body, an empty trailer and the CRC-32 (section 11.1,
R106, R133). -/
def CommitEntry.plainBytes (e : CommitEntry) : List Byte :=
  let front := e.headerBytes ++ e.bodyBytes ++ zeros 68
  front ++ leBytes 4 (crc32 front).toNat

/-! ### Pools (R4) -/

/-- Every block a stream's lists hold. -/
def Stream.blocks (x : Stream) : List Nat := x.spare ++ x.capture.map Entry.block ++ x.retired

/-- Each pool's blocks stand once each in its capture list, spare list and retired set; an unconfigured stream
has no pool; no block is in the pools of two streams (R4, R65). -/
structure PoolLaw (s : State) : Prop where
  whole : ∀ i, (s.stream i).blocks.Perm (poolBlocks (s.stream i).cfg.base (s.stream i).cfg.count)
  none : ∀ i, (s.stream i).phase = .unconfigured → (s.stream i).cfg.count = 0
  apart : ∀ i j, i ≠ j → ∀ b, b ∈ poolBlocks (s.stream i).cfg.base (s.stream i).cfg.count →
    b ∉ poolBlocks (s.stream j).cfg.base (s.stream j).cfg.count

/-! ### Decimation (R39) -/

/-- Every configuration has kmin ≤ kmax ≤ 7, and a stream of a run has its k within them (R39). -/
structure DecimationLaw (s : State) : Prop where
  range : ∀ i, (s.stream i).cfg.kmin ≤ (s.stream i).cfg.kmax ∧ (s.stream i).cfg.kmax ≤ 7
  held : ∀ i, (s.stream i).active = true →
    (s.stream i).cfg.kmin ≤ (s.stream i).writer.k ∧ (s.stream i).writer.k ≤ (s.stream i).cfg.kmax

/-! ### Placement (R117) -/

/-- No two listed windows overlap; an entry holds an address unless it is FAILED or STUCK; no two entries'
ranges overlap; no entry's range meets space still to be handed out (R108, R117). -/
structure PlacementLaw (s : State) : Prop where
  fits : ∀ w ∈ s.place.windows, w.next ≤ w.length
  windows : s.place.windows.Pairwise fun v w => rangesMeet v.start v.length w.start w.length = false
  addressed : ∀ e ∈ s.link.commit, e.addr = none ↔ (e.st = .failed ∨ e.st = .stuck)
  entries : s.link.commit.Pairwise fun e f => ∀ a, f.addr = some a → e.meets a f.size = false
  unused : ∀ e ∈ s.link.commit, ∀ w ∈ s.place.windows, e.meets (w.start + w.next) w.remainder = false

/-! ### The commit list and the end of a run (R87, R101, R129, R146) -/

/-- What a stream of a run keeps: RUNNING, its writer is not stopped and holds no stop request; a stopped
writer stands at the end index; once CLOSE is cut nothing more can be cut (R87, R101). -/
structure RunLaw (x : Stream) : Prop where
  running : x.phase = .running → x.writer.stop = none ∧ x.writer.mode ≠ .stopped
  ended : x.writer.mode = .stopped → x.endIndex = x.writer.index
  closed : x.cutter.closeCut = true → x.phase = .closing ∧ x.writer.mode = .stopped ∧
    x.cutter.openDue = false ∧ x.cutter.tailGap = none ∧ x.markers = [] ∧ x.accountDone = true

/-- The commit list holds at most 8 entries; a stream's entries stand in sequence order, each number once and
below the next to be given; a stream outside a run has none; CLOSE is its stream's last (R86, R129, R146). -/
structure CommitLaw (s : State) : Prop where
  bound : s.link.commit.length ≤ 8
  ordered : s.link.commit.Pairwise fun e f => e.stream = f.stream → e.seq < f.seq
  below : ∀ e ∈ s.link.commit, e.seq < (s.stream e.stream).cutter.nextSeq
  active : ∀ e ∈ s.link.commit, (s.stream e.stream).active = true
  close : ∀ e ∈ s.link.commit, e.body.isClose = true →
    e.seq + 1 = (s.stream e.stream).cutter.nextSeq ∧ (s.stream e.stream).cutter.closeCut = true
  runs : ∀ i, (s.stream i).active = true → RunLaw (s.stream i)

/-! ### The link (R122, R126, R127, R130) -/

/-- At most one entry is SENDING; a SENDING entry, an outstanding request and a held transfer exist only while
the link is UP; an outstanding WRITE is of the SENDING entry's transfer (R122, R127, R130). -/
structure LinkLaw (s : State) : Prop where
  one : (s.link.commit.filter CommitEntry.isSending).length ≤ 1
  up : s.link.sending ≠ none ∨ s.link.outstanding ≠ none ∨ s.link.replay ≠ none → s.link.state = .up
  write : s.link.writeOut = true → s.link.sending ≠ none ∧ s.link.replay ≠ none

/-! ### The control link (R178, R181, R188) -/

/-- The reservations a SYNC and a PREVIEW in flight hold (R185). -/
def State.owed (s : State) : Nat :=
  (if s.link.sync.phase = .idle then 0 else 1) + (if s.preview.isSome then 1 else 0)

/-- Reserved and filled slots never exceed 8, every reservation belongs to a request in flight, and the RESET
hold stands while exactly one RESET reply is queued; the inbound queues keep their bounds (R178, R181, R185,
R188). -/
structure SlotLaw (s : State) : Prop where
  slots : s.ctl.reserved + s.ctl.out.length ≤ 8
  owed : s.ctl.reserved = s.owed
  hold : (s.ctl.out.filter OutFrame.isReset).length = if s.ctl.resetHold then 1 else 0
  short : s.ctl.shortUsed ≤ 16
  long : s.ctl.longUsed ≤ 2

/-! ### Bounds of counts and lists (R27, R55, R108, R162, R164) -/

/-- Counts of one stream's notices within 16 bits. -/
def StreamCounts.bounded (n : StreamCounts) : Prop := ∀ c, n.get c ≤ 65535

/-- The saturating counts and the lists of one stream. -/
structure StreamBounds (x : Stream) : Prop where
  hold : x.hold.length ≤ 16
  overrun : x.overrun ≤ 65535
  markers : x.markers.length ≤ 32
  lost : x.lost ≤ 65535
  discarded : x.cutter.discarded ≤ 65535

/-- The error counts of one memory. -/
structure MonBounds (x : MemMon) : Prop where
  corrected : x.corrected ≤ 65535
  uncorrectable : x.uncorrectable ≤ 255

/-- No count stands above its maximum and no list above its capacity (R27, R55, R108, R162, R164, R179,
R193). -/
structure BoundsLaw (s : State) : Prop where
  streams : ∀ i, StreamBounds (s.stream i)
  windows : s.place.windows.length ≤ 16
  abandoned : s.place.abandoned ≤ 281474976710655
  dead : s.place.dead ≤ 281474976710655
  rates : s.place.rateCounter ≤ 1099511627775 ∧ s.place.latchedRate ≤ 1099511627775
  link : s.link.faultCount ≤ 65535 ∧ s.link.stale ≤ 65535
  spans : ∀ e ∈ s.link.commit, e.xfer.spans.length ≤ 8
  memories : ∀ m, MonBounds (s.integ.get m)
  control : s.ctl.crcErrors ≤ 65535 ∧ s.ctl.framingErrors ≤ 65535 ∧ s.ctl.shortDrops ≤ 65535 ∧
    s.ctl.longDrops ≤ 65535
  notices : (∀ i, (s.notices.streams.get i).bounded) ∧ ∀ c, s.notices.device.get c ≤ 65535

/-! ### Power (R78, R79, R196) -/

/-- The power-fail condition stands while PFAIL# is asserted, and POWER's enable always reads as enabled
(R78, R79, R196). -/
structure PowerLaw (s : State) : Prop where
  condition : s.powerFail = s.pfail
  mask : s.notices.mask.getLsbD 10 = true

end Sys2Proof.Machine
end

