-- ==== Sys2Proof/Certificates/Slice0/Obligations.lean ====
section
/-! DEFINITION. The statements for the provers. Where a result is written `.settle`, the port grant, the
choice of a SENDING entry and the start of a transfer that it allows follow at once (log 24). -/

open Sys2Proof Sys2Proof.Machine

/-! ### The machine -/

/-- The command at the front of the queue is the one a step runs, on the state with the rest of the queue. The queue
`pending` is the model's choice (logs 16 and 19): the manual lists indivisible steps and gives no queue of
them. -/
def Obligations.StepRunsTheFrontCommand : Prop :=
  ∀ (c : Instr) (rest : List Instr) (s : State), s.pending = c :: rest →
    step s = exec c { s with pending := rest }

/-- No command touches the queue of waiting commands, not even POWER_ON, RST and RESET. The queue and its keeping
are the model's choice (logs 19 and 29). -/
def Obligations.CommandsKeepTheQueue : Prop :=
  ∀ (c : Instr) (s t : State), exec c s = .next t → t.pending = s.pending

/-! ### Requests: taking them (chapter 9) -/

/-- Sections 11.2, 11.3, R176, R177: what the host sends as a frame of at most 256 body bytes is received as that frame,
and the frame of every request, with every field at every value, is decoded to that request. -/
def Obligations.RequestFramesRoundTrip : Prop :=
  (∀ (tag : Byte) (r : Request), decodeFrame (requestFrame tag r) = .request r) ∧
  (∀ f : InFrame, f.body.length ≤ 256 → receive (frameBytes f) = .frame f)

/-- R176 to R179, R182: a truncated or overlong frame and a body length above 256 raise the framing error count, a wrong
CRC field the CRC error count; a good frame that cannot be taken is filed in its queue, or dropped and counted
at a full one. Each count stops at 65,535 and nothing else changes. -/
def Obligations.BadAndWaitingFrames : Prop :=
  (∀ (bytes : List Byte) (s : State),
     (bytes.length < 4 → exec (.writePeriodEnd bytes) s = .next (s.modCtl fun c =>
       { c with framingErrors := min 65535 (c.framingErrors + 1) })) ∧
     (∀ kind tag l0 l1 rest, bytes = kind :: tag :: l0 :: l1 :: rest →
       (256 < l0.toNat + 256 * l1.toNat ∨ rest.length ≠ l0.toNat + 256 * l1.toNat + 2 →
         exec (.writePeriodEnd bytes) s = .next (s.modCtl fun c =>
           { c with framingErrors := min 65535 (c.framingErrors + 1) })) ∧
       (∀ body c0 c1, l0.toNat + 256 * l1.toNat ≤ 256 → body.length = l0.toNat + 256 * l1.toNat →
         rest = body ++ [c0, c1] →
         c0.toNat + 256 * c1.toNat ≠ (crc16 (kind :: tag :: l0 :: l1 :: body)).toNat →
         exec (.writePeriodEnd bytes) s = .next (s.modCtl fun c =>
           { c with crcErrors := min 65535 (c.crcErrors + 1) })))) ∧
  (∀ (f : InFrame) (s : State), f.body.length ≤ 256 →
     8 ≤ s.ctl.reserved + s.ctl.out.length ∨ s.ctl.resetHold = true →
     exec (.writePeriodEnd (frameBytes f)) s = .next (s.modCtl fun c =>
       if f.body.length ≤ 32 then
         if (c.inbound.filter fun g => decide (g.body.length ≤ 32)).length < 16 then
           { c with inbound := c.inbound ++ [f] }
         else { c with shortDrops := min 65535 (c.shortDrops + 1) }
       else
         if (c.inbound.filter fun g => !decide (g.body.length ≤ 32)).length < 2 then
           { c with inbound := c.inbound ++ [f] }
         else { c with longDrops := min 65535 (c.longDrops + 1) }))

/-- R183, R186, R206: IDENT replies OK with the part code, the revision, the reset cause and the fixed capacities; a kind
the part does not implement is answered UNKNOWN (7), and an implemented kind whose body has not the
kind's length LENGTH (8), with the common fields alone. -/
def Obligations.IdentAndUnknownKinds : Prop :=
  (∀ (tag kind : Byte) (body : List Byte) (s : State), s.takesAtOnce → body.length ≤ 256 →
     (kind = 0#8 ∨ 20 < kind.toNat →
       exec (.unknownRequest tag kind body) s = .next (s.answered kind tag 7#8 [])) ∧
     (∀ n, kindLength kind = some n → body.length ≠ n →
       exec (.writePeriodEnd (frameBytes ⟨kind, tag, body⟩)) s = .next (s.answered kind tag 8#8 []))) ∧
  (∀ (tag : Byte) (s : State), s.takesAtOnce →
     exec (.ident tag) s = .next (s.answered 0x01#8 tag 0#8
       [0x48#8, 0x07#8, 0x01#8,
        (match s.ctl.resetCause with | .powerOn => 0#8 | .rst => 1#8 | .resetRequest => 2#8),
        4#8, 16#8, 8#8, 8#8, 16#8, 2#8, 0#8, 0#8, 0#8, 0#8, 1#8, 0#8, 0#8, 0#8, 4#8, 0#8]))

/-- R175, R180: a bad opener raises the framing error count; a read period sends the head of the outbound queue or
the empty frame; ended before the frame's last byte it leaves the frame at the head, ended after it removes
it, and the executor goes on; the empty frame's period removes nothing. In a read period CL_SDO carries 0x00 during the
opener, then the frame, then 0x00 for as long as the host clocks; where no read period is in progress, 0x00 on every byte. That a READ_PERIOD_START replaces a period in progress and a READ_PERIOD_END
without one does nothing is the model's choice (log 28, unsafe). -/
def Obligations.PeriodsOpenAndEnd : Prop :=
  (∀ (o : Byte) (s : State),
     (o ≠ 0xA7#8 → o ≠ 0xB4#8 → exec (.badOpener o) s = .next (s.modCtl fun c =>
       { c with framingErrors := min 65535 (c.framingErrors + 1) })) ∧
     (∀ f rest, s.ctl.out = f :: rest →
       exec .readPeriodStart s = .next (s.modCtl fun c => { c with reading := some ⟨f.bytes, true⟩ })) ∧
     (s.ctl.out = [] →
       exec .readPeriodStart s = .next (s.modCtl fun c => { c with
         reading := some ⟨outFrame 0#8 0#8
           [BitVec.ofNat 8 (16 - s.ctl.shortUsed), BitVec.ofNat 8 (2 - s.ctl.longUsed)], false⟩ }))) ∧
  (∀ (n : Nat) (f : OutFrame) (rest : List OutFrame) (s : State), s.ctl.out = f :: rest →
     (s.ctl.reading = some ⟨f.bytes, true⟩ → n < f.bytes.length →
       exec (.readPeriodEnd n) s = .next (s.modCtl fun c => { c with reading := none })) ∧
     (s.ctl.reading = some ⟨f.bytes, true⟩ → f.bytes.length ≤ n → f.isReset = false →
       exec (.readPeriodEnd n) s =
         .next (s.modCtl fun c => { c with reading := none, out := rest }).executor) ∧
     (s.ctl.inbound = [] → s.ctl.reading = some ⟨f.bytes, true⟩ → f.bytes.length ≤ n → f.isReset = false →
       exec (.readPeriodEnd n) s = .next (s.modCtl fun c => { c with reading := none, out := rest }))) ∧
  (∀ (n : Nat) (s : State),
     (∀ r, s.ctl.reading = some r → r.fromQueue = false →
       exec (.readPeriodEnd n) s = .next (s.modCtl fun c => { c with reading := none })) ∧
     (s.ctl.reading = none → exec (.readPeriodEnd n) s = .next s)) ∧
  (∀ s : State,
     (∀ f rest, s.ctl.out = f :: rest → ∃ t : State, exec .readPeriodStart s = .next t ∧
       t.sdo 0 = 0#8 ∧ (∀ n, n < f.bytes.length → f.bytes[n]? = some (t.sdo (n + 1))) ∧
       ∀ n, f.bytes.length < n → t.sdo n = 0#8) ∧
     (s.ctl.out = [] → ∃ t : State, exec .readPeriodStart s = .next t ∧
       (List.range 9).map (fun n => t.sdo (n + 1)) = outFrame 0#8 0#8
         [BitVec.ofNat 8 (16 - s.ctl.shortUsed), BitVec.ofNat 8 (2 - s.ctl.longUsed)] ∧
       t.sdo 0 = 0#8 ∧ ∀ n, 9 < n → t.sdo n = 0#8) ∧
     (s.ctl.reading = none → ∀ n, s.sdo n = 0#8))

/-! ### Requests: runs (chapter 4) -/

/-- R65, R66, R67: a STREAM_SETUP is refused with the first status that applies and changes nothing else; accepted, it
replaces the whole configuration and rebuilds the pool, its lowest-numbered block on top of the spare list; with
count 0 it unconfigures the stream. -/
def Obligations.StreamSetup : Prop :=
  (∀ (tag : Byte) (f : SetupFields) (s : State) (i : StreamId), s.takesAtOnce →
     f.stream.toNat = i.num → (s.stream i).phase = .unconfigured ∨ (s.stream i).phase = .idle →
     (∀ w p, setupInRange f → ¬ s.poolTaken i f.base.toNat f.count.toNat →
       f.width.toNat = w.code → f.policy.toNat = p.code →
       exec (.streamSetup tag f) s = .next ((s.setStream i { s.stream i with
         cfg := {
           base := f.base.toNat, count := f.count.toNat, width := w,
           intervalInt := f.intervalInt.toNat, intervalFrac := f.intervalFrac.toNat,
           kmin := f.kmin.toNat, kmax := f.kmax.toNat, policy := p,
           high := f.high.toNat, low := f.low.toNat, extent := f.extent.toNat,
           flushAge := f.flushAge.toNat, cutOnMark := decide (f.cutOnMark = 1#8),
           fillValue := f.fillValue.toNat },
         phase := .idle, spare := List.range' f.base.toNat f.count.toNat, retired := [],
         capture := [] }).answered 0x02#8 tag 0#8 [])) ∧
     (f.count = 0#32 →
       exec (.streamSetup tag f) s = .next ((s.setStream i { s.stream i with
         cfg := StreamCfg.reset, phase := .unconfigured, spare := [], retired := [],
         capture := [] }).answered 0x02#8 tag 0#8 []))) ∧
  (∀ (tag : Byte) (f : SetupFields) (s : State), s.takesAtOnce →
     (3 < f.stream.toNat → exec (.streamSetup tag f) s = .next (s.answered 0x02#8 tag 3#8 [])) ∧
     (∀ i : StreamId, f.stream.toNat = i.num →
       ((s.stream i).phase ≠ .unconfigured → (s.stream i).phase ≠ .idle →
         exec (.streamSetup tag f) s = .next (s.answered 0x02#8 tag 2#8 [])) ∧
       ((s.stream i).phase = .unconfigured ∨ (s.stream i).phase = .idle → f.count ≠ 0#32 →
         (¬ setupInRange f →
           exec (.streamSetup tag f) s = .next (s.answered 0x02#8 tag 3#8 [])) ∧
         (setupInRange f → s.poolTaken i f.base.toNat f.count.toNat →
           exec (.streamSetup tag f) s = .next (s.answered 0x02#8 tag 4#8 [])))))

/-- R68, R69: RUN_START is refused with the first status that applies; accepted, it sets up the run and the
stream is RUNNING at once with mode IMMEDIATE and ARMED with any other. -/
def Obligations.RunStartStartsOrRefuses : Prop :=
  ∀ (tag : Byte) (f : StartFields) (s : State), s.takesAtOnce →
    (3 < f.stream.toNat → exec (.runStart tag f) s = .next (s.answered 0x04#8 tag 3#8 [])) ∧
    (∀ i : StreamId, f.stream.toNat = i.num →
      ((s.stream i).phase ≠ .idle →
        exec (.runStart tag f) s = .next (s.answered 0x04#8 tag 2#8 [])) ∧
      ((s.stream i).phase = .idle → s.powerFail = true →
        exec (.runStart tag f) s = .next (s.answered 0x04#8 tag 6#8 [])) ∧
      ((s.stream i).phase = .idle → s.powerFail = false →
        (3 < f.mode.toNat ∨ f.startIndex.toNat % 131072 ≠ 0 ∨ 2 ^ 48 - 131072 ≤ f.startIndex.toNat ∨
            (f.lengthPresent ≠ 0#8 ∧ f.runLength = 0#48) →
          exec (.runStart tag f) s = .next (s.answered 0x04#8 tag 3#8 [])) ∧
        (∀ m : StartMode, f.mode.toNat = m.code → f.startIndex.toNat % 131072 = 0 →
          f.startIndex.toNat < 2 ^ 48 - 131072 → f.lengthPresent = 0#8 ∨ f.runLength ≠ 0#48 →
          (m = .immediate → exec (.runStart tag f) s = .next
            ((s.setStream i (runEntered (runGiven (s.stream i) m f))).answered 0x04#8 tag 0#8
              [3#8, 0#8, 0#8, 0#8])) ∧
          (m ≠ .immediate → exec (.runStart tag f) s = .next
            ((s.setStream i (runGiven (s.stream i) m f)).answered 0x04#8 tag 0#8
              [2#8, 0#8, 0#8, 0#8])))))

/-- R33, R43, R45, R71: RUN_STOP abandons an ARMED wait; in RUNNING it records the next multiple of 2^k at or above the
writer index as the stop index with reason HOST_STOP, and a writer that is there already stops: at once from
NO_BLOCK, with its drop gap as tail gap from DROPPING, through the seal of its block from FILLING; in any other
state it is refused with STATE. -/
def Obligations.RunStopStops : Prop :=
  ∀ (tag b : Byte) (s : State), s.takesAtOnce →
    (3 < b.toNat → exec (.runStop tag b) s = .next (s.answered 0x05#8 tag 3#8 [])) ∧
    (∀ i : StreamId, b.toNat = i.num →
      ((s.stream i).phase = .armed → exec (.runStop tag b) s = .next
        ((s.setStream i { s.stream i with phase := .idle }).answered 0x05#8 tag 0#8
          ([1#8, 0#8, 0#8, 0#8] ++ zeros 8))) ∧
      ((s.stream i).phase = .unconfigured ∨ (s.stream i).phase = .idle ∨ (s.stream i).phase = .closing →
        exec (.runStop tag b) s = .next (s.answered 0x05#8 tag 2#8 [])) ∧
      (∀ n, (s.stream i).phase = .running → (s.stream i).writer.stop = none →
        2 ^ (s.stream i).writer.k ∣ n → (s.stream i).writer.index ≤ n →
        n < (s.stream i).writer.index + 2 ^ (s.stream i).writer.k →
        exec (.runStop tag b) s = .next
          ((s.setStream i (stopTaken (s.stream i) n .hostStop)).settle.answered
            0x05#8 tag 0#8 ([4#8, 0#8, 0#8, 0#8] ++ leBytes 6 n ++ zeros 2))))

/-- R73, R74: RUN_ABORT abandons an ARMED wait; a RUNNING or CLOSING stream is aborted at its writer index,
and the reply carries the stop index and the length of the ABORTED gap. With the drain FLOWING (a BLOCKED one: the
next statement) it leaves everything else but the segments of a PREVIEW of the stream still to be read, a granted
flush of the stream, which keeps its bytes, and what follows at once: a grant of a free port, and the build
of a READY entry with none SENDING (log 24). It counts no memory error (R156). That no gap is left once
CLOSE is cut is the model's reading (log 8), and that a PREVIEW keeps the staged samples of its span too (log 10). -/
def Obligations.RunAbortAborts : Prop :=
  ∀ (tag b : Byte) (s : State), s.takesAtOnce →
    (3 < b.toNat → exec (.runAbort tag b) s = .next (s.answered 0x06#8 tag 3#8 [])) ∧
    (∀ i : StreamId, b.toNat = i.num →
      ((s.stream i).phase = .unconfigured ∨ (s.stream i).phase = .idle →
        exec (.runAbort tag b) s = .next (s.answered 0x06#8 tag 2#8 [])) ∧
      ((s.stream i).phase = .armed → exec (.runAbort tag b) s = .next
        ((s.setStream i { s.stream i with phase := .idle }).answered 0x06#8 tag 0#8
          ([1#8, 0#8, 0#8, 0#8] ++ zeros 16))) ∧
      ((s.stream i).phase = .running ∨ (s.stream i).phase = .closing → (s.stream i).drain = .flowing →
        ∃ t : State, exec (.runAbort tag b) s = .next t ∧
          t.stream i = abortedAs (s.stream i) ∧ (∀ j, j ≠ i → t.stream j = s.stream j) ∧
          t.mem = s.mem ∧ t.place = s.place ∧ t.routes = s.routes ∧
          t.pfail = s.pfail ∧ t.powerFail = s.powerFail ∧
          t.link = { s.link with commit := s.link.selectSending.commit, replay := t.link.replay } ∧
          t.notices.streams = s.notices.streams ∧ t.notices.mask = s.notices.mask ∧
          t.integ = { s.integ with replay := { s.integ.replay with arming := t.integ.replay.arming } } ∧
          (s.link.state ≠ .up ∨ s.link.selectSending.sending = none ∨ s.link.replay ≠ none →
            t.link.replay = s.link.replay ∧ t.integ = s.integ ∧ t.notices = s.notices) ∧
          (s.preview = none ∨ (∃ p, s.preview = some p ∧ p.stream ≠ i) ∨ (s.stream i).writer.filling = none →
            t.preview = s.preview) ∧
          (∀ p, s.preview = some p → ∃ segs, t.preview = some { p with segs := segs }) ∧
          (∀ a, s.port.granted = some a → t.port = { s.port with granted := match a with
            | .flush j addr none =>
              if j = i then some (.flush j addr (s.stream i).writer.awaiting.head?) else some a
            | b => some b }) ∧
          t.ctl = (s.answered 0x06#8 tag 0#8
            ([4#8, 0#8, 0#8, 0#8] ++ leBytes 6 (s.stream i).writer.index ++ zeros 2 ++
             leBytes 6 (if (s.stream i).cutter.closeCut then 0
               else (s.stream i).writer.index - (s.stream i).cutter.cutIndex) ++ zeros 2)).ctl))

/-- R76, R102, R154, R155: DRAIN_RESUME makes the STUCK entries of a BLOCKED stream FAILED with placements made 0;
RUN_ABORT of a BLOCKED stream replaces them, a DATA record by a GAP over the same span, whose samples pass from the
kept and covered totals to the gap total; no other entry changes but a READY one that becomes SENDING. Each frees the
drain. That the abort leaves no gap once CLOSE is cut is the model's reading (log 8). -/
def Obligations.StuckEntriesAreFreed : Prop :=
  ∀ (tag b : Byte) (s : State), s.takesAtOnce →
    (3 < b.toNat → exec (.drainResume tag b) s = .next (s.answered 0x07#8 tag 3#8 [])) ∧
    (∀ i : StreamId, b.toNat = i.num →
      ((s.stream i).drain = .flowing →
        exec (.drainResume tag b) s = .next (s.answered 0x07#8 tag 2#8 [])) ∧
      ((s.stream i).drain = .blocked → exec (.drainResume tag b) s = .next
        ({ s.setStream i { s.stream i with drain := .flowing } with
          link := { s.link with commit := s.link.commit.map fun (e : CommitEntry) =>
            if e.stream = i ∧ e.st = CommitState.stuck then { e with st := .failed, placements := 0 } else e } }.answered
          0x07#8 tag 0#8
          [BitVec.ofNat 8 (s.link.commit.filter fun (e : CommitEntry) => decide (e.stream = i ∧ e.st = CommitState.stuck)).length,
           0#8, 0#8, 0#8])) ∧
      ((s.stream i).drain = .blocked → (s.stream i).phase = .running ∨ (s.stream i).phase = .closing →
        let stuck := s.link.commit.filter fun (e : CommitEntry) => decide (e.stream = i ∧ e.st = CommitState.stuck)
        let count (e : CommitEntry) : Nat := match e.body with | .dataRec _ _ kept _ _ => kept | _ => 0
        let cover (e : CommitEntry) : Nat := match e.body with | .dataRec _ k kept _ _ => kept * 2 ^ k | _ => 0
        let y := abortedAs (s.stream i)
        ∃ t : State, exec (.runAbort tag b) s = .next t ∧
          t.stream i = { y with
            drain := .flowing,
            cutter := { y.cutter with
              kept := y.cutter.kept - (stuck.map count).sum, covered := y.cutter.covered - (stuck.map cover).sum,
              gapTotal := y.cutter.gapTotal + (stuck.map cover).sum } } ∧
          (∀ j, j ≠ i → t.stream j = s.stream j) ∧ t.link.commit.length = s.link.commit.length ∧
          (∀ (n : Nat) (e : CommitEntry), s.link.commit[n]? = some e → e.stream ≠ i ∨ e.st ≠ .stuck →
            t.link.commit[n]? = some e ∨ (e.st = .ready ∧ t.link.commit[n]? = some { e with st := .sending })) ∧
          ∀ (n : Nat) (e : CommitEntry), s.link.commit[n]? = some e → e.stream = i → e.st = .stuck →
            ∃ f : CommitEntry, t.link.commit[n]? = some f ∧ f.stream = i ∧ f.seq = e.seq ∧ f.st = .failed ∧
              f.placements = 0 ∧ f.covEnd = e.covEnd ∧
              (∀ first k kept w runs, e.body = .dataRec first k kept w runs →
                f.body = .gapRec first (kept * 2 ^ k) ⟨false, false, true⟩ k ∧ f.size = 512) ∧
              (∀ first len c k, e.body = .gapRec first len c k →
                f.body = .gapRec first len { c with aborted := true } k) ∧
              (e.body.isData = false → (∀ first len c k, e.body ≠ .gapRec first len c k) → f.body = e.body)))

/-- R53, R57, R59: AUX_ROUTE replaces the route of its line and replies with the route applied; MARK_NOW on a RUNNING
stream enters a HOST marker at the writer index, or, at a full queue, counts it lost, raises MARKER_LOST
and replies FULL; each is refused as its rule says. -/
def Obligations.RoutesAndHostMarks : Prop :=
  (∀ (tag line edge mask : Byte) (s : State), s.takesAtOnce →
     (1 < line.toNat ∨ 3 < edge.toNat →
       exec (.auxRoute tag line edge mask) s = .next (s.answered 0x03#8 tag 3#8 [])) ∧
     (∀ e : EdgeSel, edge.toNat = e.code →
       (line = 0#8 → exec (.auxRoute tag line edge mask) s = .next
         ({ s with routes := { s.routes with aux0 := ⟨e, mask.setWidth 4⟩ } }.answered 0x03#8 tag 0#8
           [0#8, edge, mask &&& 0x0F#8, 0#8])) ∧
       (line = 1#8 → exec (.auxRoute tag line edge mask) s = .next
         ({ s with routes := { s.routes with aux1 := ⟨e, mask.setWidth 4⟩ } }.answered 0x03#8 tag 0#8
           [1#8, edge, mask &&& 0x0F#8, 0#8])))) ∧
  (∀ (tag b : Byte) (s : State), s.takesAtOnce →
     (3 < b.toNat → exec (.markNow tag b) s = .next (s.answered 0x08#8 tag 3#8 [])) ∧
     (∀ i : StreamId, b.toNat = i.num →
       ((s.stream i).phase ≠ .running →
         exec (.markNow tag b) s = .next (s.answered 0x08#8 tag 2#8 [])) ∧
       ((s.stream i).phase = .running → (s.stream i).markers.length < 32 →
         exec (.markNow tag b) s = .next
           ((s.setStream i { s.stream i with
               markers := (s.stream i).markers ++ [⟨(s.stream i).writer.index, .host, (s.stream i).lost⟩],
               lost := 0 }).answered 0x08#8 tag 0#8
             (zeros 4 ++ leBytes 6 (s.stream i).writer.index ++ zeros 2))) ∧
       ((s.stream i).phase = .running → 32 ≤ (s.stream i).markers.length →
         ∃ n : Notices, s.notices.RaisedFor n .markerLost (· = i) ∧
           exec (.markNow tag b) s = .next
             ({ s.setStream i { s.stream i with lost := min 65535 ((s.stream i).lost + 1) } with
               notices := n }.answered 0x08#8 tag 5#8
               (zeros 4 ++ leBytes 6 (s.stream i).writer.index ++ zeros 2)))))

/-! ### Requests: windows, the link, SYNC, PREVIEW, STATUS, notices, integrity, timing, RESET -/

/-- R109, R110, R119: WINDOW_GRANT is refused with the first status that applies, changing nothing; accepted,
the window joins the tail, STARVED is cleared and the low state is evaluated. The reply shows the remaining bytes;
when they are 2^48 (R120) its field is a free value (log 33). -/
def Obligations.WindowGrantRules : Prop :=
  ∀ (tag : Byte) (start length : BitVec 48) (s : State), s.takesAtOnce →
    let inRange := start.toNat % 512 = 0 ∧ length.toNat % 512 = 0 ∧ 33554432 ≤ length.toNat ∧
      start.toNat + length.toNat ≤ 2 ^ 48
    let taken := (∃ w ∈ s.place.windows, ∃ a, start.toNat ≤ a ∧ a < start.toNat + length.toNat ∧
        w.start ≤ a ∧ a < w.start + w.length) ∨
      (∃ e ∈ s.link.commit, ∃ b, e.addr = some b ∧ ∃ a, start.toNat ≤ a ∧
        a < start.toNat + length.toNat ∧ b ≤ a ∧ a < b + e.size)
    (¬ inRange → exec (.windowGrant tag start length) s = .next (s.answered 0x09#8 tag 3#8 [])) ∧
    (inRange → taken → exec (.windowGrant tag start length) s = .next (s.answered 0x09#8 tag 4#8 [])) ∧
    (inRange → ¬ taken → 16 ≤ s.place.windows.length →
      exec (.windowGrant tag start length) s = .next (s.answered 0x09#8 tag 5#8 [])) ∧
    (inRange → ¬ taken → s.place.windows.length < 16 →
      let left := s.place.remaining + length.toNat
      let low := decide (left < min (2 ^ 48 - 1) (s.place.latchedRate * s.ctl.timing.lead))
      let t : State := { s with place := { s.place with
        windows := s.place.windows ++ [⟨start.toNat, length.toNat, 0⟩], starved := false, low := low } }
      let shown := if left < 2 ^ 48 then left else (Config.remainingField left).toNat
      exec (.windowGrant tag start length) s = .next
        ((if low = true ∧ s.place.low = false then t.raiseDev .windowLow else t).answered 0x09#8 tag 0#8
          ([BitVec.ofNat 8 (s.place.windows.length + 1), 0#8, 0#8, 0#8] ++ leBytes 6 shown ++ zeros 2)))

/-- R124, R127: ENABLE takes a DISABLED link into training; DISABLE takes any other link down, returns the
entries in flight and raises ARCHIVE_FAULT for each stream of a run; the reply carries the link state; an
action that is neither is refused. -/
def Obligations.LinkControlSwitches : Prop :=
  ∀ (tag : Byte) (s : State), s.takesAtOnce →
    (∀ a : Byte, a ≠ 1#8 → a ≠ 2#8 →
      exec (.writePeriodEnd (frameBytes ⟨0x0A#8, tag, [a]⟩)) s = .next (s.answered 0x0A#8 tag 3#8 [])) ∧
    (s.link.state = .disabled →
      exec (.linkControlEnable tag) s = .next
        ({ s with link := { s.link with state := .training, train := .attempt } }.answered 0x0A#8 tag 0#8
          [1#8, 0#8, 0#8, 0#8]) ∧
      exec (.linkControlDisable tag) s = .next (s.answered 0x0A#8 tag 0#8 [0#8, 0#8, 0#8, 0#8])) ∧
    (s.link.state ≠ .disabled →
      exec (.linkControlEnable tag) s = .next (s.answered 0x0A#8 tag 0#8
        [BitVec.ofNat 8 s.link.state.code, 0#8, 0#8, 0#8]) ∧
      ∃ n : Notices, s.notices.RaisedFor n .archiveFault
          (fun i => (s.stream i).phase = .running ∨ (s.stream i).phase = .closing) ∧
        exec (.linkControlDisable tag) s = .next
          ({ s.linkLost .disabled with notices := n }.answered 0x0A#8 tag 0#8 [0#8, 0#8, 0#8, 0#8]))

/-- R147 to R150: SYNC is refused for an empty or too wide mask and while another is in flight; accepted, it notes the
newest entry of each stream of the mask; DURABLE ends it with OK, NOT_YET has it poll again; the sync timer
ends it in any phase with TIMEOUT and the streams still waited for; a response after that only frees the slot. -/
def Obligations.SyncRuns : Prop :=
  (∀ (tag mask : Byte) (s : State), s.takesAtOnce →
     (mask = 0#8 ∨ 15 < mask.toNat →
       exec (.sync tag mask) s = .next (s.answered 0x0B#8 tag 3#8 [])) ∧
     (mask ≠ 0#8 → mask.toNat ≤ 15 → s.link.sync.phase ≠ .idle →
       exec (.sync tag mask) s = .next (s.answered 0x0B#8 tag 1#8 [])) ∧
     (mask ≠ 0#8 → mask.toNat ≤ 15 → s.link.sync.phase = .idle →
       ∃ noted : List (StreamId × Nat),
         (∀ (i : StreamId) (q : Nat), (i, q) ∈ noted ↔ mask.getLsbD i.num = true ∧ ∃ (older : List CommitEntry) (e : CommitEntry) (newer : List CommitEntry),
           s.link.commit = older ++ e :: newer ∧ e.stream = i ∧ e.seq = q ∧
           ∀ f ∈ newer, f.stream ≠ i) ∧
         exec (.sync tag mask) s = .next { s with
           ctl := { s.ctl with reserved := s.ctl.reserved + 1 },
           link := { s.link with
             sync := ⟨if noted = [] then .queryDue else .waitLeave, tag, noted, s.ctl.timing.sync⟩ } })) ∧
  (∀ s : State,
     let sync := s.link.sync
     let free : State := { s with link := { s.link with outstanding := none } }
     let enter (t : State) (p : SyncPhase) : State := { t with link := { t.link with sync := { sync with phase := p } } }
     let ended (t : State) (status waiting : Byte) : State :=
       { t with link := { t.link with sync := ⟨.idle, 0#8, [], 0⟩ } }.replied 0x0B#8 sync.tag status
         [waiting, 0#8, 0#8, 0#8]
     (s.link.state ≠ .up ∨ s.link.outstanding ≠ some .durableQuery →
       exec .durable s = .next s ∧ exec .notYet s = .next s) ∧
     (s.link.state = .up → s.link.outstanding = some .durableQuery →
       (sync.phase = .queryOut → exec .durable s = .next (ended free 0#8 0#8) ∧
         exec .notYet s = .next (enter free .pollWait)) ∧
       (sync.phase ≠ .queryOut → exec .durable s = .next free ∧ exec .notYet s = .next free)) ∧
     (sync.phase = .pollWait → exec .pollWaitEnd s = .next (enter s .queryDue)) ∧
     (sync.phase ≠ .pollWait → exec .pollWaitEnd s = .next s) ∧
     (sync.phase = .idle → exec .syncTimeout s = .next s) ∧
     (sync.phase ≠ .idle → ∃ waiting : Byte,
       (∀ i : StreamId, waiting.getLsbD i.num = true ↔ ∃ q, (i, q) ∈ sync.noted) ∧ waiting.toNat < 16 ∧
       exec .syncTimeout s = .next (ended s 10#8 waiting)))

/-- R20 to R24, R168, R206, R208: PREVIEW is refused with the first status that applies, changing nothing, GONE with
the oldest index held; of the newest samples of a stream with no entry it replies at once without a sample.
NEWEST takes the last samples of the entries that end the list without a gap or a change of k between them, FROM_INDEX the
samples from the group of the index, or from the entry's first sample for one in its gap, to the next gap or change of k;
each entry met is pinned, and samples not yet flushed are read at once from staging, those of a word with a parity
error as the fill value, counted. A FROM_INDEX in the open drop gap replies at once without a sample, its k
written as 0 (the model's choice, log 31). -/
def Obligations.Previews : Prop :=
  (∀ (tag b sel : Byte) (maxBytes : BitVec 16) (index : BitVec 48) (s : State), s.takesAtOnce →
     (3 < b.toNat → exec (.preview tag b sel maxBytes index) s = .next (s.answered 0x0C#8 tag 3#8 [])) ∧
     (∀ i : StreamId, b.toNat = i.num →
       let x := s.stream i
       let n := min maxBytes.toNat 4064 / x.cfg.width.bytes
       let oldest := match x.capture with | [] => x.writer.index | e :: _ => e.first
       (1 < sel.toNat ∨ n = 0 →
         exec (.preview tag b sel maxBytes index) s = .next (s.answered 0x0C#8 tag 3#8 [])) ∧
       (sel.toNat ≤ 1 → n ≠ 0 →
         (x.phase ≠ .running → x.phase ≠ .closing →
           exec (.preview tag b sel maxBytes index) s = .next (s.answered 0x0C#8 tag 2#8 [])) ∧
         (x.phase = .running ∨ x.phase = .closing →
           (s.preview ≠ none →
             exec (.preview tag b sel maxBytes index) s = .next (s.answered 0x0C#8 tag 1#8 [])) ∧
           (s.preview = none → sel = 1#8 → x.writer.index ≤ index.toNat →
             exec (.preview tag b sel maxBytes index) s = .next (s.answered 0x0C#8 tag 3#8 [])) ∧
           (s.preview = none → sel = 1#8 → index.toNat < x.writer.index → index.toNat < oldest →
             exec (.preview tag b sel maxBytes index) s = .next (s.answered 0x0C#8 tag 9#8
               ([BitVec.ofNat 8 i.num, 0#8, BitVec.ofNat 8 x.cfg.width.code, 0#8] ++
                leBytes 6 oldest ++ zeros 18))))))) ∧
  (∀ (tag b : Byte) (maxBytes : BitVec 16) (index : BitVec 48) (s : State) (i : StreamId), s.takesAtOnce →
     b.toNat = i.num → (s.stream i).phase = .running ∨ (s.stream i).phase = .closing → s.preview = none →
     ∀ n, min maxBytes.toNat 4064 / (s.stream i).cfg.width.bytes = n → n ≠ 0 →
     ((s.stream i).capture = [] →
       ∃ t : State, exec (.preview tag b 0#8 maxBytes index) s = .next t ∧ t.preview = none ∧
         t.streams = s.streams ∧ t.mem = s.mem ∧
         t.ctl = (s.answered 0x0C#8 tag 0#8
           ([BitVec.ofNat 8 i.num, BitVec.ofNat 8 (s.stream i).writer.k,
             BitVec.ofNat 8 (s.stream i).cfg.width.code, 0#8] ++
            leBytes 6 (s.stream i).writer.index ++ zeros 18)).ctl) ∧
     (∀ older e, (s.stream i).capture = older ++ [e] → n ≤ e.kept →
       (s.stream i).writer.filling ≠ some e.block → (∀ f ∈ older, f.block ≠ e.block) →
       ∃ t : State, exec (.preview tag b 0#8 maxBytes index) s = .next t ∧
         t.preview = some {
           stream := i, tag := tag, k := e.k, width := (s.stream i).cfg.width,
           first := e.first + (e.kept - n) * 2 ^ e.k, segs := [.held e.block (e.kept - n) n],
           data := [], replaced := 0, pinned := [e.block] } ∧
         t.stream i = { s.stream i with capture := older ++ [{ e with pins := e.pins + 1 }] } ∧
         (∀ j, j ≠ i → t.stream j = s.stream j) ∧ t.mem = s.mem ∧
         t.ctl = { s.ctl with reserved := s.ctl.reserved + 1 })) ∧
  (∀ (tag b : Byte) (maxBytes : BitVec 16) (index : BitVec 48) (s : State) (i : StreamId), s.takesAtOnce →
     let x := s.stream i
     let n := min maxBytes.toNat 4064 / x.cfg.width.bytes
     let covers (e : Entry) := e.first - gapLen e.gap ≤ index.toNat ∧ index.toNat < e.first + e.kept * 2 ^ e.k
     b.toNat = i.num → x.phase = .running ∨ x.phase = .closing → s.preview = none → n ≠ 0 →
     index.toNat < x.writer.index → (∀ e rest, x.capture = e :: rest → e.first ≤ index.toNat) →
     (∀ older e newer, x.capture = older ++ e :: newer → (∀ g ∈ older, ¬ covers g) → covers e →
       let j := if index.toNat < e.first then 0 else (index.toNat - e.first) / 2 ^ e.k
       j + n ≤ e.kept → x.writer.filling ≠ some e.block → (∀ g ∈ older ++ newer, g.block ≠ e.block) →
       ∃ t : State, exec (.preview tag b 1#8 maxBytes index) s = .next t ∧
         t.preview = some {
           stream := i, tag := tag, k := e.k, width := x.cfg.width, first := e.first + j * 2 ^ e.k,
           segs := [.held e.block j n], data := [], replaced := 0, pinned := [e.block] } ∧
         t.stream i = { x with capture := older ++ { e with pins := e.pins + 1 } :: newer } ∧
         (∀ l, l ≠ i → t.stream l = s.stream l) ∧ t.mem = s.mem ∧
         t.ctl = { s.ctl with reserved := s.ctl.reserved + 1 }) ∧
     (x.capture ≠ [] → (∀ e ∈ x.capture, ¬ covers e) →
       ∃ t : State, exec (.preview tag b 1#8 maxBytes index) s = .next t ∧ t.preview = none ∧
         t.streams = (s.releaseScan i false).streams ∧ t.mem = s.mem ∧
         t.ctl = (s.answered 0x0C#8 tag 0#8
           ([BitVec.ofNat 8 i.num, 0#8, BitVec.ofNat 8 x.cfg.width.code, 0#8] ++
            leBytes 6 index.toNat ++ zeros 18)).ctl)) ∧
  (∀ (tag b sel : Byte) (maxBytes : BitVec 16) (index : BitVec 48) (s : State) (i : StreamId), s.takesAtOnce →
     let x := s.stream i
     let n := min maxBytes.toNat 4064 / x.cfg.width.bytes
     b.toNat = i.num → x.phase = .running ∨ x.phase = .closing → s.preview = none → n ≠ 0 →
     ∀ plan : SpanPlan,
       (sel = 0#8 ∧ plan = x.newestPlan n) ∨ (sel = 1#8 ∧ plan = x.fromPlan index.toNat n ∧
         index.toNat < x.writer.index ∧ ∀ e rest, x.capture = e :: rest → e.first ≤ index.toNat) →
       ∀ blk j m rest, plan.segs = .held blk j m :: rest → m ≠ 0 → x.writer.filling ≠ some blk →
         let pinned := plan.segs.filterMap fun g => match g with
           | .held c _ l => if l = 0 then none else some c
           | .copied _ _ _ => none
         ∃ t : State, exec (.preview tag b sel maxBytes index) s = .next t ∧
           t.preview = some {
             stream := i, tag := tag, k := plan.k, width := x.cfg.width, first := plan.first, segs := plan.segs,
             data := [], replaced := 0, pinned := pinned } ∧
           t.stream i = { x with capture := x.capture.map fun e =>
             if e.block ∈ pinned then { e with pins := e.pins + 1 } else e } ∧
           (∀ l, l ≠ i → t.stream l = s.stream l) ∧ t.mem = s.mem ∧
           t.ctl = { s.ctl with reserved := s.ctl.reserved + 1 }) ∧
  (∀ (x : Machine.Stream) (n : Nat),
     (∀ before e chain, x.capture = before ++ e :: chain → (e :: chain).IsChain Entry.continues →
       (∀ d ∈ before.getLast?, ¬ d.continues e) → (∀ d ∈ e :: chain, 0 < d.kept) → 0 < n →
       let all := (e :: chain).flatMap Entry.samples
       let span := all.drop (all.length - n)
       (x.newestPlan n).segs.flatMap Seg.samples = span.map (fun p => (p.1, p.2.1)) ∧
       (x.newestPlan n).k = e.k ∧ span.head?.map (·.2.2) = some (x.newestPlan n).first) ∧
     (∀ (index : Nat) before e rest, x.capture = before ++ e :: rest →
       let covers (d : Entry) := d.first - gapLen d.gap ≤ index ∧ index < d.first + d.kept * 2 ^ d.k
       (∀ d ∈ before, ¬ covers d) → covers e →
       let j := if index < e.first then 0 else (index - e.first) / 2 ^ e.k
       let chain := e :: rest.takeWhile fun d => decide (d.gap = none ∧ d.k = e.k)
       (x.fromPlan index n).segs.flatMap Seg.samples =
         (((chain.flatMap Entry.samples).drop j).take n).map (fun p => (p.1, p.2.1)) ∧
       (x.fromPlan index n).k = e.k ∧ (x.fromPlan index n).first = e.first + j * 2 ^ e.k)) ∧
  (∀ (tag b : Byte) (maxBytes : BitVec 16) (index : BitVec 48) (s : State) (i : StreamId) (older : List Entry)
      (e : Entry), s.takesAtOnce →
     let x := s.stream i
     let w := x.cfg.width.bytes
     let n := min maxBytes.toNat 4064 / w
     let buf := x.writer.fillBuf
     b.toNat = i.num → x.phase = .running ∨ x.phase = .closing → s.preview = none → n ≠ 0 →
     x.capture = older ++ [e] → n ≤ e.kept → x.writer.filling = some e.block → x.writer.awaiting = [] →
     x.writer.fillOffset ≤ (e.kept - n) * w → x.writer.fillOffset + buf.count = e.kept * w →
     buf.count ≤ buf.data.length → s.integ.staging.uncorrectable ≤ 255 → s.notices.device.memory ≤ 65535 →
     let place (q : Nat) : Nat := (e.kept - n + q) * w - x.writer.fillOffset
     let bad (q : Nat) : Bool := parityOf (slice buf.data (place q / 8 * 8) 8) != buf.parity.getD (place q / 8) false
     let lost := (List.range n).filter bad
     let errors := (lost.map fun q => place q / 8).dedup.length
     ∃ t : State, exec (.preview tag b 0#8 maxBytes index) s = .next t ∧ t.preview = none ∧ t.mem = s.mem ∧
       t.streams = (s.releaseScan i false).streams ∧
       t.integ.staging.uncorrectable = min 255 (s.integ.staging.uncorrectable + errors) ∧
       t.notices.device.memory = min 65535 ((s.releaseScan i false).notices.device.memory + errors) ∧
       t.ctl = (s.answered 0x0C#8 tag 0#8
         ([BitVec.ofNat 8 i.num, BitVec.ofNat 8 e.k, BitVec.ofNat 8 x.cfg.width.code, 0#8] ++
          leBytes 6 (e.first + (e.kept - n) * 2 ^ e.k) ++ zeros 2 ++ leBytes 2 n ++ leBytes 2 lost.length ++
          zeros 12 ++ (List.range n).flatMap fun q =>
            if bad q then leBytes w x.cfg.fillValue else slice buf.data (place q) w)).ctl)

/-- R199 to R203: STATUS replies with the device's or a stream's report as it stands and changes nothing else;
the reports have the lengths of section 11.5 and these of their fields lie where it puts them. Remaining bytes of
2^48 (R120) show a free value (log 33). -/
def Obligations.StatusReports : Prop :=
  ∀ (tag b : Byte) (s : State), s.takesAtOnce →
    exec (.statusDevice tag) s = .next (s.answered 0x0D#8 tag 0#8 s.deviceReport) ∧
    s.deviceReport.length = 148 + 32 * s.link.commit.length + 24 * s.place.windows.length ∧
    s.deviceReport.take 4 = [BitVec.ofNat 8 s.link.state.code, BitVec.ofNat 8 s.link.train.code,
      BitVec.ofNat 8 s.link.outstandingCode, BitVec.ofNat 8 s.link.causeCode] ∧
    (s.place.remaining < 2 ^ 48 → slice s.deviceReport 16 6 = leBytes 6 s.place.remaining) ∧
    (2 ^ 48 ≤ s.place.remaining →
      slice s.deviceReport 16 6 = leBytes 6 (Config.remainingField s.place.remaining).toNat) ∧
    slice s.deviceReport 76 4 = leBytes 4 s.ctl.timing.commit ∧
    slice s.deviceReport 144 2 =
      [BitVec.ofNat 8 s.link.commit.length, BitVec.ofNat 8 s.place.windows.length] ∧
    (3 < b.toNat → exec (.statusStream tag b) s = .next (s.answered 0x0D#8 tag 3#8 [])) ∧
    (∀ i : StreamId, b.toNat = i.num →
      exec (.statusStream tag b) s = .next (s.answered 0x0D#8 tag 0#8 ((s.stream i).report i)) ∧
      ((s.stream i).report i).length = 232 ∧
      ((s.stream i).report i).take 4 = [b, BitVec.ofNat 8 (s.stream i).phase.code,
        BitVec.ofNat 8 (s.stream i).drain.code, BitVec.ofNat 8 (s.stream i).closeReason.code] ∧
      slice ((s.stream i).report i) 84 6 = leBytes 6 (s.stream i).writer.index ∧
      slice ((s.stream i).report i) 168 6 = leBytes 6 (s.stream i).cutter.cutIndex ∧
      slice ((s.stream i).report i) 224 6 = leBytes 6 (s.stream i).commitIndex)

/-- R190, R195, R196, R197: ATTN# is asserted exactly while a reply is queued, an enabled category is pending, or POWER
is; NOTICE_MASK applies its enables with POWER always enabled; NOTICE_TAKE clears the counts of the
categories selected and no other; a set that names an undefined category is refused. -/
def Obligations.NoticesAndAttention : Prop :=
  (∀ (tag : Byte) (set : BitVec 16) (s : State), s.takesAtOnce →
     (2048 ≤ set.toNat →
       exec (.noticeMask tag set) s = .next (s.answered 0x0E#8 tag 3#8 []) ∧
       exec (.noticeTake tag set) s = .next (s.answered 0x0F#8 tag 3#8 [])) ∧
     (set.toNat < 2048 →
       (∃ mask : BitVec 11, mask.getLsbD 10 = true ∧ (∀ n, n < 10 → mask.getLsbD n = set.getLsbD n) ∧
         exec (.noticeMask tag set) s = .next
           ({ s with notices := { s.notices with mask := mask } }.answered 0x0E#8 tag 0#8
             (leBytes 2 mask.toNat ++ zeros 2 ++ s.notices.pendingSet))) ∧
       (∃ n : Notices, n.mask = s.notices.mask ∧
         (∀ i c, n.streamCount i c = if set.getLsbD c.bit then 0 else s.notices.streamCount i c) ∧
         (∀ c, n.device.get c = if set.getLsbD c.bit then 0 else s.notices.device.get c) ∧
         exec (.noticeTake tag set) s = .next ({ s with notices := n }.answered 0x0F#8 tag 0#8
           (leBytes 2 set.toNat ++ zeros 2 ++ s.notices.takeCounts set ++ zeros 2 ++ n.pendingSet))))) ∧
  (∀ s : State, s.attn = true ↔
     s.ctl.out ≠ [] ∨
     (∃ i c, 0 < s.notices.streamCount i c ∧ s.notices.mask.getLsbD c.bit = true) ∨
     (∃ c, 0 < s.notices.device.get c ∧ (s.notices.mask.getLsbD c.bit = true ∨ c = .power)))

/-- R170: ERROR_SETUP replaces the capture mode of its memory and replies with the mode applied, or is refused
with RANGE; the mode decides which address each later error leaves captured. -/
def Obligations.ErrorSetupSetsTheMode : Prop :=
  ∀ (tag memory mode : Byte) (s : State), s.takesAtOnce →
    (2 < memory.toNat ∨ 1 < mode.toNat →
      exec (.errorSetup tag memory mode) s = .next (s.answered 0x10#8 tag 3#8 [])) ∧
    (∀ (m : MemId) (c : CaptureMode), memory = BitVec.ofNat 8 (match m with | .capture => 0 | .staging => 1 | .replay => 2) →
      mode = BitVec.ofNat 8 (match c with | .first => 0 | .last => 1) →
      ∃ t : State, exec (.errorSetup tag memory mode) s = .next (t.answered 0x10#8 tag 0#8 [memory, mode, 0#8, 0#8]) ∧
        t = { s with integ := t.integ } ∧ (∀ k, k ≠ m → t.integ.get k = s.integ.get k) ∧
        t.integ.get m = { s.integ.get m with mode := c } ∧
        ∀ a,
          ((t.countCorrected m a).integ.get m).corrAddr =
            (if c = .last ∨ (s.integ.get m).corrAddr = none then some a else (s.integ.get m).corrAddr) ∧
          ((t.countUncorrectable m a).integ.get m).uncorrAddr =
            (if c = .last ∨ (s.integ.get m).uncorrAddr = none then some a
             else (s.integ.get m).uncorrAddr))

/-- R171, R172: ERROR_READ replies with the counts, the captured addresses, the mode and the arming of its memory, then
clears what its flags name; INJECT arms its memory and replies whether it was armed already; each refuses what
is out of range. -/
def Obligations.ErrorReadAndInject : Prop :=
  (∀ (tag memory flags : Byte) (s : State), s.takesAtOnce →
     (2 < memory.toNat → exec (.errorRead tag memory flags) s = .next (s.answered 0x11#8 tag 3#8 [])) ∧
     (∀ m : MemId, memory = BitVec.ofNat 8 (match m with | .capture => 0 | .staging => 1 | .replay => 2) →
       let x := s.integ.get m
       exec (.errorRead tag memory flags) s = .next
         ({ s with integ := s.integ.set m { x with
             corrected := if flags.getLsbD 0 then 0 else x.corrected,
             corrAddr := if flags.getLsbD 0 then none else x.corrAddr,
             uncorrectable := if flags.getLsbD 1 then 0 else x.uncorrectable,
             uncorrAddr := if flags.getLsbD 1 then none else x.uncorrAddr } }.answered 0x11#8 tag 0#8
           ([memory, (match x.mode with | .first => 0#8 | .last => 1#8),
             BitVec.ofNat 8 ((if x.corrAddr.isSome then 1 else 0) + (if x.uncorrAddr.isSome then 2 else 0) +
               (if x.arming.isSome then 4 else 0)),
             BitVec.ofNat 8 x.uncorrectable] ++ leBytes 2 x.corrected ++ zeros 6 ++
            leBytes 8 (x.corrAddr.getD 0) ++ leBytes 8 (x.uncorrAddr.getD 0))))) ∧
  (∀ (tag memory target bPresent : Byte) (a b : BitVec 16) (s : State), s.takesAtOnce →
     (2 < memory.toNat ∨ 1 < target.toNat →
       exec (.inject tag memory target bPresent a b) s = .next (s.answered 0x12#8 tag 3#8 [])) ∧
     (∀ m : MemId, memory = BitVec.ofNat 8 (match m with | .capture => 0 | .staging => 1 | .replay => 2) →
       target.toNat ≤ 1 →
       let limit := if target = 1#8 then 8 else if m = .capture then 64 else 512
       (limit ≤ a.toNat ∨ (bPresent ≠ 0#8 ∧ limit ≤ b.toNat) →
         exec (.inject tag memory target bPresent a b) s = .next (s.answered 0x12#8 tag 3#8 [])) ∧
       (a.toNat < limit → bPresent = 0#8 ∨ b.toNat < limit →
         exec (.inject tag memory target bPresent a b) s = .next
           ({ s with integ := s.integ.set m { s.integ.get m with
               arming := some ⟨decide (target = 1#8), a.toNat,
                 if bPresent = 0#8 then none else some b.toNat⟩ } }.answered 0x12#8 tag 0#8
             [if (s.integ.get m).arming.isSome then 1#8 else 0#8, 0#8, 0#8, 0#8]))))

/-- R187: TIMING_SET clamps each flagged value to its range, leaves the others, and replies with the three in
force; a lead time that changes makes the low state follow (R119). -/
def Obligations.TimingSetClamps : Prop :=
  ∀ (tag flags : Byte) (commit sync lead : BitVec 32) (s : State), s.takesAtOnce →
    let t : Timing := {
      commit := if flags.getLsbD 0 then max 1 (min 1000 commit.toNat) else s.ctl.timing.commit,
      sync := if flags.getLsbD 1 then max 10 (min 60000 sync.toNat) else s.ctl.timing.sync,
      lead := if flags.getLsbD 2 then min 60000 lead.toNat else s.ctl.timing.lead }
    let fields := leBytes 4 t.commit ++ leBytes 4 t.sync ++ leBytes 4 t.lead
    let u : State := { s with ctl := { s.ctl with timing := t } }
    (t.lead = s.ctl.timing.lead →
      exec (.timingSet tag flags commit sync lead) s = .next (u.answered 0x13#8 tag 0#8 fields)) ∧
    (t.lead ≠ s.ctl.timing.lead →
      let low := decide (s.place.remaining < min (2 ^ 48 - 1) (s.place.latchedRate * t.lead))
      let v : State := { u with place := { s.place with low := low } }
      exec (.timingSet tag flags commit sync lead) s = .next
        ((if low = true ∧ s.place.low = false then v.raiseDev .windowLow else v).answered
          0x13#8 tag 0#8 fields))

/-- R188: RESET replies OK and sets the RESET hold; nothing else changes. R19, R81, R123, R189: when its reply
has been read to its last byte every item takes its reset value, but for capture memory, the error
counts, an access already granted, the link's enable, the level of PFAIL# and the waiting commands. The start mode's
reset value (log 3) is the model's choice. -/
def Obligations.ResetRequestHoldsThenResets : Prop :=
  ∀ s : State,
    (∀ tag, s.takesAtOnce → exec (.reset tag) s = .next { s with ctl := { s.ctl with
      resetHold := true,
      out := s.ctl.out ++ [⟨outFrame 0x94#8 tag [0#8, 16#8, 2#8, 0#8], true⟩] } }) ∧
    (∀ n f rest, s.ctl.out = f :: rest → f.isReset = true → s.ctl.reading = some ⟨f.bytes, true⟩ →
      f.bytes.length ≤ n →
      exec (.readPeriodEnd n) s = .next { State.reset with
        pending := s.pending,
        mem := s.mem,
        port := { State.reset.port with granted := match s.port.granted with
          | none => none
          | some (.flush i a none) => some (.flush i a (s.stream i).writer.awaiting.head?)
          | some (.flush i a (some b)) => some (.flush i a (some b))
          | some (.drain a l p _) => some (.drain a l p false)
          | some (.preview a l _) => some (.preview a l false) },
        link := { State.reset.link with
          state := if s.link.state = .disabled then .disabled else .training },
        integ := ⟨{ s.integ.capture with arming := none }, { s.integ.staging with arming := none },
          { s.integ.replay with arming := none }⟩,
        ctl := { State.reset.ctl with resetCause := .resetRequest },
        pfail := s.pfail, powerFail := s.pfail,
        notices := { State.reset.notices with device := { State.reset.notices.device with
          power := if s.pfail then 1 else 0 } } })

/-- R79, R80, R191, R196: power-on and RST# leave the part at its reset values, with the cause and, while PFAIL# is
asserted, the power-fail condition with POWER pending; the deassertion of PFAIL# ends the condition, clears
the mask but for POWER and raises POWER; an edge command that finds the line at its level changes
nothing (log 14). The waiting commands and the line's level stay (log 29). Capture memory
reading zero after them (log 1), the start mode (log 3) and the port being free (log 30) are the model's choices. -/
def Obligations.HardResetsAndPowerReturn : Prop :=
  (∀ s : State,
     let after (cause : ResetCause) : State := { State.reset with
       pending := s.pending,
       ctl := { State.reset.ctl with resetCause := cause },
       pfail := s.pfail, powerFail := s.pfail,
       notices := { State.reset.notices with device := { State.reset.notices.device with
         power := if s.pfail then 1 else 0 } } }
     exec .powerOn s = .next (after .powerOn) ∧ exec .rst s = .next (after .rst)) ∧
  (∀ s : State,
     (s.pfail = true → exec .pfailDeassert s = .next { s with
       pfail := false, powerFail := false,
       notices := { s.notices with
         mask := 0x400#11,
         device := { s.notices.device with power := min 65535 (s.notices.device.power + 1) } } }) ∧
     (s.pfail = false → exec .pfailDeassert s = .next s) ∧
     (s.pfail = true → exec .pfailAssert s = .next s))

/-- R33, R43, R45, R78: the assertion of PFAIL# begins the power-fail condition, raises POWER, takes a stop request with
reason POWER_FAIL for each RUNNING stream at the next multiple of 2^k, where a writer that is there already stops,
returns each ARMED one to IDLE and raises RUN for both; other streams, windows, control link, memory and the
staging and capture monitors stay. -/
def Obligations.PowerFailBegins : Prop :=
  ∀ s : State, s.pfail = false →
    ∃ t : State, exec .pfailAssert s = .next t ∧ t.pfail = true ∧ t.powerFail = true ∧
      t.mem = s.mem ∧ t.place = s.place ∧ t.ctl = s.ctl ∧ t.routes = s.routes ∧ t.preview = s.preview ∧
      t.integ.capture = s.integ.capture ∧ t.integ.staging = s.integ.staging ∧
      t.notices.mask = s.notices.mask ∧
      t.notices.device.power = min 65535 (s.notices.device.power + 1) ∧
      ∀ i,
        ((s.stream i).phase ≠ .running → (s.stream i).phase ≠ .armed → t.stream i = s.stream i ∧
          t.notices.streamCount i .run = s.notices.streamCount i .run) ∧
        ((s.stream i).phase = .armed → t.stream i = { s.stream i with phase := .idle } ∧
          t.notices.streamCount i .run = min 65535 (s.notices.streamCount i .run + 1)) ∧
        ((s.stream i).phase = .running → (s.stream i).writer.stop = none →
          t.notices.streamCount i .run = min 65535 (s.notices.streamCount i .run + 1) ∧
          ∀ n, 2 ^ (s.stream i).writer.k ∣ n → (s.stream i).writer.index ≤ n →
            n < (s.stream i).writer.index + 2 ^ (s.stream i).writer.k →
            t.stream i = stopTaken (s.stream i) n .powerFail)

/-! ### Lanes, markers and the capture writer (chapters 2 and 3) -/

/-- R25 to R27, R29, R61: a beat is discarded while its stream acquires nothing, held while it does, and counted as
overrun at a full hold; at an ARMED LANE_TRIGGER stream a valid mark starts the run; a writer context that
has finished its beat and is neither SEALING nor STOPPED takes the oldest one, whose mark becomes the
pending lane mark. -/
def Obligations.BeatsArriveAndAreTaken : Prop :=
  (∀ (i : StreamId) (beat : List Byte) (mark : Option Nat) (s : State),
     let x := s.stream i
     let valid := mark.filter fun o => decide (o * x.cfg.width.bytes < 64)
     let acquires := x.phase = .running ∨ (x.phase = .closing ∧ x.writer.mode ≠ .stopped)
     (acquires → x.hold.length < 16 → exec (.beatArrival i beat mark) s = .next
       (s.setStream i { x with hold := x.hold ++ [⟨beat, valid⟩] })) ∧
     (acquires → 16 ≤ x.hold.length → exec (.beatArrival i beat mark) s = .next
       (s.setStream i { x with overrun := min 65535 (x.overrun + 1) })) ∧
     (∀ o, x.phase = .armed → x.startMode = .laneTrigger → valid = some o → x.hold = [] →
       ∃ n : Notices, s.notices.RaisedFor n .run (· = i) ∧
         exec (.beatArrival i beat mark) s = .next { s.setStream i { runEntered x with
           hold := [⟨beat.drop (o * x.cfg.width.bytes), none⟩] } with notices := n }) ∧
     (¬ acquires → (x.phase = .armed → x.startMode ≠ .laneTrigger ∨ valid = none) →
       exec (.beatArrival i beat mark) s = .next s)) ∧
  (∀ (i : StreamId) (s : State),
     let x := s.stream i
     (∀ b rest, x.hold = b :: rest → x.writer.beat = [] → x.writer.mode ≠ .sealing → x.writer.mode ≠ .stopped →
       exec (.beatTake i) s = .next (s.setStream i { x with
         hold := rest, writer := { x.writer with beat := b.bytes },
         pendingLane := b.mark.map fun o => x.writer.index + o })) ∧
     (x.hold = [] ∨ x.writer.beat ≠ [] ∨ x.writer.mode = .sealing ∨ x.writer.mode = .stopped →
       exec (.beatTake i) s = .next s))

/-- R30, R32, R40: a sample that is not a multiple of 2^k, or that meets a DROPPING writer, only moves the writer
index; a kept one met in FILLING joins the FILLING entry and the filling buffer, which becomes awaiting flush when it
reaches 4,096 bytes, and one that would fill it while the other buffer awaits flush is not processed. The samples
staged here take no flip (a write with one: the statement of staging errors); that the samples of one beat in one
buffer are one staging write is the model's reading (log 7, DEDUCED, unsafe), as is that a boundary already evaluated
is not evaluated again (logs 6 and 34). -/
def Obligations.SamplesAreSkippedOrStaged : Prop :=
  ∀ (i : StreamId) (s : State),
    let x := s.stream i
    let w := x.writer
    let bytes := x.cfg.width.bytes
    (QuietSample x →
      (w.mode = .dropping ∨ ((w.mode = .noBlock ∨ w.mode = .filling) ∧ ¬ 2 ^ w.k ∣ w.index) →
        exec (.sampleProcess i) s = .next (s.setStream i { x with writer := w.pastSample x.cfg.width }).settle) ∧
      (∀ list e, w.mode = .filling → 2 ^ w.k ∣ w.index → w.fillBuf.count + bytes < 4096 →
        s.stagesPlain i → x.capture = list ++ [e] → exec (.sampleProcess i) s = .next
          (s.setStream i { x with
            capture := list ++ [{ e with kept := e.kept + 1 }],
            writer := (w.staged x.cfg.width).pastSample x.cfg.width }).settle) ∧
      (w.mode = .filling → 2 ^ w.k ∣ w.index → w.awaiting ≠ [] → 4096 ≤ w.fillBuf.count + bytes →
        exec (.sampleProcess i) s = .next s.settle)) ∧
    (∀ list e, PlainSample x → bytes ≤ w.beat.length → s.stagesPlain i → w.mode = .filling →
      2 ^ w.k ∣ w.index → x.capture = list ++ [e] →
      let on (v : Writer) : State := (s.setStream i { x with
        capture := list ++ [{ e with kept := e.kept + 1 }],
        writer := { v.pastSample x.cfg.width with write := none } }).settle
      (w.beat.length ≤ bytes → w.fillBuf.count + bytes < 4096 →
        exec (.sampleProcess i) s = .next (on (w.staged x.cfg.width))) ∧
      (w.awaiting = [] → w.fillBuf.count + bytes = 4096 →
        exec (.sampleProcess i) s = .next (on { w.staged x.cfg.width with
          awaiting := [(w.staged x.cfg.width).fillBuf], fillBuf := .empty })))

/-- R10, R13, R36, R40, R42: a kept sample met in NO_BLOCK takes the top spare block; with none to take, under
DROP_OLD the oldest FULL unpinned entry gives up its block and its coverage passes on; else the
writer enters DROPPING. RING_HIGH and GAP are raised as the rules say. That a victim's
own causes join those of the gap is the model's reading (log 32), as are the staging write the sample belongs to, which
takes no flip here (log 7, DEDUCED, unsafe), and that a boundary already evaluated is not evaluated again (logs 6
and 34). -/
def Obligations.KeptSamplesFindABlock : Prop :=
  ∀ (i : StreamId) (s : State),
    let x := s.stream i
    let w := x.writer
    QuietSample x → s.stagesPlain i → w.mode = .noBlock → 2 ^ w.k ∣ w.index → w.fillBuf.count = 0 →
    let fresh (b : Nat) (gap : Option Gap) : Entry := ⟨b, .filling, w.index, w.k, 1, gap, 0, false⟩
    let on (b : Nat) : Writer := ((w.onBlock b x.cfg.flushAge).staged x.cfg.width).pastSample x.cfg.width
    let isVictim (e : Entry) := e.st = .full ∧ e.pins = 0
    (∀ b rest, x.spare = b :: rest →
      exec (.sampleProcess i) s = .next
        ((if x.capture.length + 1 = x.cfg.high then s.raise i .ringHigh else s).setStream i { x with
          spare := rest, capture := x.capture ++ [fresh b none], writer := on b }).settle) ∧
    (x.spare = [] → x.cfg.policy ≠ .dropOld ∨ (∀ e ∈ x.capture, ¬ isVictim e) →
      exec (.sampleProcess i) s = .next
        ((s.raise i .gap).setStream i { x with
          writer := { w with mode := .dropping, dropStart := w.index }.pastSample x.cfg.width }).settle) ∧
    (∀ before e after, x.spare = [] → x.cfg.policy = .dropOld → x.capture = before ++ e :: after →
      isVictim e → (∀ f ∈ before, ¬ isVictim f) →
      (∀ f more, after = f :: more →
        let len := gapLen f.gap + (e.first + e.kept * 2 ^ e.k - (e.first - gapLen e.gap))
        let gap : Gap := ⟨len, {
          ringFullNew := (gapCauses f.gap).ringFullNew || (gapCauses e.gap).ringFullNew, ringFullOld := true,
          aborted := (gapCauses f.gap).aborted || (gapCauses e.gap).aborted }⟩
        exec (.sampleProcess i) s = .next
          ((s.raise i .gap).setStream i { x with
            capture := before ++ { f with gap := some gap } :: more ++ [fresh e.block none],
            writer := on e.block }).settle) ∧
      (after = [] →
        let gap : Gap := ⟨w.index - (e.first - gapLen e.gap), { gapCauses e.gap with ringFullOld := true }⟩
        exec (.sampleProcess i) s = .next
          ((s.raise i .gap).setStream i { x with
            capture := before ++ [fresh e.block (some gap)], writer := on e.block }).settle))

/-- R37, R38, R41: at a grain boundary above the start index a DECIMATE stream moves k by one step within its
range and raises DECIMATION; a DROPPING writer with a spare block resumes, its entry carrying the drop's
gap; with no change of k and no drop neither happens. A boundary is evaluated
once, before the seal it starts is waited for, and at a sample that then waits for a flush too (logs 6 and 34, the
latter unsafe). -/
def Obligations.BoundariesDecimateAndResume : Prop :=
  ∀ (i : StreamId) (s : State),
    let x := s.stream i
    let w := x.writer
    w.beat ≠ [] → w.mode = .noBlock ∨ w.mode = .filling ∨ w.mode = .dropping →
    w.index % 131072 = 0 → x.startIndex < w.index → w.boundaryDone = false →
    let up := x.cfg.policy = .decimate ∧ x.cfg.high ≤ x.capture.length ∧ w.k < x.cfg.kmax
    let down := x.cfg.policy = .decimate ∧ ¬ (x.cfg.high ≤ x.capture.length ∧ w.k < x.cfg.kmax) ∧
      x.capture.length ≤ x.cfg.low ∧ x.cfg.kmin < w.k
    ∃ t : State, exec (.sampleProcess i) s = .next t ∧
      (up → (t.stream i).writer.k = w.k + 1) ∧ (down → (t.stream i).writer.k = w.k - 1) ∧
      (up ∨ down → t.notices.streamCount i .decimation = min 65535 (s.notices.streamCount i .decimation + 1)) ∧
      (¬ up → ¬ down → (t.stream i).writer.k = w.k ∧
        t.notices.streamCount i .decimation = s.notices.streamCount i .decimation) ∧
      (up ∨ down → w.mode = .filling → 0 < w.fillBuf.count → w.stop = none →
        (t.stream i).writer.mode = .sealing ∧ (t.stream i).writer.index = w.index ∧
        (t.stream i).capture = x.capture) ∧
      (∀ b rest, w.mode = .dropping → w.awaiting = [] → x.spare = b :: rest → w.k ≤ 7 → x.cfg.kmax ≤ 7 →
        (t.stream i).spare = rest ∧ (t.stream i).writer.index = w.index + 1 ∧
        (t.stream i).capture = x.capture ++
          [⟨b, .filling, w.index, (t.stream i).writer.k, 1,
            some ⟨w.index - w.dropStart, ⟨true, false, false⟩⟩, 0, false⟩])

/-- R33, R35, R43, R56, R64, R70: the sample that brings the writer index to the run length stops a RUNNING stream with
reason LENGTH at the next multiple of 2^k, raising RUN; a lane mark pending at a sample is entered as it is
processed. When the fill age reaches the flush age the FILLING block is sealed: the staged bytes await
flush, or, with none left, the entry is FULL at once; with no fill age running nothing happens. That a boundary already
evaluated is not evaluated again is the model's reading (logs 6 and 34). -/
def Obligations.LengthStopsMarksAndFlushAge : Prop :=
  (∀ (i : StreamId) (s : State),
     let x := s.stream i
     let w := x.writer
     w.beat ≠ [] → w.mode = .noBlock ∨ w.mode = .dropping ∨ (w.mode = .filling ∧ w.awaiting = []) →
     w.boundaryDone = true ∨ w.index % 131072 ≠ 0 ∨ w.index ≤ x.startIndex →
     x.phase = .running → w.stop = none →
     ∃ t : State, exec (.sampleProcess i) s = .next t ∧ (t.stream i).writer.index = w.index + 1 ∧
       (x.pendingLane = some w.index → x.markers.length < 32 →
         (t.stream i).markers = x.markers ++ [⟨w.index, .lane, x.lost⟩] ∧ (t.stream i).lost = 0) ∧
       (x.pendingLane ≠ some w.index → (t.stream i).markers = x.markers ∧ (t.stream i).lost = x.lost) ∧
       (x.runLen = some (w.index + 1 - x.startIndex) → x.startIndex ≤ w.index →
         (t.stream i).phase = .closing ∧ (t.stream i).closeReason = .length ∧
         t.notices.streamCount i .run = min 65535 (s.notices.streamCount i .run + 1) ∧
         ∃ n, (t.stream i).writer.stop = some ⟨n, .length⟩ ∧ 2 ^ w.k ∣ n ∧ w.index + 1 ≤ n ∧
           n < w.index + 1 + 2 ^ w.k ∧
           (n = w.index + 1 → w.mode = .dropping →
             (t.stream i).writer.mode = .stopped ∧ (t.stream i).endIndex = n)) ∧
       (x.runLen = none → w.index + 1 ≠ 2 ^ 48 - 131072 → (t.stream i).phase = .running)) ∧
  (∀ (i : StreamId) (s : State),
     let x := s.stream i
     let w := x.writer
     (w.mode ≠ .filling ∨ w.ageRunning = false → exec (.flushAgeExpiry i) s = .next s) ∧
     (w.mode = .filling → w.ageRunning = true →
       (0 < w.fillBuf.count → exec (.flushAgeExpiry i) s = .next
         (s.setStream i { x with writer := { w with
           mode := .sealing, ageRunning := false, write := none,
           awaiting := w.awaiting ++ [w.fillBuf], fillBuf := .empty } }).settle) ∧
       (∀ list e, w.fillBuf.count = 0 → w.awaiting = [] → w.stop = none → x.capture = list ++ [e] →
         e.st = .filling → exec (.flushAgeExpiry i) s = .next
           (s.setStream i { x with
             capture := list ++ [{ e with st := .full }],
             writer := { w with
               mode := .noBlock, ageRunning := false, write := none, filling := none, fillOffset := 0 } }).settle)))

/-- R53, R57, R58, R60: an edge that the route takes starts each stream ARMED on the line and, on each other stream
of the mask that is RUNNING, enters a marker at its writer index or counts it lost; any other stream is
unchanged, and a change of level that is no edge of the route changes nothing. That the edge that
starts a run leaves no marker on it is the model's reading (log 15). -/
def Obligations.AuxEdgesStartAndMark : Prop :=
  ∀ (line : AuxLine) (rising : Bool) (s : State),
    let route := match line with | .aux0 => s.routes.aux0 | .aux1 => s.routes.aux1
    let mode : StartMode := match line with | .aux0 => .aux0 | .aux1 => .aux1
    let source : MarkSource := match line with | .aux0 => .aux0 | .aux1 => .aux1
    let taken := route.edge = .both ∨ (route.edge = .rising ∧ rising = true) ∨
      (route.edge = .falling ∧ rising = false)
    (¬ taken → exec (.auxEdge line rising) s = .next s) ∧
    (taken → ∃ t : State, exec (.auxEdge line rising) s = .next t ∧
      t.mem = s.mem ∧ t.port = s.port ∧ t.place = s.place ∧ t.link = s.link ∧ t.ctl = s.ctl ∧
      t.routes = s.routes ∧ t.preview = s.preview ∧ t.notices.device = s.notices.device ∧
      ∀ i,
        let x := s.stream i
        let marked := x.phase = .running ∧ route.mask.getLsbD i.num = true
        (x.phase = .armed → x.startMode = mode → t.stream i = runEntered x ∧
          t.notices.streamCount i .run = min 65535 (s.notices.streamCount i .run + 1)) ∧
        (marked → x.markers.length < 32 → t.stream i = { x with
          markers := x.markers ++ [⟨x.writer.index, source, x.lost⟩], lost := 0 }) ∧
        (marked → 32 ≤ x.markers.length → t.stream i = { x with lost := min 65535 (x.lost + 1) } ∧
          t.notices.streamCount i .markerLost = min 65535 (s.notices.streamCount i .markerLost + 1)) ∧
        (¬ marked → ¬ (x.phase = .armed ∧ x.startMode = mode) → t.stream i = x))

/-! ### The memory port and capture memory (chapters 1 and 8) -/

/-- R19: a free port is granted to the first writer waiting in rotation; with none, to the reader that waits, and of two
readers to the one not granted last; a port in use stays as it is. R1: an access outside capture memory,
which no run grants, stops the machine with a fault of its own (the model's choice, log 13). -/
def Obligations.PortGrantsAndBounds : Prop :=
  (∀ s : State,
     (s.port.granted ≠ none → s.portGrant = s) ∧
     (s.port.granted = none →
       (∀ i a, (s.stream i).flushWants = some a →
         (∀ j b, (s.stream j).flushWants = some b →
           (i.num + 4 - s.port.rot.num) % 4 ≤ (j.num + 4 - s.port.rot.num) % 4) →
         s.portGrant = { s with port := { s.port with
           granted := some (.flush i a none), rot := nextStream i } }) ∧
       ((∀ i, (s.stream i).flushWants = none) →
         (s.drainWants = none → s.previewWants = none → s.portGrant = s) ∧
         (∀ d, s.drainWants = some d → s.previewWants = none ∨ s.port.lastReader = .preview →
           s.portGrant = { s with port := { s.port with
             granted := some (.drain d.addr d.len d.pos true), lastReader := .drain } }) ∧
         (∀ a n, s.previewWants = some (a, n) → s.drainWants = none ∨ s.port.lastReader = .drain →
           s.portGrant = { s with port := { s.port with
             granted := some (.preview a n true), lastReader := .preview } })))) ∧
  (∀ (us : List Upset) (s : State),
     (∀ i a b, s.port.granted = some (.flush i a (some b)) → 17179869184 < a + 8 * ((b.count + 7) / 8) →
       exec (.flushComplete us) s = .fault .captureAddress) ∧
     (∀ a n q l, s.port.granted = some (.drain a n q l) → 17179869184 < a + n →
       exec (.drainReadComplete us) s = .fault .captureAddress) ∧
     (∀ a n l, s.port.granted = some (.preview a n l) → 17179869184 < a + n →
       exec (.previewReadComplete us) s = .fault .captureAddress))

/-- R32, R33, R166: a granted flush writes the staged bytes and zeros to a whole word, as clean words, frees its
buffer and the port and moves the fill offset; the last one of a seal makes it, and stops a writer that is at
its stop index. Without a granted flush the command does nothing. -/
def Obligations.FlushesWriteTheirBuffer : Prop :=
  (∀ (us : List Upset) (s : State), (∀ i a o, s.port.granted ≠ some (.flush i a o)) →
    exec (.flushComplete us) s = .next s) ∧
  ∀ (i : StreamId) (addr : Nat) (b : StageBuf) (rest : List StageBuf) (s : State),
    let x := s.stream i
    let w := x.writer
    let size := 8 * ((b.count + 7) / 8)
    s.mem.wf = true → s.port.granted = some (.flush i addr none) → w.awaiting = b :: rest →
    addr % 8 = 0 → addr + size ≤ 17179869184 → s.integ.capture.arming = none →
    (∀ n, n < size / 8 → parityOf (b.flushWord n) = b.parity.getD n false) →
    ∃ m : Memory,
      (∀ a, m.byteAt a =
        if addr ≤ a ∧ a < addr + b.count then b.data.getD (a - addr) 0#8
        else if addr + b.count ≤ a ∧ a < addr + size then 0#8 else s.mem.byteAt a) ∧
      (∀ n, m.errAt n =
        if addr / 8 ≤ n ∧ n < addr / 8 + size / 8 then WordErr.clean else s.mem.errAt n) ∧
      let freed : State := { s with mem := m, port := { s.port with granted := none } }
      let past : Writer := { w with awaiting := rest, fillOffset := w.fillOffset + size }
      (w.mode ≠ .sealing ∨ rest ≠ [] → exec (.flushComplete []) s = .next
        (freed.setStream i { x with writer := past }).settle) ∧
      (∀ list e, w.mode = .sealing → rest = [] → w.boundaryDone = false → x.capture = list ++ [e] →
        e.st = .filling →
        let full := list ++ [{ e with st := .full }]
        let free : Writer := { past with mode := .noBlock, filling := none, fillOffset := 0 }
        ((∀ r, w.stop = some r → r.index ≠ w.index) → exec (.flushComplete []) s = .next
          (freed.setStream i { x with capture := full, writer := free }).settle) ∧
        (∀ r, w.stop = some r → r.index = w.index → exec (.flushComplete []) s = .next
          (freed.setStream i { x with
            capture := full, hold := [], pendingLane := none, endIndex := w.index,
            writer := { free with mode := .stopped, beat := [], boundaryDone := false } }).settle))

/-- R158, R166, R167, R172, R173: a flush word whose parity fails makes every word of its 64-byte unit that the
flush writes poison, counted once for each unit with MEMORY raised; the first word a flush writes takes the
armed flip of CAPTURE, which is disarmed with INJECTION raised: one flipped bit is read back corrected,
two are uncorrectable; the first kept sample of a staging write takes the armed flip of STAGING in the 64-byte line of its
first byte, and the flip stands over the parity set by each further sample of the write, which leaves the monitor
alone. That the kept samples of one beat in one buffer are the write R173 means, and that its first sample is the
moment, is the model's reading (log 7, DEDUCED, unsafe). -/
def Obligations.StagingErrorsAndInjection : Prop :=
  (∀ (i : StreamId) (addr : Nat) (b : StageBuf) (rest : List StageBuf) (s : State),
     let words := (b.count + 7) / 8
     let bad (n : Nat) : Bool := parityOf (b.flushWord n) != b.parity.getD n false
     let units := (((List.range words).filter bad).map fun n => (addr / 8 + n) / 8).dedup.length
     s.mem.wf = true → s.port.granted = some (.flush i addr none) → (s.stream i).writer.awaiting = b :: rest →
     addr % 8 = 0 → addr + 8 * words ≤ 17179869184 → s.integ.capture.arming = none →
     s.integ.staging.uncorrectable ≤ 255 → s.notices.device.memory ≤ 65535 →
     ∃ t : State, exec (.flushComplete []) s = .next t ∧
       (∀ n, n < words →
         ((t.mem.errAt (addr / 8 + n)).outcome = .poison ↔
           ∃ m, m < words ∧ (addr / 8 + m) / 8 = (addr / 8 + n) / 8 ∧ bad m = true)) ∧
       t.integ.staging.uncorrectable = min 255 (s.integ.staging.uncorrectable + units) ∧
       t.notices.device.memory = min 65535 (s.notices.device.memory + units)) ∧
  (∀ (i : StreamId) (addr : Nat) (b : StageBuf) (rest : List StageBuf) (g : Arming) (s : State),
     let limit := if g.check then 8 else 64
     s.mem.wf = true → s.port.granted = some (.flush i addr none) → (s.stream i).writer.awaiting = b :: rest →
     addr % 8 = 0 → addr + 8 * ((b.count + 7) / 8) ≤ 17179869184 → 0 < b.count →
     (∀ n, n < (b.count + 7) / 8 → parityOf (b.flushWord n) = b.parity.getD n false) →
     s.integ.capture.arming = some g → s.integ.staging.arming = none → s.integ.replay.arming = none →
     g.a < limit → (∀ q, g.b = some q → q < limit) →
     ∃ t : State, exec (.flushComplete []) s = .next t ∧ t.integ.capture.arming = none ∧
       t.notices.device.injection = min 65535 (s.notices.device.injection + 1) ∧
       (g.b = none ∨ g.b = some g.a →
         (t.mem.errAt (addr / 8)).outcome = .corrected ∧
         ∀ j, j < 8 → t.mem.delivered (addr + j) = if j < b.count then b.data.getD j 0#8 else 0#8) ∧
       (∀ q, g.b = some q → q ≠ g.a → (t.mem.errAt (addr / 8)).outcome = .uncorrectable)) ∧
  (∀ (i : StreamId) (list : List Entry) (e : Entry) (g : Arming) (s : State),
     let x := s.stream i
     let w := x.writer
     let bs := w.beat.take x.cfg.width.bytes
     PlainSample x → w.beat ≠ [] → w.mode = .filling → 2 ^ w.k ∣ w.index →
     w.fillBuf.count + x.cfg.width.bytes < 4096 → x.capture = list ++ [e] → g.below (if g.check then 8 else 512) →
     (w.write = none → s.integ.staging.arming = some g → s.integ.replay.arming = none →
       ∃ t : State, exec (.sampleProcess i) s = .next t ∧
         t.integ = { s.integ with staging := { s.integ.staging with arming := none } } ∧
         t.notices.device.injection = min 65535 (s.notices.device.injection + 1) ∧
         (t.stream i).writer.write =
           (if w.beat.length ≤ x.cfg.width.bytes then none else some ⟨w.fillBuf.count, some g⟩) ∧
         let staged := w.fillBuf.append bs
         let after := (t.stream i).writer.fillBuf
         after.count = staged.count ∧
           flippedBy g (w.fillBuf.count / 64) staged.data after.data staged.parity after.parity) ∧
     (∀ (o : Nat) (plain : StageBuf), w.write = some ⟨o, some g⟩ → s.integ.replay.arming = none →
       plain.count = w.fillBuf.count →
       flippedBy g (o / 64) plain.data w.fillBuf.data plain.parity w.fillBuf.parity →
       ∃ t : State, exec (.sampleProcess i) s = .next t ∧ t.integ = s.integ ∧
         t.notices.device.injection = s.notices.device.injection ∧
         let staged := plain.append bs
         let after := (t.stream i).writer.fillBuf
         after.count = staged.count ∧ flippedBy g (o / 64) staged.data after.data staged.parity after.parity))

/-- R158: one inverted bit of a clean word, data or check, is corrected and the word's bytes read as written; two
different ones make it uncorrectable; no other word changes. -/
def Obligations.UpsetWordsDecode : Prop :=
  ∀ (m : Memory) (w p q : Nat), m.wf = true → m.errAt w = WordErr.clean → p < 72 → q < 72 →
    ((m.flip w p).errAt w).outcome = .corrected ∧
    (∀ j, j < 8 → (m.flip w p).delivered (8 * w + j) = m.byteAt (8 * w + j)) ∧
    (p ≠ q → (((m.flip w p).flip w q).errAt w).outcome = .uncorrectable) ∧
    (∀ v, v ≠ w → (m.flip w p).errAt v = m.errAt v ∧
      ∀ j, j < 8 → (m.flip w p).byteAt (8 * v + j) = m.byteAt (8 * v + j))

/-- R18, R19, R132, R159, R160, R165: a drain read of clean words puts the stored bytes at their place in the transfer,
which is whole when no read is left; an uncorrectable unit delivers the fill value, its span held, its error
counted and the unit once in the tally of its block, which is marked for retirement at 4 units; a read whose reader has gone
is discarded, its errors counted; without a granted drain read the command does nothing. That the units of a
discarded read join no tally is the model's reading (log 11, DEDUCED, unsafe). -/
def Obligations.DrainReads : Prop :=
  (∀ s : State,
     (∀ us, (∀ a n q l, s.port.granted ≠ some (.drain a n q l)) → exec (.drainReadComplete us) s = .next s) ∧
     (∀ a n q, s.port.granted = some (.drain a n q false) → a + n ≤ 17179869184 →
       let free : State := { s with port := { s.port with granted := none } }
       ((∀ p, a ≤ p → p < a + n → s.mem.errAt (p / 8) = WordErr.clean) →
         exec (.drainReadComplete []) s = .next free.settle) ∧
       (n = 64 → a % 64 = 0 → s.mem.unitOutcome a 64 (a / 64) = .uncorrectable →
         exec (.drainReadComplete []) s = .next (free.countUncorrectable .capture a).settle)) ∧
     (∀ addr len pos e r d rest, s.port.granted = some (.drain addr len pos true) →
       addr + len ≤ 17179869184 → (∀ a, addr ≤ a → a < addr + len → s.mem.errAt (a / 8) = WordErr.clean) →
       s.link.sending = some e → e.xfer.tally = [] → s.link.replay = some r → s.integ.replay.arming = none →
       r.todo = d :: rest → r.ready = false → r.ranges = none → r.bytes.length = r.len →
       r.off ≤ 64 + pos → 64 + pos + len ≤ r.off + r.len → pos + len ≤ e.body.payload →
       e.body.payload + 136 ≤ e.size → r.off + r.len ≤ e.size → e.body.width.bytes ∣ len →
       ∃ (t : State) (r' : Replay), exec (.drainReadComplete []) s = .next t ∧ t.link.replay = some r' ∧
         r'.off = r.off ∧ r'.len = r.len ∧ r'.held = r.held ∧
         (rest ≠ [] → r'.ready = false ∧ r'.todo = rest) ∧
         (rest = [] → r'.ready = true ∧ r'.bytes = e.sealedBytes { r with
           bytes := r.bytes.take (64 + pos - r.off) ++ ((List.range len).map fun q => s.mem.byteAt (addr + q)) ++
             r.bytes.drop (64 + pos - r.off + len) }) ∧
         (∀ j, j < len → r'.bytes[64 + pos - r.off + j]? = some (s.mem.byteAt (addr + j))) ∧
         t.streams = s.streams ∧ t.integ = s.integ ∧ t.mem = s.mem ∧ t.place = s.place ∧
         t.link.commit = s.link.commit)) ∧
  (∀ (addr pos : Nat) (e : CommitEntry) (r : Replay) (d : DrainRead) (rest : List DrainRead) (s : State),
     let w := e.body.width
     s.port.granted = some (.drain addr 64 pos true) → addr % 64 = 0 → addr + 64 ≤ 17179869184 →
     s.mem.unitOutcome addr 64 (addr / 64) = .uncorrectable →
     s.link.sending = some e → s.link.replay = some r → r.todo = d :: rest → rest ≠ [] →
     r.held = [] → r.off ≤ 64 + pos → 64 + pos + 64 ≤ r.off + r.bytes.length →
     let x := s.stream e.stream
     let block := addr / 262144
     let tally := if (block, addr / 64) ∈ e.xfer.tally then e.xfer.tally
       else e.xfer.tally ++ [(block, addr / 64)]
     let full := 4 ≤ (tally.filter fun p => decide (p.1 = block)).length
     let marked := x.capture.map fun f => if f.block = block then { f with retire := true } else f
     ∃ (t : State) (r' : Replay) (e' : CommitEntry), exec (.drainReadComplete []) s = .next t ∧
       t.link.replay = some r' ∧ r'.held = [⟨pos / w.bytes, 64 / w.bytes⟩] ∧
       slice r'.bytes (64 + pos - r.off) 64 =
         (List.replicate (64 / w.bytes) (leBytes w.bytes x.cfg.fillValue)).flatten ∧
       t.link.sending = some e' ∧ e'.xfer.tally = tally ∧
       t.stream e.stream = { x with capture := if full then marked else x.capture } ∧
       (∀ j, j ≠ e.stream → t.stream j = s.stream j) ∧
       t.integ.capture.uncorrectable = min 255 (s.integ.capture.uncorrectable + 1) ∧
       (s.integ.capture.mode = .last ∨ s.integ.capture.uncorrAddr = none →
         t.integ.capture.uncorrAddr = some addr) ∧
       t.notices.device.memory = min 65535 (s.notices.device.memory + 1))

/-- R14, R19, R23, R24, R159, R161: the preview read that delivers the last samples of a span, from clean words, completes
the PREVIEW: its reply carries every sample in order, its pins are removed and the release scan runs for its stream; the
samples of an uncorrectable or poison unit are the fill value and replaced, the former counted; a read that leaves
samples of its block keeps the PREVIEW in flight, and where those still stand in staging they are read at once; a read
whose reader has gone is discarded, its errors counted (log 11); without a granted preview read the command does
nothing. -/
def Obligations.PreviewReadsComplete : Prop :=
  ∀ s : State,
    (∀ us, (∀ a n l, s.port.granted ≠ some (.preview a n l)) → exec (.previewReadComplete us) s = .next s) ∧
    (∀ a n, s.port.granted = some (.preview a n false) → a + n ≤ 17179869184 →
      let free : State := { s with port := { s.port with granted := none } }
      ((∀ p, a ≤ p → p < a + n → s.mem.errAt (p / 8) = WordErr.clean) →
        exec (.previewReadComplete []) s = .next free.settle) ∧
      (n = 64 → a % 64 = 0 → s.mem.unitOutcome a 64 (a / 64) = .uncorrectable →
        exec (.previewReadComplete []) s = .next (free.countUncorrectable .capture a).settle)) ∧
    (∀ addr len p b j n, s.port.granted = some (.preview addr len true) → addr + len ≤ 17179869184 →
      (∀ a, addr ≤ a → a < addr + len → s.mem.errAt (a / 8) = WordErr.clean) →
      s.preview = some p → p.segs = [.held b j n] →
      let bytes := (List.range len).map fun q => s.mem.byteAt (addr + q)
      let unpinned : State := s.setStream p.stream { s.stream p.stream with
        capture := (s.stream p.stream).capture.map fun e =>
          if e.block ∈ p.pinned then { e with pins := e.pins - 1 } else e }
      (len = n * p.width.bytes →
        ∃ t : State, exec (.previewReadComplete []) s = .next t ∧ t.preview = none ∧ t.mem = s.mem ∧
          t.streams = (unpinned.releaseScan p.stream false).streams ∧
          t.notices.device.memory = (unpinned.releaseScan p.stream false).notices.device.memory ∧
          t.ctl = (s.replied 0x0C#8 p.tag 0#8
            ([BitVec.ofNat 8 p.stream.num, BitVec.ofNat 8 p.k, BitVec.ofNat 8 p.width.code, 0#8] ++
             leBytes 6 p.first ++ zeros 2 ++ leBytes 2 ((p.data.length + len) / p.width.bytes) ++
             leBytes 2 p.replaced ++ zeros 12 ++ p.data ++ bytes)).ctl) ∧
      (∀ m, len = m * p.width.bytes → m < n → (s.stream p.stream).writer.filling ≠ some b →
        ∃ t : State, exec (.previewReadComplete []) s = .next t ∧ t.mem = s.mem ∧ t.ctl = s.ctl ∧
          t.preview = some { p with segs := [.held b (j + m) (n - m)], data := p.data ++ bytes }) ∧
      (∀ m, len = m * p.width.bytes → m < n → (s.stream p.stream).cfg.width = p.width →
        let wr := (s.stream p.stream).writer
        wr.filling = some b → wr.awaiting = [] → wr.fillOffset = (j + m) * p.width.bytes →
        (n - m) * p.width.bytes ≤ wr.fillBuf.count → wr.fillBuf.count ≤ wr.fillBuf.data.length →
        (∀ v, parityOf (slice wr.fillBuf.data (8 * v) 8) = wr.fillBuf.parity.getD v false) →
        ∃ t : State, exec (.previewReadComplete []) s = .next t ∧ t.preview = none ∧ t.integ.staging = s.integ.staging ∧
          t.streams = (unpinned.releaseScan p.stream false).streams ∧
          t.ctl = (s.replied 0x0C#8 p.tag 0#8
            ([BitVec.ofNat 8 p.stream.num, BitVec.ofNat 8 p.k, BitVec.ofNat 8 p.width.code, 0#8] ++
             leBytes 6 p.first ++ zeros 2 ++
             leBytes 2 ((p.data.length + n * p.width.bytes) / p.width.bytes) ++
             leBytes 2 p.replaced ++ zeros 12 ++ p.data ++ bytes ++
             wr.fillBuf.data.take ((n - m) * p.width.bytes))).ctl)) ∧
    (∀ addr p b j n, s.port.granted = some (.preview addr 64 true) → addr + 64 ≤ 17179869184 → addr % 64 = 0 →
      s.preview = some p → p.segs = [.held b j n] → 64 = n * p.width.bytes →
      let outcome := s.mem.unitOutcome addr 64 (addr / 64)
      outcome = .uncorrectable ∨ outcome = .poison →
      ∃ t : State, exec (.previewReadComplete []) s = .next t ∧ t.preview = none ∧ t.mem = s.mem ∧
        t.integ.capture.uncorrectable =
          (if outcome = .uncorrectable then min 255 (s.integ.capture.uncorrectable + 1)
           else s.integ.capture.uncorrectable) ∧
        t.ctl = (s.replied 0x0C#8 p.tag 0#8
          ([BitVec.ofNat 8 p.stream.num, BitVec.ofNat 8 p.k, BitVec.ofNat 8 p.width.code, 0#8] ++
           leBytes 6 p.first ++ zeros 2 ++ leBytes 2 ((p.data.length + 64) / p.width.bytes) ++
           leBytes 2 (p.replaced + n) ++ zeros 12 ++ p.data ++
           (List.replicate n (leBytes p.width.bytes (s.stream p.stream).cfg.fillValue)).flatten)).ctl)

/-- R14, R15: the release scan takes from the head of a capture list the entries that are DRAINED, wholly below
the commit index and not pinned, up to the first that is not; a marked block is retired, raising
MEMORY, and any other goes to the top of the spare list. -/
def Obligations.TheReleaseScanFreesTheHead : Prop :=
  ∀ (i : StreamId) (gone kept : List Entry) (s : State),
    let x := s.stream i
    let free (e : Entry) := e.st = .drained ∧ e.first + e.kept * 2 ^ e.k ≤ x.commitIndex ∧ e.pins = 0
    x.capture = gone ++ kept → (∀ e ∈ gone, free e) → (∀ e rest, kept = e :: rest → ¬ free e) →
    s.notices.device.memory ≤ 65535 →
    let marked := gone.filter fun e => e.retire
    let plain := gone.filter fun e => !e.retire
    s.releaseScan i false = { s.setStream i { x with
        capture := kept,
        spare := (plain.map (·.block)).reverse ++ x.spare,
        retired := (marked.map (·.block)).reverse ++ x.retired } with
      notices := { s.notices with device := { s.notices.device with
        memory := min 65535 (s.notices.device.memory + marked.length) } } }

/-! ### Records, the cutter and the archive windows (chapters 3, 5, 6 and 11) -/

/-- R49, R50, R84, R85, R133, R205, section 11.1: a timestamp is the epoch plus the whole picoseconds of the index's
intervals, held at 2^64 − 1 with TIME_SATURATED when it lies above; a DATA record's size is the first multiple of 512 that
holds header, payload and trailer, any other's is 512; the bytes of the header and of the bodies of OPEN, GAP, MARK and
CLOSE lie where section 11.1 puts them, the rest zero; the last transfer of a DATA record ends with the trailer: span count,
DAMAGE_OVERFLOW, eight span slots and the CRC-32 over all before it,
and its payload bytes stay as read. -/
def Obligations.RecordBytes : Prop :=
  ((∀ (x : Machine.Stream) (n : Nat) (cont : Bool),
     let exact := x.epoch + n * (x.cfg.intervalInt * 2 ^ 24 + x.cfg.intervalFrac) / 2 ^ 24
     (x.header n cont).stamp = min (2 ^ 64 - 1) exact ∧ ((x.header n cont).saturated = true ↔ 2 ^ 64 - 1 < exact) ∧
     (x.header n cont).index = n ∧ (x.header n cont).runId = x.runId ∧ (x.header n cont).continuation = cont ∧
     ∀ m, n ≤ m → (x.header n cont).stamp ≤ (x.header m cont).stamp) ∧
   (∀ first k kept w runs, let b : RecBody := .dataRec first k kept w runs
     b.size % 512 = 0 ∧ 64 + kept * w.bytes + 72 ≤ b.size ∧ b.size < 64 + kept * w.bytes + 72 + 512) ∧
   (∀ b : RecBody, b.isData = false → b.size = 512)) ∧
  (∀ e : CommitEntry,
     e.headerBytes.length = 64 ∧ e.headerBytes.take 2 = [0x5A#8, 0xC3#8] ∧
     slice e.headerBytes 2 2 = [BitVec.ofNat 8 e.body.kindCode, BitVec.ofNat 8 e.stream.num] ∧
     slice e.headerBytes 4 4 = leBytes 4 e.header.runId ∧ slice e.headerBytes 8 8 = leBytes 8 e.seq ∧
     slice e.headerBytes 16 6 = leBytes 6 e.header.index ∧
     slice e.headerBytes 22 2 = [match e.header.saturated, e.header.continuation with
       | false, false => 0#8 | true, false => 1#8 | false, true => 2#8 | true, true => 3#8, 0#8] ∧
     slice e.headerBytes 24 8 = leBytes 8 e.header.stamp ∧ slice e.headerBytes 32 4 = leBytes 4 e.size ∧
     slice e.headerBytes 36 4 = leBytes 4 e.body.payload ∧
     (∀ first k kept w runs, e.body = .dataRec first k kept w runs →
       slice e.headerBytes 40 8 =
         [BitVec.ofNat 8 k, (match w with | .w8 => 8#8 | .w16 => 16#8), 0#8, 0#8] ++ leBytes 4 kept) ∧
     (e.body.isData = true → slice e.headerBytes 48 16 = zeros 16) ∧
     (e.body.isData = false → slice e.headerBytes 40 24 = zeros 24 ∧ e.bodyBytes.length = 376) ∧
     (∀ start epoch whole frac w kmin kmax p,
       e.body = .openRec start epoch whole frac w kmin kmax p → e.bodyBytes =
         leBytes 4 e.header.runId ++ leBytes 6 start ++ zeros 2 ++ leBytes 8 epoch ++ leBytes 4 whole ++
         leBytes 4 frac ++ [(match w with | .w8 => 8#8 | .w16 => 16#8), BitVec.ofNat 8 kmin, BitVec.ofNat 8 kmax,
           (match p with | .dropNew => 0#8 | .dropOld => 1#8 | .decimate => 2#8)] ++ zeros 344) ∧
     (∀ first len c k, e.body = .gapRec first len c k → e.bodyBytes =
       leBytes 6 first ++ zeros 2 ++ leBytes 6 len ++ zeros 2 ++
       [BitVec.ofNat 8 ((if c.ringFullNew then 1 else 0) + (if c.ringFullOld then 2 else 0) +
          (if c.aborted then 4 else 0)), BitVec.ofNat 8 k] ++ zeros 358) ∧
     (∀ index source lost, e.body = .markRec index source lost → e.bodyBytes =
       leBytes 6 index ++ [(match source with | .lane => 0#8 | .aux0 => 1#8 | .aux1 => 2#8 | .host => 3#8), 0#8] ++
       leBytes 2 lost ++ zeros 366) ∧
     (∀ stop reason kept covered gaps discarded, e.body = .closeRec stop reason kept covered gaps discarded →
       e.bodyBytes = leBytes 6 stop ++ [(match reason with
           | .noReason => 0#8 | .hostStop => 1#8 | .length => 2#8 | .abort => 3#8 | .powerFail => 4#8), 0#8] ++ leBytes 6 kept ++ zeros 2 ++ leBytes 6 covered ++ zeros 2 ++
         leBytes 6 gaps ++ zeros 2 ++ leBytes 2 discarded ++ zeros 342)) ∧
  (∀ (e : CommitEntry) (r : Replay), e.body.isData = true → r.off + r.len = e.size → r.bytes.length = r.len →
     72 ≤ r.len → 64 + e.body.payload + 72 ≤ e.size →
     let total := addSpans r.held e.xfer.spans e.xfer.overflow
     let bytes := (e.finish r).bytes
     total.1.length ≤ 8 →
     bytes.length = r.len ∧
     slice bytes (r.len - 72) 4 =
       [BitVec.ofNat 8 total.1.length, if total.2 then 1#8 else 0#8, 0#8, 0#8] ∧
     (∀ j, j < 8 → slice bytes (r.len - 68 + 8 * j) 8 = match total.1[j]? with
       | some p => leBytes 4 p.off ++ leBytes 4 p.count
       | none => zeros 8) ∧
     slice bytes (r.len - 4) 4 = leBytes 4 (~~~ crc32Over e.xfer.crc (bytes.take (r.len - 4))).toNat ∧
     (∀ q, q < r.len - 72 → e.isPayload (r.off + q) = true → bytes.getD q 0#8 = r.bytes.getD q 0#8) ∧
     (r.ranges = none → ∀ q, q < r.len - 72 → 64 + e.body.payload ≤ r.off + q → bytes.getD q 0#8 = 0#8))

/-- R78, R87, R90 to R93, R103: the next record of a stream, case by case in the rule's order; the DATA record of case 5
ends at the first of the limits of R91, the extent at most 262,144 bytes in the power-fail condition, and is cut
when every sample to there lies in FULL or DRAINING entries; the stream chosen is ready, no ready stream with
capacity has a higher fill fraction, and of equal fractions the lower number is chosen. That the end index closes the
account too (R101) is the model's reading (log 8). -/
def Obligations.NextRecordAndStream : Prop :=
  (∀ (x : Machine.Stream) (pf : Bool),
     let c := x.cutter
     let early := ∃ m rest, x.markers = m :: rest ∧ m.index < c.cutIndex
     let tail := ∃ g, c.tailGap = some g ∧ g.first = c.cutIndex
     let done := x.writer.mode = .stopped ∧ c.tailGap = none ∧
       ((∀ e ∈ x.capture, ¬ (e.first - gapLen e.gap ≤ c.cutIndex ∧ c.cutIndex < e.first + e.kept * 2 ^ e.k)) ∨
         x.endIndex ≤ c.cutIndex)
     (x.phase ≠ .running → x.phase ≠ .closing → x.next pf = none) ∧
     (x.phase = .running ∨ x.phase = .closing →
       (c.openDue = true → x.next pf = some .openNext) ∧
       (c.openDue = false →
         (∀ m rest, x.markers = m :: rest → m.index < c.cutIndex → x.next pf = some (.markNext m)) ∧
         (¬ early →
           (∀ g, c.tailGap = some g → g.first = c.cutIndex → x.next pf = some (.tailNext g)) ∧
           (¬ tail →
             (done →
               (∀ m rest, x.markers = m :: rest → x.next pf = some (.markNext m)) ∧
               (x.markers = [] → c.closeCut = false → x.next pf = some .closeNext) ∧
               (x.markers = [] → c.closeCut = true → x.next pf = none)) ∧
             (¬ done →
               (∀ before e after, x.capture = before ++ e :: after →
                 e.first - gapLen e.gap ≤ c.cutIndex → c.cutIndex < e.first →
                 (∀ f ∈ before, ¬ (f.first - gapLen f.gap ≤ c.cutIndex ∧ c.cutIndex < f.first)) →
                 x.next pf = some (.gapNext e)) ∧
               ((∀ e ∈ x.capture, ¬ (e.first - gapLen e.gap ≤ c.cutIndex ∧ c.cutIndex < e.first)) →
                 x.next pf = (x.dataPlan pf).map .dataNext))))))) ∧
  (∀ s : State,
     let ready (i : StreamId) : Prop := (s.stream i).drain = .flowing ∧ ((s.stream i).next s.powerFail).isSome
     let fill (i : StreamId) : Nat := (s.stream i).capture.length
     let cap (i : StreamId) : Nat := (s.stream i).cfg.count - (s.stream i).retired.length
     (s.chooseStream = none ↔ ∀ i, ¬ ready i) ∧
     ∀ i, s.chooseStream = some i →
       ready i ∧ ∀ j, ready j → 0 < cap j →
         0 < cap i ∧ fill j * cap i ≤ fill i * cap j ∧ (fill j * cap i = fill i * cap j → i.num ≤ j.num)) ∧
  (∀ (x : Machine.Stream) (pf : Bool),
     let f := x.cutter.cutIndex
     let stopOf (e : Entry) : Nat := e.first + e.kept * 2 ^ e.k
     let endOf (l : List Entry) : Nat := match l.getLast? with | none => 0 | some e => stopOf e
     ((∀ e ∈ x.capture, ¬ (e.first ≤ f ∧ f < stopOf e)) → x.dataPlan pf = none) ∧
     (∀ before e rest, x.capture = before ++ e :: rest → e.first ≤ f → f < stopOf e →
       (∀ g ∈ before, ¬ (g.first ≤ f ∧ f < stopOf g)) →
       let joins (g : Entry) : Bool := decide (g.k = e.k ∧ g.gap = none)
       let chain := e :: rest.takeWhile joins
       let whole := chain.takeWhile fun g => decide (g.st = .full ∨ g.st = .draining)
       let extent := if pf then min x.cfg.extent 262144 else x.cfg.extent
       let points := x.markers.map fun m => (m.index + (2 ^ e.k - 1)) / 2 ^ e.k * 2 ^ e.k
       let limits : List Nat :=
         [f + extent / x.cfg.width.bytes * 2 ^ e.k] ++
         (if rest.dropWhile joins = [] then [] else [endOf chain]) ++
         (if x.cfg.cutOnMark then (points.find? fun p => decide (f < p)).toList else []) ++
         (if x.phase = .closing ∧ x.writer.mode = .stopped then [endOf x.capture] else [])
       (e.st ≠ .full → e.st ≠ .draining → x.dataPlan pf = none) ∧
       (e.st = .full ∨ e.st = .draining → ∀ stop ∈ limits, (∀ l ∈ limits, stop ≤ l) →
         (stop ≤ endOf whole → x.dataPlan pf = some ⟨e.k, stop⟩) ∧
         (endOf whole < stop → x.dataPlan pf = none))))

/-- R84, R89, R95, R96 to R101: what the record of each kind carries, and what its cut leaves of the stream but
for the sequence number. A DATA record's source is one run for each entry it takes samples from, in order, from the first
sample taken in that entry's block; that nothing bounds their number is the model's choice (log 35). -/
def Obligations.RecordsCarryTheirAccount : Prop :=
  ∀ x : Machine.Stream,
    let c := x.cutter
    (x.cutOf .openNext = ⟨x.header x.startIndex false,
      .openRec x.startIndex x.epoch x.cfg.intervalInt x.cfg.intervalFrac x.cfg.width x.cfg.kmin x.cfg.kmax
        x.cfg.policy, x.startIndex, { x with cutter := { c with openDue := false } }⟩) ∧
    (∀ m rest, x.markers = m :: rest → x.cutOf (.markNext m) =
      ⟨x.header m.index false, .markRec m.index m.source m.lost, c.cutIndex, { x with markers := rest }⟩) ∧
    (∀ g, x.cutOf (.tailNext g) =
      ⟨x.header g.first false, .gapRec g.first (g.stop - g.first) g.causes g.k, g.stop,
        { x with cutter := { c with
          tailGap := none, cutIndex := g.stop, gapTotal := c.gapTotal + (g.stop - g.first) } }⟩) ∧
    (∀ e g, e.gap = some g → x.cutOf (.gapNext e) =
      ⟨x.header c.cutIndex false, .gapRec c.cutIndex (e.first - c.cutIndex) g.causes e.k, e.first,
        { x with cutter := { c with
          cutIndex := e.first, gapTotal := c.gapTotal + (e.first - c.cutIndex) } }⟩) ∧
    (∀ stop k, let n := (stop - c.cutIndex) / 2 ^ k
      let takes (e : Entry) := e.first < stop ∧ c.cutIndex < e.first + e.kept * 2 ^ e.k
      x.cutOf (.dataNext ⟨k, stop⟩) =
        ⟨x.header c.cutIndex (decide (c.lastData = some ⟨c.cutIndex, k⟩)),
          .dataRec c.cutIndex k n x.cfg.width (sourceRuns x.cfg.width c.cutIndex stop x.capture), stop,
          { x with
            capture := x.capture.map fun e => if takes e then
                { e with st := if e.first + e.kept * 2 ^ e.k ≤ stop then .drained else .draining }
              else e,
            cutter := { c with
              cutIndex := stop, lastData := some ⟨stop, k⟩, kept := c.kept + n,
              covered := c.covered + n * 2 ^ k } }⟩ ∧
      sourceRuns x.cfg.width c.cutIndex stop x.capture =
        (x.capture.filter fun e => decide (takes e)).map fun e =>
          let from_ := (max c.cutIndex e.first - e.first) / 2 ^ e.k
          let upto := (min stop (e.first + e.kept * 2 ^ e.k) - e.first) / 2 ^ e.k
          ⟨e.block, from_ * x.cfg.width.bytes, (upto - from_) * x.cfg.width.bytes⟩) ∧
    (let d := min 65535 (c.discarded + x.lost)
     x.cutOf .closeNext = ⟨x.header x.endIndex false,
      .closeRec x.endIndex x.closeReason c.kept c.covered c.gapTotal d, x.endIndex,
      { x with lost := 0, cutter := { c with closeCut := true, discarded := d } }⟩)

/-- R83, R104, R111, R113: a cut places the chosen stream's record in the current window and claims the tail of
the commit list for it, READY, with placements made 1 and the next sequence number; with no window the
device is STARVED and nothing of any stream changes; without a free entry, STARVED, or with no stream ready
no cut is tried. -/
def Obligations.CutsClaimAnEntry : Prop :=
  ∀ s : State,
    (8 ≤ s.link.commit.length ∨ s.place.starved = true ∨ s.chooseStream = none → exec .cut s = .next s) ∧
    (∀ i n, s.link.commit.length < 8 → s.place.starved = false → s.chooseStream = some i →
      (s.stream i).next s.powerFail = some n → s.place.abandoned < 2 ^ 48 →
      let r := (s.stream i).cutOf n
      (s.place.windows = [] → ∃ t : State, exec .cut s = .next t ∧ t.place.starved = true ∧
        t.streams = s.streams ∧ t.link = s.link ∧
        t.notices.device.windowEmpty = min 65535 (s.notices.device.windowEmpty + 1)) ∧
      (∀ w rest, s.place.windows = w :: rest → r.body.size ≤ w.length - w.next →
        ∃ t : State, exec .cut s = .next t ∧
          t.place.windows = (if w.length - w.next = r.body.size then rest
            else { w with next := w.next + r.body.size } :: rest) ∧
          t.place.abandoned = s.place.abandoned ∧ t.place.starved = false ∧
          t.stream i = { r.after with cutter := { r.after.cutter with
            nextSeq := r.after.cutter.nextSeq + 1 } } ∧
          (∀ j, j ≠ i → t.stream j = s.stream j) ∧ t.mem = s.mem ∧ t.ctl = s.ctl ∧
          let e : CommitEntry := {
            stream := i, seq := r.after.cutter.nextSeq, header := r.header, body := r.body, covEnd := r.covEnd,
            size := r.body.size, addr := some (w.start + w.next), st := .ready, placements := 1,
            xfer := ⟨0, false, 0, [], false, 0xFFFFFFFF#32, []⟩,
            cause := none, code := none, timer := none }
          t.link.commit = (Link.selectSending { s.link with commit := s.link.commit ++ [e] }).commit))

/-- R108, R111 to R113, R118, R119: a placement request is served from the current window, after the retirement of one
that is too small; with none left the device enters STARVED, which raises WINDOW_EMPTY once; the end of a
gate latches the rate counter; the low state is evaluated after each. -/
def Obligations.PlacementAndRate : Prop :=
  (∀ (size : Nat) (s : State),
     let served (ab : Nat) (w : Window) (rest : List Window) : State :=
       ({ s with place := { s.place with
         abandoned := ab,
         windows := if w.length - w.next = size then rest
           else { w with next := w.next + size } :: rest } } : State).evalLow
     let empty (ab : Nat) : State :=
       let t : State := { s with place := { s.place with abandoned := ab, windows := [], starved := true } }
       (if s.place.starved then t else t.raiseDev .windowEmpty).evalLow
     let plus (w : Window) := min (2 ^ 48 - 1) (s.place.abandoned + (w.length - w.next))
     s.place.abandoned < 2 ^ 48 →
     (∀ w rest, s.place.windows = w :: rest → size ≤ w.length - w.next →
       s.placeRequest size = (served s.place.abandoned w rest, some (w.start + w.next))) ∧
     (∀ w v rest, s.place.windows = w :: v :: rest → w.length - w.next < size → size ≤ v.length - v.next →
       s.placeRequest size = (served (plus w) v rest, some (v.start + v.next))) ∧
     (∀ w, s.place.windows = [w] → w.length - w.next < size → s.placeRequest size = (empty (plus w), none)) ∧
     (s.place.windows = [] → s.placeRequest size = (empty s.place.abandoned, none))) ∧
  (∀ s : State,
     let low := decide (s.place.remaining < min (2 ^ 48 - 1) (s.place.rateCounter * s.ctl.timing.lead))
     let t : State := { s with place := { s.place with
       latchedRate := s.place.rateCounter, rateCounter := 0, low := low } }
     exec .gateEnd s = .next (if low = true ∧ s.place.low = false then t.raiseDev .windowLow else t))

/-- R114, R152: the earliest FAILED entry takes a new address, is READY with an empty transfer state and one more
placement made; while STARVED, or with no FAILED entry, nothing is asked. -/
def Obligations.RePlacementMovesTheEntry : Prop :=
  ∀ s : State,
    (s.place.starved = true ∨ (∀ e ∈ s.link.commit, e.st ≠ .failed) → exec .rePlacement s = .next s) ∧
    (∀ before e after w rest, s.place.starved = false → s.link.commit = before ++ e :: after →
      e.st = .failed → (∀ f ∈ before, f.st ≠ .failed) → s.place.windows = w :: rest →
      e.size ≤ w.length - w.next →
      ∃ t : State, exec .rePlacement s = .next t ∧ t.streams = s.streams ∧ t.mem = s.mem ∧ t.ctl = s.ctl ∧
        t.place.windows = (if w.length - w.next = e.size then rest
          else { w with next := w.next + e.size } :: rest) ∧
        let f : CommitEntry := { e with
          st := .ready, addr := some (w.start + w.next), placements := e.placements + 1,
          xfer := ⟨0, false, 0, [], false, 0xFFFFFFFF#32, []⟩ }
        t.link.commit = (Link.selectSending { s.link with commit := before ++ f :: after }).commit) ∧
    (∀ e, s.place.starved = false → e ∈ s.link.commit → e.st = .failed → s.place.windows = [] →
      ∃ t : State, exec .rePlacement s = .next t ∧ t.place.starved = true ∧ t.link = s.link ∧
        t.streams = s.streams ∧
        t.notices.device.windowEmpty = min 65535 (s.notices.device.windowEmpty + 1))

/-! ### The archive link (chapter 7) -/

/-- R131: the length of each transfer, where it begins, and the series of transfers of a whole record. -/
def Obligations.TransfersFollowTheRule : Prop :=
  ∀ e : CommitEntry,
    (e.xfer.narrow = false ∧ 4096 ≤ e.size - e.xfer.accepted → e.transferLen = 4096) ∧
    (e.xfer.narrow = true ∨ e.size - e.xfer.accepted < 4096 → e.transferLen = 512) ∧
    e.freshReplay.off = e.xfer.accepted ∧ e.freshReplay.len = e.transferLen ∧
    (∀ (s : State) r a, s.link.sending = some e → s.link.replay = some r → e.addr = some a → r.ready = true →
      r.badRanges = [] → r.off = e.xfer.accepted →
      s.sendIfClean = { s with link := { s.link with
        outstanding := some (.write (a + e.xfer.accepted) (e.readOut r)) } }) ∧
    (e.xfer.accepted = 0 → e.xfer.narrow = false → e.size % 512 = 0 →
      transferLengths (e.size + 1) e =
        List.replicate (e.size / 4096) 4096 ++ List.replicate (e.size % 4096 / 512) 512 ∧
      (transferLengths (e.size + 1) e).sum = e.size)

/-- R18, R106, R130, R132, R133, R172, R173: with the link UP and no entry SENDING the earliest READY entry is chosen; a
512-byte record without payload is built at once, its bytes those of the record with the CRC-32 over all before
it, and takes an armed flip of REPLAY in its first 64 bytes once it is built; the drain reads of a transfer fetch each payload byte of
it, in order, from its place in the source runs. -/
def Obligations.ReadyEntriesAreBuilt : Prop :=
  (∀ (l : Link) before e after, l.state = .up → (∀ f ∈ l.commit, f.st ≠ .sending) →
    l.commit = before ++ e :: after → e.st = .ready → (∀ f ∈ before, f.st ≠ .ready) →
    l.selectSending = { l with commit := before ++ { e with st := .sending } :: after }) ∧
  (∀ l : Link, l.state ≠ .up ∨ (∃ f ∈ l.commit, f.st = .sending) ∨ (∀ f ∈ l.commit, f.st ≠ .ready) →
    l.selectSending = l) ∧
  (∀ (e : CommitEntry) (s : State), s.link.state = .up → s.link.sending = some e → s.link.replay = none →
    e.body.isData = false → e.size = 512 → e.xfer = ⟨0, false, 0, [], false, 0xFFFFFFFF#32, []⟩ →
    (s.integ.replay.arming = none →
      ∃ r : Replay, s.startBuild = { s with link := { s.link with replay := some r } } ∧
        r.ready = true ∧ r.off = 0 ∧ r.len = 512 ∧ r.bytes = e.plainBytes ∧ r.parity = parityBits e.plainBytes) ∧
    (∀ g, s.integ.replay.arming = some g → g.below (if g.check then 8 else 512) →
      ∃ r : Replay, s.startBuild.link = { s.link with replay := some r } ∧
        s.startBuild.integ = { s.integ with replay := { s.integ.replay with arming := none } } ∧
        s.startBuild.notices.device.injection = min 65535 (s.notices.device.injection + 1) ∧
        r.ready = true ∧ r.off = 0 ∧ r.len = 512 ∧
        flippedBy g 0 e.plainBytes r.bytes (parityBits e.plainBytes) r.parity)) ∧
  (∀ (e : CommitEntry) (lo hi : Nat),
    let a := max lo 64 - 64
    let b := min hi (64 + e.body.payload) - 64
    e.freshReplay.todo = e.reads e.xfer.accepted (e.xfer.accepted + e.transferLen) ∧
    (∀ d ∈ e.reads lo hi, 0 < d.len ∧ a ≤ d.pos ∧ d.pos + d.len ≤ b) ∧
    (e.reads lo hi).Pairwise (fun c d => c.pos + c.len ≤ d.pos) ∧
    ∀ before r after q, e.body.runs = before ++ r :: after →
      let base := (before.map (·.bytes)).sum
      a ≤ q → q < b → base ≤ q → q < base + r.bytes →
      ∃ d ∈ e.reads lo hi, d.pos ≤ q ∧ q < d.pos + d.len ∧
        d.addr + (q - d.pos) = r.block * 262144 + r.offset + (q - base))

/-- R106, R122, R132, R135, R138, R148: WRITE_SEND sends the whole clean transfer when the link is UP, the slot free and no
query due; DURABLE_QUERY_SEND sends a query that is due; RETRY sends the same WRITE again, the fifth in a row is
a placement failure; NARROW of a 4,096-byte transfer discards it for 512-byte ones, of a 512-byte one
is a placement failure. A RETRY is sent again in the same step (the model's reading, log 25). The bytes
sent are those of the buffer as they stand, the CRC field of a last transfer agreeing with them. -/
def Obligations.SendsAndResends : Prop :=
  (∀ (e : CommitEntry) (r : Replay),
     (r.off + r.len ≠ e.size → e.readOut r = r.bytes) ∧
     (r.off + r.len = e.size → r.bytes.length = r.len → 4 ≤ r.len →
       (e.readOut r).length = r.len ∧ (∀ q, q < r.len - 4 → (e.readOut r).getD q 0#8 = r.bytes.getD q 0#8) ∧
       slice (e.readOut r) (r.len - 4) 4 =
         leBytes 4 (~~~ crc32Over e.xfer.crc ((e.readOut r).take (r.len - 4))).toNat)) ∧
  (∀ s : State,
     let idle := s.link.state ≠ .up ∨ s.link.outstanding ≠ none
     (idle ∨ s.link.sync.phase = .queryDue ∨ s.link.sending = none ∨ s.link.replay = none ∨
         (∀ r, s.link.replay = some r → r.ready = false) → exec (.writeSend []) s = .next s) ∧
     (∀ e r, ¬ idle → s.link.sync.phase ≠ .queryDue → s.link.sending = some e → s.link.replay = some r →
       r.ready = true → r.badRanges = [] →
       exec (.writeSend []) s = .next { s with link := { s.link with
         outstanding := some (.write (e.addr.getD 0 + r.off) (e.readOut r)) } }) ∧
     (idle ∨ s.link.sync.phase ≠ .queryDue → exec .durableQuerySend s = .next s) ∧
     (¬ idle → s.link.sync.phase = .queryDue → exec .durableQuerySend s = .next { s with link := { s.link with
       outstanding := some .durableQuery, sync := { s.link.sync with phase := .queryOut } } })) ∧
  (∀ s : State,
     (s.link.state ≠ .up ∨ s.link.writeOut = false →
       exec (.retry []) s = .next s ∧ exec .narrow s = .next s) ∧
     (∀ e r a, s.link.state = .up → s.link.writeOut = true → s.link.sending = some e →
       s.link.replay = some r → e.addr = some a →
       let free : State := { s with link := { s.link with outstanding := none } }
       (e.xfer.retry < 4 → r.ready = true → r.badRanges = [] → s.link.sync.phase ≠ .queryDue →
         let entry (f : CommitEntry) : CommitEntry := { f with xfer := { f.xfer with retry := f.xfer.retry + 1 } }
         let list := modifyFirst CommitEntry.isSending entry s.link.commit
         exec (.retry []) s = .next { s with link := { s.link with
           outstanding := some (.write (a + r.off) (e.readOut r)), commit := list } }) ∧
       (4 ≤ e.xfer.retry → exec (.retry []) s = .next
         (free.afterFailure CommitEntry.isSending e a .retryLimit none).settle) ∧
       (r.len = 4096 →
         let entry (f : CommitEntry) : CommitEntry := { f with xfer := { f.xfer with narrow := true, retry := 0 } }
         let list := modifyFirst CommitEntry.isSending entry s.link.commit
         exec .narrow s = .next
           ({ s with link := { s.link with outstanding := none, replay := none, commit := list } } : State).settle) ∧
       (r.len ≠ 4096 → exec .narrow s = .next
         (free.afterFailure CommitEntry.isSending e a .narrowLimit none).settle)))

/-- R136, R169: an upset in the transfer of a record without payload is found as it is read out to be sent, counted
as one REPLAY uncorrectable error, and rebuilt to the record's bytes; the rebuilt buffer is read out again to be sent, and
an upset met then holds the transfer unsent and counts again. Two flips in one word are not detected: the
transfer goes as it stands, with a CRC that agrees with it. That flips within the stored CRC field itself do not go out,
and that this further read-out is a WRITE_SEND of its own is
the model's reading (logs 25, 38). -/
def Obligations.ReplayUpsetsAreRebuilt : Prop :=
  ∀ (e : CommitEntry) (a q : Nat) (parity : Bool) (r : Replay) (s : State),
    s.link.state = .up → s.link.outstanding = none → s.link.sync.phase ≠ .queryDue →
    s.link.sending = some e → e.addr = some a → e.body.isData = false → e.size = 512 →
    e.xfer = ⟨0, false, 0, [], false, 0xFFFFFFFF#32, []⟩ →
    s.link.replay = some r →
    r = ⟨0, 512, e.plainBytes, parityBits e.plainBytes, true, [], [], none⟩ →
    q < (if parity then 64 else 4096) →
    (∀ q', parity = false → q' ≠ q → q' / 64 = q / 64 →
      let stands := flipBit (flipBit e.plainBytes 0 q) 0 q'
      exec (.writeSend [.replay false q, .replay false q']) s = .next { s with link := { s.link with
        replay := some { r with bytes := stands },
        outstanding := some (.write a (stands.take 508 ++ leBytes 4 (crc32 (stands.take 508)).toNat)) } }) ∧
    ∃ t : State, exec (.writeSend [.replay parity q]) s = .next t ∧ t.link = s.link ∧
      t.integ = (s.countUncorrectable .replay (a + q / (if parity then 8 else 512) * 64)).integ ∧
      t.notices.device.memory = min 65535 (s.notices.device.memory + 1) ∧
      t.streams = s.streams ∧ t.mem = s.mem ∧
      exec (.writeSend []) t = .next { t with link := { t.link with
        outstanding := some (.write a e.plainBytes) } } ∧
      ∀ parity' q', q' < (if parity' then 64 else 4096) →
        ∃ u : State, exec (.writeSend [.replay parity' q']) t = .next u ∧ u.link = t.link ∧
          u.notices.device.memory = min 65535 (t.notices.device.memory + 1)

/-- R121, R122, R134, R137, R162, R163, R169: ACCEPT adds the transfer to the SENDING entry: its bytes as sent to the CRC,
its length to the bytes accepted, its spans to the damage spans; the last one makes the entry AWAIT_COMMIT with its
timer running. A span that begins within or at the end of the entry's last one extends it, another is appended, and
past 8 the eighth is extended and DAMAGE_OVERFLOW set. Without an outstanding WRITE in UP the command is discarded. -/
def Obligations.AcceptAdvancesTheRecord : Prop :=
  (∀ (p : Span) (spans : List Span) (o : Bool),
    (spans = [] → addSpans [p] spans o = ([p], o)) ∧
    (∀ init q, spans = init ++ [q] →
      let longer := init ++ [{ q with count := max (q.off + q.count) (p.off + p.count) - q.off }]
      (p.off ≤ q.off + q.count → addSpans [p] spans o = (longer, o)) ∧
      (q.off + q.count < p.off → spans.length < 8 → addSpans [p] spans o = (spans ++ [p], o)) ∧
      (q.off + q.count < p.off → 8 ≤ spans.length → addSpans [p] spans o = (longer, true))) ∧
    (∀ held, addSpans (p :: held) spans o = addSpans held (addSpans [p] spans o).1 (addSpans [p] spans o).2) ∧
    (spans.length ≤ 8 → ∀ held, (addSpans held spans o).1.length ≤ 8)) ∧
  ∀ s : State,
    (s.link.state ≠ .up ∨ s.link.writeOut = false → exec .accept s = .next s) ∧
    (∀ e r a bytes, s.link.state = .up → s.link.outstanding = some (.write a bytes) →
      s.link.sending = some e → s.link.replay = some r → r.off = e.xfer.accepted →
      let total := addSpans r.held e.xfer.spans e.xfer.overflow
      let after (sent : List Byte) : Xfer := { e.xfer with
        accepted := e.xfer.accepted + r.len, retry := 0, crc := crc32Over e.xfer.crc sent,
        spans := total.1, overflow := total.2 }
      let next (f : CommitEntry) : State := { s with link := { s.link with
        outstanding := none, replay := none,
        commit := modifyFirst CommitEntry.isSending (fun _ => f) s.link.commit } }
      (e.xfer.accepted + r.len ≠ e.size → exec .accept s = .next
        (next { e with xfer := after bytes }).settle) ∧
      (e.xfer.accepted + r.len = e.size → exec .accept s = .next
        (next { e with
          xfer := after (bytes.take (r.len - 4)), st := .awaitCommit,
          timer := some s.ctl.timing.commit }).settle))

/-- R139, R151: REFUSE of an outstanding WRITE in UP is a placement failure of the SENDING entry with cause REFUSE
and the code carried: the slot is free, what was accepted stays accepted by the target, and the entry is
FAILED without an address, or STUCK at its third placement. Otherwise it is discarded. -/
def Obligations.RefuseFailsThePlacement : Prop :=
  ∀ (code : Byte) (s : State),
    (s.link.state ≠ .up ∨ s.link.writeOut = false → exec (.refuse code) s = .next s) ∧
    (∀ e a, s.link.state = .up → s.link.writeOut = true → s.link.sending = some e → e.addr = some a →
      exec (.refuse code) s = .next
        (({ s with link := { s.link with outstanding := none } } : State).afterFailure
          CommitEntry.isSending e a .refuse (some code)).settle)

/-- R153: the third placement failure of an entry makes it STUCK: it holds no address,
its stream's drain is BLOCKED, ARCHIVE_FAULT is raised for the stream, and while the drain is BLOCKED the
cutter chooses another stream or none. -/
def Obligations.ThirdFailureSticks : Prop :=
  (∀ (code : Byte) (s : State) (before : List CommitEntry) (e : CommitEntry) (after : List CommitEntry),
    s.link.state = .up → s.link.writeOut = true →
    s.link.commit = before ++ e :: after → e.st = .sending → (∀ f ∈ before, f.st ≠ .sending) →
    e.placements = 3 →
    ∃ (t : State) (f : CommitEntry), exec (.refuse code) s = .next t ∧
      t.link.commit[before.length]? = some f ∧ f.st = .stuck ∧ f.addr = none ∧
      f.stream = e.stream ∧ f.seq = e.seq ∧ f.cause = some .refuse ∧ f.code = some code ∧
      (t.stream e.stream).drain = .blocked ∧
      t.notices.streamCount e.stream .archiveFault =
        min 65535 (s.notices.streamCount e.stream .archiveFault + 1)) ∧
  (∀ (s : State) (i : StreamId), (s.stream i).drain = .blocked → s.chooseStream ≠ some i)

/-- R14, R140 to R145, R148, R151: a commit message that matches no AWAIT_COMMIT entry is counted stale, and one taken
with the link not UP is discarded; COMMITTED of an entry behind another of its stream waits for it; of the earliest of
its stream it leaves, and with it the COMMITTED ones that follow, each moving the commit index and the rate counter
and running the release scan; a SYNC that waits for no other entry goes on; CLOSE makes its stream IDLE (with the bound of
the release waived, log 8); REFUSED and the expiry of the commit timer are placement failures. -/
def Obligations.CommitMessagesAndTimeouts : Prop :=
  (∀ (address : BitVec 48) (code : Byte) (s : State),
     let a := address.toNat
     let awaits (e : CommitEntry) := e.st = .awaitCommit ∧ e.addr = some a
     (s.link.state ≠ .up → exec (.committed address) s = .next s ∧ exec (.refused address code) s = .next s) ∧
     (s.link.state = .up →
       ((∀ e ∈ s.link.commit, ¬ awaits e) →
         let t : State := { s with link := { s.link with stale := min 65535 (s.link.stale + 1) } }
         exec (.committed address) s = .next t ∧ exec (.refused address code) s = .next t) ∧
       (∀ before e after, s.link.commit = before ++ e :: after → awaits e → (∀ f ∈ before, ¬ awaits f) →
         exec (.refused address code) s = .next
           (s.afterFailure (fun f => decide (f.st = .awaitCommit ∧ f.addr = some a)) e a .refused (some code)) ∧
         (∀ f ∈ before, f.stream = e.stream → (∀ g ∈ before, g.stream = e.stream → g.st ≠ .committed) →
           s.link.sync.phase ≠ .waitLeave →
           exec (.committed address) s = .next ({ s with link := { s.link with
             commit := before ++ { e with st := .committed, timer := none } :: after } } : State).settle) ∧
         (let i := e.stream
          let list := before ++ { e with st := .committed, timer := none } :: after
          let gone := leaving i list
          let noted := s.link.sync.noted.filter fun p => !(gone.any fun f => decide (f.stream = p.1 ∧ f.seq = p.2))
          ∃ t : State, exec (.committed address) s = .next t ∧
            t.link.commit = (Link.selectSending { s.link with commit := withoutLeaving i list }).commit ∧
            t.link.sync = { s.link.sync with
              noted := noted,
              phase := if s.link.sync.phase = .waitLeave ∧ noted = [] then .queryDue else s.link.sync.phase } ∧
            (t.stream i).commitIndex =
              (match gone.getLast? with | none => (s.stream i).commitIndex | some f => f.covEnd) ∧
            (gone ≠ [] → t.place.rateCounter =
              min (2 ^ 40 - 1) (s.place.rateCounter + (gone.map (·.size)).sum)) ∧
            (gone = [] → t.place = s.place) ∧
            (∀ j, j ≠ i → t.stream j = s.stream j) ∧ t.mem = s.mem ∧
            ((∀ f ∈ gone, f.body.isClose = false) →
              t.streams = (s.scansOf i gone).streams ∧ t.preview = s.preview ∧
              t.notices.device.memory = (s.scansOf i gone).notices.device.memory) ∧
            (∀ init last, gone = init ++ [last] → (∀ f ∈ init, f.body.isClose = false) → last.body.isClose = true →
              (t.stream i).phase = .idle ∧
              t.notices.streamCount i .run = min 65535 (s.notices.streamCount i .run + 1) ∧
              (∀ p, t.preview = some p → p.stream ≠ i) ∧
              ((∀ p, s.preview = some p → p.stream ≠ i) →
                let u := s.scansOf i gone
                t.streams = ((u.setStream i { u.stream i with phase := .idle }).releaseScan i true).streams)))))) ∧
  (∀ (i : StreamId) (seq : Nat) (s : State),
     let named (e : CommitEntry) := e.stream = i ∧ e.seq = seq
     ((∀ e ∈ s.link.commit, ¬ named e) → exec (.commitTimeout i seq) s = .next s) ∧
     (∀ before e after, s.link.commit = before ++ e :: after → named e → (∀ f ∈ before, ¬ named f) →
       (e.st ≠ .awaitCommit ∨ e.timer = none → exec (.commitTimeout i seq) s = .next s) ∧
       (∀ a, e.st = .awaitCommit → e.timer ≠ none → e.addr = some a →
         exec (.commitTimeout i seq) s = .next
           (s.afterFailure (fun f => decide (f.stream = i ∧ f.seq = seq)) e a .commitTimeout none))))

/-- R121, R122, R125 to R127: a response timeout with a request outstanding, a bad frame and a loss of training fault a
link that is UP, with their cause, the fault count and an ARCHIVE_FAULT for each stream of a run; training
cycles of attempt and rest end with the reply that brings the link UP; none does anything elsewhere. -/
def Obligations.FaultsAndTraining : Prop :=
  (∀ s : State,
     (s.link.state ≠ .up →
       exec .badFrame s = .next s ∧ exec .trainingLost s = .next s ∧ exec .responseTimeout s = .next s) ∧
     (s.link.outstanding = none → exec .responseTimeout s = .next s) ∧
     (s.link.state = .up → ∃ n : Notices, s.notices.RaisedFor n .archiveFault
         (fun i => (s.stream i).phase = .running ∨ (s.stream i).phase = .closing) ∧
       let t := s.linkLost .faulted
       let faulted (c : LinkFault) : State := { t with
         notices := n,
         link := { t.link with faultCount := min 65535 (s.link.faultCount + 1), lastCause := some c } }
       exec .badFrame s = .next (faulted .badFrame) ∧ exec .trainingLost s = .next (faulted .trainingLost) ∧
       (s.link.outstanding ≠ none → exec .responseTimeout s = .next (faulted .responseTimeout))) ∧
     (s.link.state = .faulted → exec .faultWaitEnd s = .next
       { s with link := { s.link with state := .training, train := .attempt } }) ∧
     (s.link.state ≠ .faulted → exec .faultWaitEnd s = .next s)) ∧
  (∀ s : State,
     let attempt := s.link.state = .training ∧ s.link.train = .attempt
     let rest := s.link.state = .training ∧ s.link.train = .rest
     (attempt →
       exec .trainingReply s = .next ({ s with link := { s.link with state := .up } } : State).settle ∧
       exec .attemptEnd s = .next { s with link := { s.link with train := .rest } }) ∧
     (¬ attempt → exec .trainingReply s = .next s ∧ exec .attemptEnd s = .next s) ∧
     (rest → exec .restEnd s = .next { s with link := { s.link with train := .attempt } }) ∧
     (¬ rest → exec .restEnd s = .next s))

/-! ### Notices and the whole part -/

/-- The state after reset meets every law of the part. -/
def Obligations.ResetMeetsTheLaws : Prop :=
  PoolLaw State.reset ∧ DecimationLaw State.reset ∧ PlacementLaw State.reset ∧ CommitLaw State.reset ∧
  LinkLaw State.reset ∧ SlotLaw State.reset ∧ BoundsLaw State.reset ∧ PowerLaw State.reset ∧
  State.reset.mem.wf = true

/-- R4: every step keeps each pool's blocks once each in its lists. -/
def Obligations.StepsKeepThePools : Prop :=
  ∀ s t : State, PoolLaw s → step s = .next t → PoolLaw t

/-- R108, R117: every step keeps windows and the ranges of entries apart. -/
def Obligations.StepsKeepPlacements : Prop :=
  ∀ s t : State, PlacementLaw s → step s = .next t → PlacementLaw t

/-- R87, R101, R129, R146: every step keeps the commit list in order, each record once, CLOSE last. -/
def Obligations.StepsKeepTheCommitList : Prop :=
  ∀ s t : State, CommitLaw s → step s = .next t → CommitLaw t

/-- R122, R127, R130: every step keeps at most one entry SENDING, and requests and transfers to a link that is
UP. -/
def Obligations.StepsKeepTheLink : Prop :=
  ∀ s t : State, LinkLaw s → step s = .next t → LinkLaw t

/-- R178, R181, R185, R188: every step keeps the slots of the control link accounted for. -/
def Obligations.StepsKeepTheSlots : Prop :=
  ∀ s t : State, SlotLaw s → step s = .next t → SlotLaw t

/-- R27, R55, R108, R162, R164, R179, R193: every step keeps every count and list within its bound. -/
def Obligations.StepsKeepTheBounds : Prop :=
  ∀ s t : State, BoundsLaw s → step s = .next t → BoundsLaw t

/-- R39, R78, R79, R196: every step keeps k within its range, the power-fail condition with the line, POWER
enabled, and capture memory in its canonical form. -/
def Obligations.StepsKeepDecimationPowerAndMemory : Prop :=
  (∀ s t : State, DecimationLaw s → step s = .next t → DecimationLaw t) ∧
  (∀ s t : State, PowerLaw s → step s = .next t → PowerLaw t) ∧
  (∀ s t : State, s.mem.wf = true → step s = .next t → t.mem.wf = true)
end

