-- ==== Sys2Proof/Laws/State.lean ====
section
/-! SUPPORT. What each named update of the state leaves in each field: one lemma per field per update, true by
`rfl`, so that no proof unfolds a record update. -/

namespace Sys2Proof.Machine

variable (s : State)

/-! ### Streams -/

@[simp] theorem Quad.get_set_self {α : Type} (q : Quad α) (i : StreamId) (x : α) : (q.set i x).get i = x := by
  cases i <;> rfl

theorem Quad.get_set_other {α : Type} (q : Quad α) {i j : StreamId} (x : α) (h : j ≠ i) :
    (q.set i x).get j = q.get j := by
  cases i <;> cases j <;> first | rfl | exact absurd rfl h

theorem Quad.get_set {α : Type} (q : Quad α) (i j : StreamId) (x : α) :
    (q.set i x).get j = if j = i then x else q.get j := by
  split
  · next h => subst h; exact Quad.get_set_self q j x
  · next h => exact Quad.get_set_other q x h

@[simp] theorem Quad.get_same {α : Type} (x : α) (i : StreamId) : (Quad.same x).get i = x := by cases i <;> rfl

theorem Quad.set_get {α : Type} (q : Quad α) (i : StreamId) : q.set i (q.get i) = q := by cases i <;> rfl

theorem Quad.set_set {α : Type} (q : Quad α) (i : StreamId) (x y : α) : (q.set i x).set i y = q.set i y := by
  cases i <;> rfl

theorem StreamId.mem_all (i : StreamId) : i ∈ StreamId.all := by cases i <;> decide

@[simp] theorem State.setStream_stream_self (i : StreamId) (x : Stream) : (s.setStream i x).stream i = x :=
  Quad.get_set_self ..

theorem State.setStream_stream (i j : StreamId) (x : Stream) :
    (s.setStream i x).stream j = if j = i then x else s.stream j := Quad.get_set ..

theorem State.setStream_stream_other {i j : StreamId} (x : Stream) (h : j ≠ i) :
    (s.setStream i x).stream j = s.stream j := Quad.get_set_other _ _ h

@[simp] theorem State.modStream_stream_self (i : StreamId) (f : Stream → Stream) :
    (s.modStream i f).stream i = f (s.stream i) := Quad.get_set_self ..

theorem State.modStream_stream (i j : StreamId) (f : Stream → Stream) :
    (s.modStream i f).stream j = if j = i then f (s.stream i) else s.stream j := Quad.get_set ..

theorem State.modStream_stream_other {i j : StreamId} (f : Stream → Stream) (h : j ≠ i) :
    (s.modStream i f).stream j = s.stream j := Quad.get_set_other _ _ h

theorem State.setStream_self (i : StreamId) : s.setStream i (s.stream i) = s := by
  show State.mk .. = _
  rw [show (s.stream i) = s.streams.get i from rfl, Quad.set_get]

theorem State.setStream_setStream (i : StreamId) (x y : Stream) :
    (s.setStream i x).setStream i y = s.setStream i y := by
  show State.mk .. = State.mk ..
  rw [show (s.setStream i x).streams = s.streams.set i x from rfl, Quad.set_set]
  rfl

@[simp] theorem Integrity.get_set_self (g : Integrity) (m : MemId) (x : MemMon) : (g.set m x).get m = x := by
  cases m <;> rfl

theorem Integrity.get_set_other (g : Integrity) {m n : MemId} (x : MemMon) (h : n ≠ m) :
    (g.set m x).get n = g.get n := by
  cases m <;> cases n <;> first | rfl | exact absurd rfl h


/-! ### setStream -/

@[simp] theorem State.setStream_pending (i : StreamId) (x : Stream) : (s.setStream i x).pending = s.pending := rfl
@[simp] theorem State.setStream_mem (i : StreamId) (x : Stream) : (s.setStream i x).mem = s.mem := rfl
@[simp] theorem State.setStream_port (i : StreamId) (x : Stream) : (s.setStream i x).port = s.port := rfl
@[simp] theorem State.setStream_preview (i : StreamId) (x : Stream) : (s.setStream i x).preview = s.preview := rfl
@[simp] theorem State.setStream_streams (i : StreamId) (x : Stream) : (s.setStream i x).streams = s.streams.set i x := rfl
@[simp] theorem State.setStream_routes (i : StreamId) (x : Stream) : (s.setStream i x).routes = s.routes := rfl
@[simp] theorem State.setStream_pfail (i : StreamId) (x : Stream) : (s.setStream i x).pfail = s.pfail := rfl
@[simp] theorem State.setStream_powerFail (i : StreamId) (x : Stream) : (s.setStream i x).powerFail = s.powerFail := rfl
@[simp] theorem State.setStream_place (i : StreamId) (x : Stream) : (s.setStream i x).place = s.place := rfl
@[simp] theorem State.setStream_link (i : StreamId) (x : Stream) : (s.setStream i x).link = s.link := rfl
@[simp] theorem State.setStream_integ (i : StreamId) (x : Stream) : (s.setStream i x).integ = s.integ := rfl
@[simp] theorem State.setStream_ctl (i : StreamId) (x : Stream) : (s.setStream i x).ctl = s.ctl := rfl
@[simp] theorem State.setStream_notices (i : StreamId) (x : Stream) : (s.setStream i x).notices = s.notices := rfl

/-! ### modStream -/

@[simp] theorem State.modStream_pending (i : StreamId) (f : Stream → Stream) : (s.modStream i f).pending = s.pending := rfl
@[simp] theorem State.modStream_mem (i : StreamId) (f : Stream → Stream) : (s.modStream i f).mem = s.mem := rfl
@[simp] theorem State.modStream_port (i : StreamId) (f : Stream → Stream) : (s.modStream i f).port = s.port := rfl
@[simp] theorem State.modStream_preview (i : StreamId) (f : Stream → Stream) : (s.modStream i f).preview = s.preview := rfl
@[simp] theorem State.modStream_streams (i : StreamId) (f : Stream → Stream) : (s.modStream i f).streams = s.streams.set i (f (s.stream i)) := rfl
@[simp] theorem State.modStream_routes (i : StreamId) (f : Stream → Stream) : (s.modStream i f).routes = s.routes := rfl
@[simp] theorem State.modStream_pfail (i : StreamId) (f : Stream → Stream) : (s.modStream i f).pfail = s.pfail := rfl
@[simp] theorem State.modStream_powerFail (i : StreamId) (f : Stream → Stream) : (s.modStream i f).powerFail = s.powerFail := rfl
@[simp] theorem State.modStream_place (i : StreamId) (f : Stream → Stream) : (s.modStream i f).place = s.place := rfl
@[simp] theorem State.modStream_link (i : StreamId) (f : Stream → Stream) : (s.modStream i f).link = s.link := rfl
@[simp] theorem State.modStream_integ (i : StreamId) (f : Stream → Stream) : (s.modStream i f).integ = s.integ := rfl
@[simp] theorem State.modStream_ctl (i : StreamId) (f : Stream → Stream) : (s.modStream i f).ctl = s.ctl := rfl
@[simp] theorem State.modStream_notices (i : StreamId) (f : Stream → Stream) : (s.modStream i f).notices = s.notices := rfl

/-! ### modWriter -/

@[simp] theorem State.modWriter_pending (i : StreamId) (f : Writer → Writer) : (s.modWriter i f).pending = s.pending := rfl
@[simp] theorem State.modWriter_mem (i : StreamId) (f : Writer → Writer) : (s.modWriter i f).mem = s.mem := rfl
@[simp] theorem State.modWriter_port (i : StreamId) (f : Writer → Writer) : (s.modWriter i f).port = s.port := rfl
@[simp] theorem State.modWriter_preview (i : StreamId) (f : Writer → Writer) : (s.modWriter i f).preview = s.preview := rfl
@[simp] theorem State.modWriter_routes (i : StreamId) (f : Writer → Writer) : (s.modWriter i f).routes = s.routes := rfl
@[simp] theorem State.modWriter_pfail (i : StreamId) (f : Writer → Writer) : (s.modWriter i f).pfail = s.pfail := rfl
@[simp] theorem State.modWriter_powerFail (i : StreamId) (f : Writer → Writer) : (s.modWriter i f).powerFail = s.powerFail := rfl
@[simp] theorem State.modWriter_place (i : StreamId) (f : Writer → Writer) : (s.modWriter i f).place = s.place := rfl
@[simp] theorem State.modWriter_link (i : StreamId) (f : Writer → Writer) : (s.modWriter i f).link = s.link := rfl
@[simp] theorem State.modWriter_integ (i : StreamId) (f : Writer → Writer) : (s.modWriter i f).integ = s.integ := rfl
@[simp] theorem State.modWriter_ctl (i : StreamId) (f : Writer → Writer) : (s.modWriter i f).ctl = s.ctl := rfl
@[simp] theorem State.modWriter_notices (i : StreamId) (f : Writer → Writer) : (s.modWriter i f).notices = s.notices := rfl

/-! ### modCutter -/

@[simp] theorem State.modCutter_pending (i : StreamId) (f : Cutter → Cutter) : (s.modCutter i f).pending = s.pending := rfl
@[simp] theorem State.modCutter_mem (i : StreamId) (f : Cutter → Cutter) : (s.modCutter i f).mem = s.mem := rfl
@[simp] theorem State.modCutter_port (i : StreamId) (f : Cutter → Cutter) : (s.modCutter i f).port = s.port := rfl
@[simp] theorem State.modCutter_preview (i : StreamId) (f : Cutter → Cutter) : (s.modCutter i f).preview = s.preview := rfl
@[simp] theorem State.modCutter_routes (i : StreamId) (f : Cutter → Cutter) : (s.modCutter i f).routes = s.routes := rfl
@[simp] theorem State.modCutter_pfail (i : StreamId) (f : Cutter → Cutter) : (s.modCutter i f).pfail = s.pfail := rfl
@[simp] theorem State.modCutter_powerFail (i : StreamId) (f : Cutter → Cutter) : (s.modCutter i f).powerFail = s.powerFail := rfl
@[simp] theorem State.modCutter_place (i : StreamId) (f : Cutter → Cutter) : (s.modCutter i f).place = s.place := rfl
@[simp] theorem State.modCutter_link (i : StreamId) (f : Cutter → Cutter) : (s.modCutter i f).link = s.link := rfl
@[simp] theorem State.modCutter_integ (i : StreamId) (f : Cutter → Cutter) : (s.modCutter i f).integ = s.integ := rfl
@[simp] theorem State.modCutter_ctl (i : StreamId) (f : Cutter → Cutter) : (s.modCutter i f).ctl = s.ctl := rfl
@[simp] theorem State.modCutter_notices (i : StreamId) (f : Cutter → Cutter) : (s.modCutter i f).notices = s.notices := rfl

/-! ### modLink -/

@[simp] theorem State.modLink_pending (f : Link → Link) : (s.modLink f).pending = s.pending := rfl
@[simp] theorem State.modLink_mem (f : Link → Link) : (s.modLink f).mem = s.mem := rfl
@[simp] theorem State.modLink_port (f : Link → Link) : (s.modLink f).port = s.port := rfl
@[simp] theorem State.modLink_preview (f : Link → Link) : (s.modLink f).preview = s.preview := rfl
@[simp] theorem State.modLink_streams (f : Link → Link) : (s.modLink f).streams = s.streams := rfl
@[simp] theorem State.modLink_routes (f : Link → Link) : (s.modLink f).routes = s.routes := rfl
@[simp] theorem State.modLink_pfail (f : Link → Link) : (s.modLink f).pfail = s.pfail := rfl
@[simp] theorem State.modLink_powerFail (f : Link → Link) : (s.modLink f).powerFail = s.powerFail := rfl
@[simp] theorem State.modLink_place (f : Link → Link) : (s.modLink f).place = s.place := rfl
@[simp] theorem State.modLink_link (f : Link → Link) : (s.modLink f).link = f s.link := rfl
@[simp] theorem State.modLink_integ (f : Link → Link) : (s.modLink f).integ = s.integ := rfl
@[simp] theorem State.modLink_ctl (f : Link → Link) : (s.modLink f).ctl = s.ctl := rfl
@[simp] theorem State.modLink_notices (f : Link → Link) : (s.modLink f).notices = s.notices := rfl
@[simp] theorem State.modLink_stream (f : Link → Link) (j : StreamId) : (s.modLink f).stream j = s.stream j := rfl

/-! ### modPlace -/

@[simp] theorem State.modPlace_pending (f : Placement → Placement) : (s.modPlace f).pending = s.pending := rfl
@[simp] theorem State.modPlace_mem (f : Placement → Placement) : (s.modPlace f).mem = s.mem := rfl
@[simp] theorem State.modPlace_port (f : Placement → Placement) : (s.modPlace f).port = s.port := rfl
@[simp] theorem State.modPlace_preview (f : Placement → Placement) : (s.modPlace f).preview = s.preview := rfl
@[simp] theorem State.modPlace_streams (f : Placement → Placement) : (s.modPlace f).streams = s.streams := rfl
@[simp] theorem State.modPlace_routes (f : Placement → Placement) : (s.modPlace f).routes = s.routes := rfl
@[simp] theorem State.modPlace_pfail (f : Placement → Placement) : (s.modPlace f).pfail = s.pfail := rfl
@[simp] theorem State.modPlace_powerFail (f : Placement → Placement) : (s.modPlace f).powerFail = s.powerFail := rfl
@[simp] theorem State.modPlace_place (f : Placement → Placement) : (s.modPlace f).place = f s.place := rfl
@[simp] theorem State.modPlace_link (f : Placement → Placement) : (s.modPlace f).link = s.link := rfl
@[simp] theorem State.modPlace_integ (f : Placement → Placement) : (s.modPlace f).integ = s.integ := rfl
@[simp] theorem State.modPlace_ctl (f : Placement → Placement) : (s.modPlace f).ctl = s.ctl := rfl
@[simp] theorem State.modPlace_notices (f : Placement → Placement) : (s.modPlace f).notices = s.notices := rfl
@[simp] theorem State.modPlace_stream (f : Placement → Placement) (j : StreamId) : (s.modPlace f).stream j = s.stream j := rfl

/-! ### modCtl -/

@[simp] theorem State.modCtl_pending (f : Control → Control) : (s.modCtl f).pending = s.pending := rfl
@[simp] theorem State.modCtl_mem (f : Control → Control) : (s.modCtl f).mem = s.mem := rfl
@[simp] theorem State.modCtl_port (f : Control → Control) : (s.modCtl f).port = s.port := rfl
@[simp] theorem State.modCtl_preview (f : Control → Control) : (s.modCtl f).preview = s.preview := rfl
@[simp] theorem State.modCtl_streams (f : Control → Control) : (s.modCtl f).streams = s.streams := rfl
@[simp] theorem State.modCtl_routes (f : Control → Control) : (s.modCtl f).routes = s.routes := rfl
@[simp] theorem State.modCtl_pfail (f : Control → Control) : (s.modCtl f).pfail = s.pfail := rfl
@[simp] theorem State.modCtl_powerFail (f : Control → Control) : (s.modCtl f).powerFail = s.powerFail := rfl
@[simp] theorem State.modCtl_place (f : Control → Control) : (s.modCtl f).place = s.place := rfl
@[simp] theorem State.modCtl_link (f : Control → Control) : (s.modCtl f).link = s.link := rfl
@[simp] theorem State.modCtl_integ (f : Control → Control) : (s.modCtl f).integ = s.integ := rfl
@[simp] theorem State.modCtl_ctl (f : Control → Control) : (s.modCtl f).ctl = f s.ctl := rfl
@[simp] theorem State.modCtl_notices (f : Control → Control) : (s.modCtl f).notices = s.notices := rfl
@[simp] theorem State.modCtl_stream (f : Control → Control) (j : StreamId) : (s.modCtl f).stream j = s.stream j := rfl

/-! ### modMon -/

@[simp] theorem State.modMon_pending (m : MemId) (f : MemMon → MemMon) : (s.modMon m f).pending = s.pending := rfl
@[simp] theorem State.modMon_mem (m : MemId) (f : MemMon → MemMon) : (s.modMon m f).mem = s.mem := rfl
@[simp] theorem State.modMon_port (m : MemId) (f : MemMon → MemMon) : (s.modMon m f).port = s.port := rfl
@[simp] theorem State.modMon_preview (m : MemId) (f : MemMon → MemMon) : (s.modMon m f).preview = s.preview := rfl
@[simp] theorem State.modMon_streams (m : MemId) (f : MemMon → MemMon) : (s.modMon m f).streams = s.streams := rfl
@[simp] theorem State.modMon_routes (m : MemId) (f : MemMon → MemMon) : (s.modMon m f).routes = s.routes := rfl
@[simp] theorem State.modMon_pfail (m : MemId) (f : MemMon → MemMon) : (s.modMon m f).pfail = s.pfail := rfl
@[simp] theorem State.modMon_powerFail (m : MemId) (f : MemMon → MemMon) : (s.modMon m f).powerFail = s.powerFail := rfl
@[simp] theorem State.modMon_place (m : MemId) (f : MemMon → MemMon) : (s.modMon m f).place = s.place := rfl
@[simp] theorem State.modMon_link (m : MemId) (f : MemMon → MemMon) : (s.modMon m f).link = s.link := rfl
@[simp] theorem State.modMon_integ (m : MemId) (f : MemMon → MemMon) : (s.modMon m f).integ = s.integ.set m (f (s.integ.get m)) := rfl
@[simp] theorem State.modMon_ctl (m : MemId) (f : MemMon → MemMon) : (s.modMon m f).ctl = s.ctl := rfl
@[simp] theorem State.modMon_notices (m : MemId) (f : MemMon → MemMon) : (s.modMon m f).notices = s.notices := rfl
@[simp] theorem State.modMon_stream (m : MemId) (f : MemMon → MemMon) (j : StreamId) : (s.modMon m f).stream j = s.stream j := rfl

/-! ### raise -/

@[simp] theorem State.raise_pending (i : StreamId) (c : StreamCat) : (s.raise i c).pending = s.pending := rfl
@[simp] theorem State.raise_mem (i : StreamId) (c : StreamCat) : (s.raise i c).mem = s.mem := rfl
@[simp] theorem State.raise_port (i : StreamId) (c : StreamCat) : (s.raise i c).port = s.port := rfl
@[simp] theorem State.raise_preview (i : StreamId) (c : StreamCat) : (s.raise i c).preview = s.preview := rfl
@[simp] theorem State.raise_streams (i : StreamId) (c : StreamCat) : (s.raise i c).streams = s.streams := rfl
@[simp] theorem State.raise_routes (i : StreamId) (c : StreamCat) : (s.raise i c).routes = s.routes := rfl
@[simp] theorem State.raise_pfail (i : StreamId) (c : StreamCat) : (s.raise i c).pfail = s.pfail := rfl
@[simp] theorem State.raise_powerFail (i : StreamId) (c : StreamCat) : (s.raise i c).powerFail = s.powerFail := rfl
@[simp] theorem State.raise_place (i : StreamId) (c : StreamCat) : (s.raise i c).place = s.place := rfl
@[simp] theorem State.raise_link (i : StreamId) (c : StreamCat) : (s.raise i c).link = s.link := rfl
@[simp] theorem State.raise_integ (i : StreamId) (c : StreamCat) : (s.raise i c).integ = s.integ := rfl
@[simp] theorem State.raise_ctl (i : StreamId) (c : StreamCat) : (s.raise i c).ctl = s.ctl := rfl
@[simp] theorem State.raise_notices (i : StreamId) (c : StreamCat) : (s.raise i c).notices = s.notices.raiseStream i c := rfl
@[simp] theorem State.raise_stream (i : StreamId) (c : StreamCat) (j : StreamId) : (s.raise i c).stream j = s.stream j := rfl

/-! ### raiseDev -/

@[simp] theorem State.raiseDev_pending (c : DeviceCat) : (s.raiseDev c).pending = s.pending := rfl
@[simp] theorem State.raiseDev_mem (c : DeviceCat) : (s.raiseDev c).mem = s.mem := rfl
@[simp] theorem State.raiseDev_port (c : DeviceCat) : (s.raiseDev c).port = s.port := rfl
@[simp] theorem State.raiseDev_preview (c : DeviceCat) : (s.raiseDev c).preview = s.preview := rfl
@[simp] theorem State.raiseDev_streams (c : DeviceCat) : (s.raiseDev c).streams = s.streams := rfl
@[simp] theorem State.raiseDev_routes (c : DeviceCat) : (s.raiseDev c).routes = s.routes := rfl
@[simp] theorem State.raiseDev_pfail (c : DeviceCat) : (s.raiseDev c).pfail = s.pfail := rfl
@[simp] theorem State.raiseDev_powerFail (c : DeviceCat) : (s.raiseDev c).powerFail = s.powerFail := rfl
@[simp] theorem State.raiseDev_place (c : DeviceCat) : (s.raiseDev c).place = s.place := rfl
@[simp] theorem State.raiseDev_link (c : DeviceCat) : (s.raiseDev c).link = s.link := rfl
@[simp] theorem State.raiseDev_integ (c : DeviceCat) : (s.raiseDev c).integ = s.integ := rfl
@[simp] theorem State.raiseDev_ctl (c : DeviceCat) : (s.raiseDev c).ctl = s.ctl := rfl
@[simp] theorem State.raiseDev_notices (c : DeviceCat) : (s.raiseDev c).notices = s.notices.raiseDevice c := rfl
@[simp] theorem State.raiseDev_stream (c : DeviceCat) (j : StreamId) : (s.raiseDev c).stream j = s.stream j := rfl

/-! ### reply -/

@[simp] theorem State.reply_pending (k t : Byte) (st : Status) (fs : List Byte) : (s.reply k t st fs).pending = s.pending := rfl
@[simp] theorem State.reply_mem (k t : Byte) (st : Status) (fs : List Byte) : (s.reply k t st fs).mem = s.mem := rfl
@[simp] theorem State.reply_port (k t : Byte) (st : Status) (fs : List Byte) : (s.reply k t st fs).port = s.port := rfl
@[simp] theorem State.reply_preview (k t : Byte) (st : Status) (fs : List Byte) : (s.reply k t st fs).preview = s.preview := rfl
@[simp] theorem State.reply_streams (k t : Byte) (st : Status) (fs : List Byte) : (s.reply k t st fs).streams = s.streams := rfl
@[simp] theorem State.reply_routes (k t : Byte) (st : Status) (fs : List Byte) : (s.reply k t st fs).routes = s.routes := rfl
@[simp] theorem State.reply_pfail (k t : Byte) (st : Status) (fs : List Byte) : (s.reply k t st fs).pfail = s.pfail := rfl
@[simp] theorem State.reply_powerFail (k t : Byte) (st : Status) (fs : List Byte) : (s.reply k t st fs).powerFail = s.powerFail := rfl
@[simp] theorem State.reply_place (k t : Byte) (st : Status) (fs : List Byte) : (s.reply k t st fs).place = s.place := rfl
@[simp] theorem State.reply_link (k t : Byte) (st : Status) (fs : List Byte) : (s.reply k t st fs).link = s.link := rfl
@[simp] theorem State.reply_integ (k t : Byte) (st : Status) (fs : List Byte) : (s.reply k t st fs).integ = s.integ := rfl
@[simp] theorem State.reply_ctl (k t : Byte) (st : Status) (fs : List Byte) : (s.reply k t st fs).ctl = s.ctl.reply k t st fs := rfl
@[simp] theorem State.reply_notices (k t : Byte) (st : Status) (fs : List Byte) : (s.reply k t st fs).notices = s.notices := rfl
@[simp] theorem State.reply_stream (k t : Byte) (st : Status) (fs : List Byte) (j : StreamId) : (s.reply k t st fs).stream j = s.stream j := rfl

/-! ### refuse -/

@[simp] theorem State.refuse_pending (k t : Byte) (st : Status) : (s.refuse k t st).pending = s.pending := rfl
@[simp] theorem State.refuse_mem (k t : Byte) (st : Status) : (s.refuse k t st).mem = s.mem := rfl
@[simp] theorem State.refuse_port (k t : Byte) (st : Status) : (s.refuse k t st).port = s.port := rfl
@[simp] theorem State.refuse_preview (k t : Byte) (st : Status) : (s.refuse k t st).preview = s.preview := rfl
@[simp] theorem State.refuse_streams (k t : Byte) (st : Status) : (s.refuse k t st).streams = s.streams := rfl
@[simp] theorem State.refuse_routes (k t : Byte) (st : Status) : (s.refuse k t st).routes = s.routes := rfl
@[simp] theorem State.refuse_pfail (k t : Byte) (st : Status) : (s.refuse k t st).pfail = s.pfail := rfl
@[simp] theorem State.refuse_powerFail (k t : Byte) (st : Status) : (s.refuse k t st).powerFail = s.powerFail := rfl
@[simp] theorem State.refuse_place (k t : Byte) (st : Status) : (s.refuse k t st).place = s.place := rfl
@[simp] theorem State.refuse_link (k t : Byte) (st : Status) : (s.refuse k t st).link = s.link := rfl
@[simp] theorem State.refuse_integ (k t : Byte) (st : Status) : (s.refuse k t st).integ = s.integ := rfl
@[simp] theorem State.refuse_ctl (k t : Byte) (st : Status) : (s.refuse k t st).ctl = s.ctl.reply k t st [] := rfl
@[simp] theorem State.refuse_notices (k t : Byte) (st : Status) : (s.refuse k t st).notices = s.notices := rfl
@[simp] theorem State.refuse_stream (k t : Byte) (st : Status) (j : StreamId) : (s.refuse k t st).stream j = s.stream j := rfl

/-! ### freePort -/

@[simp] theorem State.freePort_pending : s.freePort.pending = s.pending := rfl
@[simp] theorem State.freePort_mem : s.freePort.mem = s.mem := rfl
@[simp] theorem State.freePort_port : s.freePort.port = { s.port with granted := none } := rfl
@[simp] theorem State.freePort_preview : s.freePort.preview = s.preview := rfl
@[simp] theorem State.freePort_streams : s.freePort.streams = s.streams := rfl
@[simp] theorem State.freePort_routes : s.freePort.routes = s.routes := rfl
@[simp] theorem State.freePort_pfail : s.freePort.pfail = s.pfail := rfl
@[simp] theorem State.freePort_powerFail : s.freePort.powerFail = s.powerFail := rfl
@[simp] theorem State.freePort_place : s.freePort.place = s.place := rfl
@[simp] theorem State.freePort_link : s.freePort.link = s.link := rfl
@[simp] theorem State.freePort_integ : s.freePort.integ = s.integ := rfl
@[simp] theorem State.freePort_ctl : s.freePort.ctl = s.ctl := rfl
@[simp] theorem State.freePort_notices : s.freePort.notices = s.notices := rfl
@[simp] theorem State.freePort_stream (j : StreamId) : s.freePort.stream j = s.stream j := rfl

/-! ### deadSpan -/

@[simp] theorem State.deadSpan_pending (a n : Nat) : (s.deadSpan a n).pending = s.pending := rfl
@[simp] theorem State.deadSpan_mem (a n : Nat) : (s.deadSpan a n).mem = s.mem := rfl
@[simp] theorem State.deadSpan_port (a n : Nat) : (s.deadSpan a n).port = s.port := rfl
@[simp] theorem State.deadSpan_preview (a n : Nat) : (s.deadSpan a n).preview = s.preview := rfl
@[simp] theorem State.deadSpan_streams (a n : Nat) : (s.deadSpan a n).streams = s.streams := rfl
@[simp] theorem State.deadSpan_routes (a n : Nat) : (s.deadSpan a n).routes = s.routes := rfl
@[simp] theorem State.deadSpan_pfail (a n : Nat) : (s.deadSpan a n).pfail = s.pfail := rfl
@[simp] theorem State.deadSpan_powerFail (a n : Nat) : (s.deadSpan a n).powerFail = s.powerFail := rfl
@[simp] theorem State.deadSpan_link (a n : Nat) : (s.deadSpan a n).link = s.link := rfl
@[simp] theorem State.deadSpan_integ (a n : Nat) : (s.deadSpan a n).integ = s.integ := rfl
@[simp] theorem State.deadSpan_ctl (a n : Nat) : (s.deadSpan a n).ctl = s.ctl := rfl
@[simp] theorem State.deadSpan_notices (a n : Nat) : (s.deadSpan a n).notices = s.notices := rfl
@[simp] theorem State.deadSpan_stream (a n : Nat) (j : StreamId) : (s.deadSpan a n).stream j = s.stream j := rfl

/-! ### countRate -/

@[simp] theorem State.countRate_pending (n : Nat) : (s.countRate n).pending = s.pending := rfl
@[simp] theorem State.countRate_mem (n : Nat) : (s.countRate n).mem = s.mem := rfl
@[simp] theorem State.countRate_port (n : Nat) : (s.countRate n).port = s.port := rfl
@[simp] theorem State.countRate_preview (n : Nat) : (s.countRate n).preview = s.preview := rfl
@[simp] theorem State.countRate_streams (n : Nat) : (s.countRate n).streams = s.streams := rfl
@[simp] theorem State.countRate_routes (n : Nat) : (s.countRate n).routes = s.routes := rfl
@[simp] theorem State.countRate_pfail (n : Nat) : (s.countRate n).pfail = s.pfail := rfl
@[simp] theorem State.countRate_powerFail (n : Nat) : (s.countRate n).powerFail = s.powerFail := rfl
@[simp] theorem State.countRate_link (n : Nat) : (s.countRate n).link = s.link := rfl
@[simp] theorem State.countRate_integ (n : Nat) : (s.countRate n).integ = s.integ := rfl
@[simp] theorem State.countRate_ctl (n : Nat) : (s.countRate n).ctl = s.ctl := rfl
@[simp] theorem State.countRate_notices (n : Nat) : (s.countRate n).notices = s.notices := rfl
@[simp] theorem State.countRate_stream (n : Nat) (j : StreamId) : (s.countRate n).stream j = s.stream j := rfl

/-! ### takeFrame -/

@[simp] theorem State.takeFrame_pending (rest : List InFrame) : (s.takeFrame rest).pending = s.pending := rfl
@[simp] theorem State.takeFrame_mem (rest : List InFrame) : (s.takeFrame rest).mem = s.mem := rfl
@[simp] theorem State.takeFrame_port (rest : List InFrame) : (s.takeFrame rest).port = s.port := rfl
@[simp] theorem State.takeFrame_preview (rest : List InFrame) : (s.takeFrame rest).preview = s.preview := rfl
@[simp] theorem State.takeFrame_streams (rest : List InFrame) : (s.takeFrame rest).streams = s.streams := rfl
@[simp] theorem State.takeFrame_routes (rest : List InFrame) : (s.takeFrame rest).routes = s.routes := rfl
@[simp] theorem State.takeFrame_pfail (rest : List InFrame) : (s.takeFrame rest).pfail = s.pfail := rfl
@[simp] theorem State.takeFrame_powerFail (rest : List InFrame) : (s.takeFrame rest).powerFail = s.powerFail := rfl
@[simp] theorem State.takeFrame_place (rest : List InFrame) : (s.takeFrame rest).place = s.place := rfl
@[simp] theorem State.takeFrame_link (rest : List InFrame) : (s.takeFrame rest).link = s.link := rfl
@[simp] theorem State.takeFrame_integ (rest : List InFrame) : (s.takeFrame rest).integ = s.integ := rfl
@[simp] theorem State.takeFrame_ctl (rest : List InFrame) : (s.takeFrame rest).ctl = { s.ctl with inbound := rest, reserved := s.ctl.reserved + 1 } := rfl
@[simp] theorem State.takeFrame_notices (rest : List InFrame) : (s.takeFrame rest).notices = s.notices := rfl
@[simp] theorem State.takeFrame_stream (rest : List InFrame) (j : StreamId) : (s.takeFrame rest).stream j = s.stream j := rfl

end Sys2Proof.Machine
end

