-- ==== Sys2Proof/Laws/Blocks.lean ====
section
/-! SUPPORT. What the operations on lists and pools can do: one lemma each for the first match changed, the take,
the victim take and the release scan. -/

namespace Sys2Proof.Machine

/-! ### The first element that satisfies a test -/

theorem modifyFirst_at {α : Type} {p : α → Bool} {f : α → α} {before : List α} {x : α} {after : List α}
    (hx : p x = true) (hb : ∀ y ∈ before, p y = false) :
    modifyFirst p f (before ++ x :: after) = before ++ f x :: after := by
  induction before with
  | nil => simp [modifyFirst, hx]
  | cons y before ih =>
    simp [modifyFirst, hb y List.mem_cons_self, ih fun z hz => hb z (List.mem_cons_of_mem _ hz)]

theorem modifyFirst_none {α : Type} {p : α → Bool} {f : α → α} {l : List α} (h : ∀ y ∈ l, p y = false) :
    modifyFirst p f l = l := by
  induction l with
  | nil => rfl
  | cons y l ih => simp [modifyFirst, h y List.mem_cons_self, ih fun z hz => h z (List.mem_cons_of_mem _ hz)]

/-- A list either has no element that satisfies a test or splits at the first one. -/
theorem first_cases {α : Type} (p : α → Bool) (l : List α) :
    (∀ y ∈ l, p y = false) ∨
    ∃ before x after, l = before ++ x :: after ∧ p x = true ∧ ∀ y ∈ before, p y = false := by
  induction l with
  | nil => left; simp
  | cons y l ih =>
    cases hy : p y with
    | true => right; exact ⟨[], y, l, rfl, hy, by simp⟩
    | false =>
      rcases ih with h | ⟨before, x, after, rfl, hx, hb⟩
      · left; intro z hz; rcases List.mem_cons.1 hz with rfl | hz
        · exact hy
        · exact h z hz
      · right
        refine ⟨y :: before, x, after, rfl, hx, fun z hz => ?_⟩
        rcases List.mem_cons.1 hz with rfl | hz
        · exact hy
        · exact hb z hz

@[simp] theorem modifyFirst_length {α : Type} (p : α → Bool) (f : α → α) (l : List α) :
    (modifyFirst p f l).length = l.length := by
  induction l with
  | nil => rfl
  | cons y l ih => rw [modifyFirst]; split <;> simp [ih]

theorem find?_at {α : Type} {p : α → Bool} {before : List α} {x : α} {after : List α}
    (hx : p x = true) (hb : ∀ y ∈ before, p y = false) : (before ++ x :: after).find? p = some x := by
  induction before with
  | nil => simp [hx]
  | cons y before ih =>
    rw [List.cons_append, List.find?_cons, hb y List.mem_cons_self]
    exact ih fun z hz => hb z (List.mem_cons_of_mem _ hz)

/-! ### The take (R10) -/

/-- A take fails exactly when no block is spare. -/
theorem take_none_iff (s : State) (i : StreamId) (first k : Nat) (gap : Option Gap) :
    s.take i first k gap = none ↔ (s.stream i).spare = [] := by
  unfold State.take
  cases h : (s.stream i).spare <;> simp

/-- Everything a take can do: the top spare block becomes the FILLING tail, RING_HIGH is raised at the high mark. -/
theorem take_some {s t : State} {i : StreamId} {first k : Nat} {gap : Option Gap}
    (h : s.take i first k gap = some t) :
    ∃ b rest, (s.stream i).spare = b :: rest ∧
      t = let u := s.setStream i { s.stream i with
            spare := rest, capture := (s.stream i).capture ++ [freshEntry b first k gap] }
          if (s.stream i).capture.length + 1 = (s.stream i).cfg.high then u.raise i .ringHigh else u := by
  unfold State.take at h
  cases hs : (s.stream i).spare with
  | nil => simp [hs] at h
  | cons b rest =>
    simp only [hs, Option.some.injEq] at h
    exact ⟨b, rest, rfl, by simpa using h.symm⟩

/-! ### The victim take (R13) -/

/-- Everything a victim take can do to the list: the first victim leaves, its coverage passes to the entry after
it or to its own fresh gap, and its block is the FILLING tail. -/
theorem victimList_some {first k b : Nat} {l l' : List Entry} (h : victimList first k l = some (l', b)) :
    ∃ before e after, l = before ++ e :: after ∧ e.isVictim = true ∧ (∀ f ∈ before, f.isVictim = false) ∧
      b = e.block ∧
      l' = before ++ (match after with
        | [] => [freshEntry e.block first k (some ⟨first - e.firstCovered, (gapCauses e.gap).union .oldOnly⟩)]
        | f :: more => f.absorb e :: more ++ [freshEntry e.block first k none]) := by
  induction l generalizing l' with
  | nil => simp [victimList] at h
  | cons e rest ih =>
    cases hv : e.isVictim with
    | true =>
      refine ⟨[], e, rest, rfl, hv, by simp, ?_⟩
      cases rest with
      | nil => simp only [victimList, hv, if_true, Option.some.injEq, Prod.mk.injEq] at h; exact ⟨h.2.symm, h.1.symm⟩
      | cons f more =>
        simp only [victimList, hv, if_true, Option.some.injEq, Prod.mk.injEq] at h; exact ⟨h.2.symm, h.1.symm⟩
    | false =>
      cases hr : victimList first k rest with
      | none => simp [victimList, hv, hr] at h
      | some p =>
        obtain ⟨l1, b1⟩ := p
        simp only [victimList, hv, hr] at h
        obtain ⟨rfl, rfl⟩ : e :: l1 = l' ∧ b1 = b := by simpa using h
        obtain ⟨before, e', after, rfl, hv', hb, hblk, hl⟩ := ih hr
        refine ⟨e :: before, e', after, rfl, hv', fun f hf => ?_, hblk, by rw [hl]; rfl⟩
        rcases List.mem_cons.1 hf with rfl | hf
        · exact hv
        · exact hb f hf

/-! ### The release scan (R14, R15) -/

/-- The scan splits the list into releasable entries at its head and a rest whose head is not. -/
theorem releaseSplit_spec (all : Bool) (commit : Nat) (l : List Entry) :
    l = (releaseSplit all commit l).1 ++ (releaseSplit all commit l).2 ∧
    (∀ e ∈ (releaseSplit all commit l).1, e.releasable all commit = true) ∧
    ∀ e rest, (releaseSplit all commit l).2 = e :: rest → e.releasable all commit = false := by
  induction l with
  | nil => simp [releaseSplit]
  | cons e l ih =>
    rw [releaseSplit]
    split
    · next h =>
      refine ⟨by simpa using ih.1, fun f hf => ?_, ih.2.2⟩
      rcases List.mem_cons.1 hf with rfl | hf
      · exact h
      · exact ih.2.1 f hf
    · next h =>
      refine ⟨rfl, by simp, fun f rest hf => ?_⟩
      obtain ⟨rfl, -⟩ := List.cons.inj hf
      simpa using h

/-- A released block changes its own stream's spare list or retired set and the notices alone. -/
theorem releaseBlock_frame (s : State) (i : StreamId) (e : Entry) :
    (∀ j, j ≠ i → (s.releaseBlock i e).stream j = s.stream j) ∧ (s.releaseBlock i e).mem = s.mem ∧
    (s.releaseBlock i e).port = s.port ∧ (s.releaseBlock i e).place = s.place ∧
    (s.releaseBlock i e).link = s.link ∧ (s.releaseBlock i e).ctl = s.ctl ∧
    (s.releaseBlock i e).pending = s.pending := by
  unfold State.releaseBlock
  split
  · exact ⟨fun j hj => (State.modStream_stream_other s (fun x => { x with retired := e.block :: x.retired }) hj :),
      rfl, rfl, rfl, rfl, rfl, rfl⟩
  · exact ⟨fun j hj => State.modStream_stream_other s _ hj, rfl, rfl, rfl, rfl, rfl, rfl⟩

/-- A release scan changes its own stream's lists and the notices alone. -/
theorem releaseScan_frame (s : State) (i : StreamId) (all : Bool) :
    (∀ j, j ≠ i → (s.releaseScan i all).stream j = s.stream j) ∧ (s.releaseScan i all).mem = s.mem ∧
    (s.releaseScan i all).port = s.port ∧ (s.releaseScan i all).place = s.place ∧
    (s.releaseScan i all).link = s.link ∧ (s.releaseScan i all).ctl = s.ctl ∧
    (s.releaseScan i all).pending = s.pending := by
  have fold : ∀ (es : List Entry) (t : State), let u := es.foldl (fun s e => s.releaseBlock i e) t
      (∀ j, j ≠ i → u.stream j = t.stream j) ∧ u.mem = t.mem ∧ u.port = t.port ∧ u.place = t.place ∧
      u.link = t.link ∧ u.ctl = t.ctl ∧ u.pending = t.pending := by
    intro es
    induction es with
    | nil => intro t; exact ⟨fun _ _ => rfl, rfl, rfl, rfl, rfl, rfl, rfl⟩
    | cons e es ih =>
      intro t
      obtain ⟨h1, h2, h3, h4, h5, h6, h7⟩ := ih (t.releaseBlock i e)
      obtain ⟨g1, g2, g3, g4, g5, g6, g7⟩ := releaseBlock_frame t i e
      exact ⟨fun j hj => (h1 j hj).trans (g1 j hj), h2.trans g2, h3.trans g3, h4.trans g4, h5.trans g5,
        h6.trans g6, h7.trans g7⟩
  obtain ⟨h1, h2, h3, h4, h5, h6, h7⟩ := fold (releaseSplit all (s.stream i).commitIndex (s.stream i).capture).1
    (s.setStream i { s.stream i with
      capture := (releaseSplit all (s.stream i).commitIndex (s.stream i).capture).2 })
  exact ⟨fun j hj => (h1 j hj).trans (State.setStream_stream_other s _ hj), h2, h3, h4, h5, h6, h7⟩

end Sys2Proof.Machine
end

