-- ==== Sys2Proof/Laws/Bytes.lean ====
section
/-! SUPPORT. Little-endian fields: their lengths, and reading back what was laid down. -/

namespace Sys2Proof.Machine

@[simp] theorem leBytes_length (n x : Nat) : (leBytes n x).length = n := by
  induction n generalizing x with
  | zero => rfl
  | succ n ih => simp [leBytes, ih]

@[simp] theorem zeros_length (n : Nat) : (zeros n).length = n := List.length_replicate ..

/-- A little-endian field of `n` bytes holds the number modulo 256^n. -/
theorem leNat_leBytes (n x : Nat) : leNat (leBytes n x) = x % 256 ^ n := by
  induction n generalizing x with
  | zero => simp [leBytes, leNat, Nat.mod_one]
  | succ n ih =>
    have hsplit : x % 256 ^ (n + 1) = x % 256 + 256 * (x / 256 % 256 ^ n) := by
      rw [Nat.pow_succ', Nat.mod_mul]
    rw [leBytes, leNat, ih, BitVec.toNat_ofNat, hsplit]

/-- A field wide enough for its value is read back whole. -/
theorem ofNat_leNat_leBytes {w : Nat} (n : Nat) (x : BitVec w) (h : 2 ^ w ≤ 256 ^ n) :
    BitVec.ofNat w (leNat (leBytes n x.toNat)) = x := by
  rw [leNat_leBytes, Nat.mod_eq_of_lt (lt_of_lt_of_le x.isLt h)]
  simp

/-- A region of a string of bytes that begins after `a` and is `b` itself. -/
theorem slice_append (a b c : List Byte) (off n : Nat) (ha : a.length = off) (hb : b.length = n) :
    slice (a ++ (b ++ c)) off n = b := by
  subst ha hb
  simp [slice]

end Sys2Proof.Machine
end

