-- ==== Sys2Proof/Laws/Integrity.lean ====
section
/-! SUPPORT. What counting errors and keeping a PREVIEW's staged samples can change (R156, R157, R159, R168). -/

namespace Sys2Proof.Machine

variable (s : State)

/-- Counting the errors of a read changes the integrity monitor and the device notices alone (R157, R159). -/
theorem countUnits_eq (addr len : Nat) (us : List Nat) :
    ∃ g d, s.countUnits addr len us = { s with integ := g, notices := { s.notices with device := d } } := by
  induction us generalizing s with
  | nil => exact ⟨s.integ, s.notices.device, rfl⟩
  | cons u us ih =>
    unfold State.countUnits
    split
    · obtain ⟨g, d, h⟩ := ih (s.countUncorrectable .capture (64 * u)); exact ⟨g, d, h⟩
    · obtain ⟨g, d, h⟩ := ih (s.countCorrected .capture (64 * u)); exact ⟨g, d, h⟩
    · exact ih s

/-- A read of clean words counts nothing (R159). -/
theorem countUnits_clean {addr len : Nat} {us : List Nat} (h : ∀ u ∈ us, s.mem.unitOutcome addr len u = .clean) :
    s.countUnits addr len us = s := by
  induction us with
  | nil => rfl
  | cons u us ih =>
    unfold State.countUnits
    rw [h u List.mem_cons_self]
    exact ih fun v hv => h v (List.mem_cons_of_mem _ hv)

/-- Counting staged words in error changes the integrity monitor and the device notices alone (R168). -/
theorem countStaging_eq (addrs : List Nat) :
    ∃ g d, s.countStaging addrs = { s with integ := g, notices := { s.notices with device := d } } := by
  induction addrs generalizing s with
  | nil => exact ⟨s.integ, s.notices.device, rfl⟩
  | cons a addrs ih => obtain ⟨g, d, h⟩ := ih (s.countUncorrectable .staging a); exact ⟨g, d, h⟩

/-- Keeping the staged samples of a PREVIEW changes the segments of a PREVIEW of the stream alone (R156, log 10). -/
theorem previewSnap_cases (i : StreamId) :
    s.previewSnap i = s ∨ ∃ p segs, s.preview = some p ∧ p.stream = i ∧
      s.previewSnap i = { s with preview := some { p with segs := segs } } := by
  unfold State.previewSnap
  split
  · next p b hp hb =>
    split
    · next hi => exact .inr ⟨p, _, hp, hi, rfl⟩
    · exact .inl rfl
  · exact .inl rfl

@[simp] theorem previewSnap_integ (i : StreamId) : (s.previewSnap i).integ = s.integ := by
  obtain h | ⟨p, segs, -, -, h⟩ := previewSnap_cases s i <;> rw [h]

@[simp] theorem previewSnap_notices (i : StreamId) : (s.previewSnap i).notices = s.notices := by
  obtain h | ⟨p, segs, -, -, h⟩ := previewSnap_cases s i <;> rw [h]

/-- The field of the remaining bytes shows them when it can hold them (log 33). -/
theorem slotRemaining_of_lt {n : Nat} (h : n < 2 ^ 48) : slotRemaining n = slot8 n := if_pos h

end Sys2Proof.Machine
end

