-- ==== Sys2Proof/Laws/Link.lean ====
section
/-! SUPPORT. What an attempt to send and an ACCEPT can do (R132, R134, R136, R169). -/

namespace Sys2Proof.Machine

variable (s : State)

/-- Putting in the CRC field twice is putting it in once. -/
theorem withCrc_withCrc (e : CommitEntry) (r : Replay) (bytes : List Byte) (h : bytes.length = r.len) :
    e.withCrc r (e.withCrc r bytes) = e.withCrc r bytes := by
  unfold CommitEntry.withCrc
  split
  · have hl : (bytes.take (r.len - 4)).length = r.len - 4 := by simp; omega
    simp only [List.take_left' hl]
  · rfl

/-- A transfer that no flip has met goes out as it was built. -/
theorem readOut_finish (e : CommitEntry) (r : Replay) (h : r.bytes.length = r.len) :
    e.readOut (e.finish r) = (e.finish r).bytes :=
  withCrc_withCrc e r (e.laidBytes r) (by simp [CommitEntry.laidBytes, h])

/-- Everything the read-out of a transfer can do: nothing, the WRITE sent, or its damaged ranges rebuilt and
nothing sent. -/
theorem trySend_cases :
    s.trySend = s ∨
    ∃ e r, s.link.mayWrite = true ∧ s.link.sending = some e ∧ s.link.replay = some r ∧ r.ready = true ∧
      ((r.badRanges = [] ∧ s.trySend = s.modLink fun l =>
          { l with outstanding := some (.write (e.addr.getD 0 + r.off) (e.readOut r)) }) ∨
       (r.badRanges ≠ [] ∧ s.trySend = (s.rebuild e r r.badRanges).portGrant)) := by
  unfold State.trySend
  split
  · next hm =>
    split
    · next e r he hr =>
      split
      · next hready =>
        right
        refine ⟨e, r, hm, he, hr, hready, ?_⟩
        split
        · next hb =>
          refine .inl ⟨List.isEmpty_iff.1 hb, ?_⟩
          simp [State.sendIfClean, he, hr, hready, hb]
        · next hb => exact .inr ⟨fun h => hb (List.isEmpty_iff.2 h), rfl⟩
      · exact .inl rfl
    · exact .inl rfl
  · exact .inl rfl

/-- Everything an ACCEPT can do: nothing, the slot freed, or the SENDING entry advanced by the bytes as sent. -/
theorem accept_cases :
    s.accept = s ∨ s.accept = s.modLink Link.freeSlot ∨
    ∃ e r, s.link.sending = some e ∧ s.link.replay = some r ∧
      s.accept = (s.modLink fun l =>
        { (l.modSending fun _ => e.afterAccept r s.link.sentBytes s.ctl.timing.commit) with
          outstanding := none, replay := none }).settle := by
  unfold State.accept
  split
  · split
    · next e r he hr => exact .inr (.inr ⟨e, r, he, hr, rfl⟩)
    · exact .inr (.inl rfl)
  · exact .inl rfl

end Sys2Proof.Machine
end

