-- ==== Sys2Proof/Laws/Memory.lean ====
section
/-! SUPPORT. Capture memory: reading back what was written, and the canonical form every operation keeps. -/

namespace Sys2Proof.Machine

variable {α : Type} [DecidableEq α] {d : α}

/-! ### Sparse memories -/

theorem sparseWfFrom_cons {lo a : Nat} {v : α} {m : List (Nat × α)} :
    sparseWfFrom d lo ((a, v) :: m) = true ↔ lo ≤ a ∧ v ≠ d ∧ sparseWfFrom d (a + 1) m = true := by
  simp [sparseWfFrom, and_assoc]

/-- A bound may be lowered. -/
theorem sparseWfFrom_mono {lo lo' : Nat} {m : List (Nat × α)} (h : sparseWfFrom d lo m = true) (hl : lo' ≤ lo) :
    sparseWfFrom d lo' m = true := by
  cases m with
  | nil => rfl
  | cons p m => obtain ⟨a, v⟩ := p; rw [sparseWfFrom_cons] at h ⊢; exact ⟨by omega, h.2⟩

/-- Below the bound nothing is listed. -/
theorem sparseRead_below {lo a : Nat} {m : List (Nat × α)} (h : sparseWfFrom d lo m = true) (ha : a < lo) :
    sparseRead d m a = d := by
  induction m generalizing lo with
  | nil => rfl
  | cons p m ih =>
    obtain ⟨b, v⟩ := p
    rw [sparseWfFrom_cons] at h
    rw [sparseRead, if_neg (by omega)]
    exact ih h.2.2 (by omega)

/-- A write keeps the canonical form. -/
theorem sparseWrite_wf {lo a : Nat} {v : α} {m : List (Nat × α)} (h : sparseWfFrom d lo m = true) (ha : lo ≤ a) :
    sparseWfFrom d lo (sparseWrite d m a v) = true := by
  induction m generalizing lo with
  | nil =>
    by_cases hv : v = d
    · simp [sparseWrite, hv, sparseWfFrom]
    · rw [sparseWrite, if_neg hv, sparseWfFrom_cons]; exact ⟨ha, hv, rfl⟩
  | cons p m ih =>
    obtain ⟨b, x⟩ := p
    have h' := sparseWfFrom_cons.1 h
    rw [sparseWrite]
    split
    · split
      · exact h
      · next hlt hv =>
        rw [sparseWfFrom_cons]
        exact ⟨ha, hv, sparseWfFrom_cons.2 ⟨by omega, h'.2⟩⟩
    · split
      · next hab =>
        split
        · exact sparseWfFrom_mono h'.2.2 (by omega)
        · next hv => rw [sparseWfFrom_cons]; exact ⟨ha, hv, hab ▸ h'.2.2⟩
      · rw [sparseWfFrom_cons]; exact ⟨h'.1, h'.2.1, ih h'.2.2 (by omega)⟩

/-- A read after a write: the value written at its address, and every other address as before. -/
theorem sparseRead_sparseWrite {lo a c : Nat} {v : α} {m : List (Nat × α)} (h : sparseWfFrom d lo m = true) :
    sparseRead d (sparseWrite d m a v) c = if c = a then v else sparseRead d m c := by
  induction m generalizing lo with
  | nil =>
    by_cases hv : v = d
    · simp [sparseWrite, hv, sparseRead]
    · simp [sparseWrite, hv, sparseRead]
  | cons p m ih =>
    obtain ⟨b, x⟩ := p
    have h' := sparseWfFrom_cons.1 h
    rw [sparseWrite]
    split
    · next hab =>
      split
      · next hv =>
        split
        · next hc => subst hc; rw [sparseRead_below (sparseWfFrom_cons.2 ⟨le_refl b, h'.2⟩) hab, hv]
        · rfl
      · rw [sparseRead]
    · split
      · next hab =>
        subst hab
        split
        · next hv =>
          split
          · next hc => subst hc; rw [sparseRead_below h'.2.2 (by omega), hv]
          · next hc => rw [sparseRead, if_neg hc]
        · rw [sparseRead, sparseRead]; split <;> rfl
      · next hlt hne =>
        rw [sparseRead, sparseRead, ih h'.2.2]
        split
        · next hcb => subst hcb; rw [if_neg (Ne.symm hne)]
        · rfl

/-- Canonical memories that read alike are the same list. -/
theorem sparse_ext {lo : Nat} {m n : List (Nat × α)} (hm : sparseWfFrom d lo m = true)
    (hn : sparseWfFrom d lo n = true) (h : ∀ a, sparseRead d m a = sparseRead d n a) : m = n := by
  induction m generalizing lo n with
  | nil =>
    cases n with
    | nil => rfl
    | cons q n =>
      obtain ⟨b, y⟩ := q
      have := h b
      rw [sparseRead, sparseRead, if_pos rfl] at this
      exact absurd this.symm (sparseWfFrom_cons.1 hn).2.1
  | cons p m ih =>
    obtain ⟨a, x⟩ := p
    have hm' := sparseWfFrom_cons.1 hm
    cases n with
    | nil =>
      have := h a
      rw [sparseRead, sparseRead, if_pos rfl] at this
      exact absurd this hm'.2.1
    | cons q n =>
      obtain ⟨b, y⟩ := q
      have hn' := sparseWfFrom_cons.1 hn
      have hab : a = b := by
        rcases Nat.lt_trichotomy a b with hlt | heq | hlt
        · have := h a
          rw [sparseRead, if_pos rfl, sparseRead_below (sparseWfFrom_cons.2 ⟨le_refl b, hn'.2⟩) hlt] at this
          exact absurd this hm'.2.1
        · exact heq
        · have := h b
          rw [sparseRead_below (sparseWfFrom_cons.2 ⟨le_refl a, hm'.2⟩) hlt, sparseRead, if_pos rfl] at this
          exact absurd this.symm hn'.2.1
      subst hab
      have hx := h a
      rw [sparseRead, sparseRead, if_pos rfl, if_pos rfl] at hx
      subst hx
      rw [ih hm'.2.2 hn'.2.2 fun c => by
        by_cases hc : c = a
        · subst hc; rw [sparseRead_below hm'.2.2 (by omega), sparseRead_below hn'.2.2 (by omega)]
        · have := h c; rwa [sparseRead, sparseRead, if_neg hc, if_neg hc] at this]

/-! ### Capture memory -/

theorem writeCells_wf {cells : List Host.Cell} (h : sparseWfFrom 0#8 0 cells = true) (a : Nat) (bs : List Byte) :
    sparseWfFrom 0#8 0 (writeCells cells a bs) = true := by
  induction bs generalizing cells a with
  | nil => exact h
  | cons b bs ih => exact ih (sparseWrite_wf h (Nat.zero_le _)) _

/-- A string of bytes written is read back, and every byte outside it is as before. -/
theorem sparseRead_writeCells {cells : List Host.Cell} (h : sparseWfFrom 0#8 0 cells = true) (a c : Nat)
    (bs : List Byte) :
    sparseRead 0#8 (writeCells cells a bs) c =
      if a ≤ c ∧ c < a + bs.length then bs.getD (c - a) 0#8 else sparseRead 0#8 cells c := by
  induction bs generalizing cells a with
  | nil => rw [if_neg (by simp only [List.length_nil]; omega)]; rfl
  | cons b bs ih =>
    rw [writeCells, ih (sparseWrite_wf h (Nat.zero_le _)), sparseRead_sparseWrite h]
    simp only [List.length_cons]
    by_cases h1 : a + 1 ≤ c ∧ c < a + 1 + bs.length
    · rw [if_pos h1, if_pos (by omega), show c - a = (c - (a + 1)) + 1 by omega, List.getD_cons_succ]
    · rw [if_neg h1]
      by_cases h2 : c = a
      · subst h2; rw [if_pos rfl, if_pos (by omega), Nat.sub_self, List.getD_cons_zero]
      · rw [if_neg h2, if_neg (by omega)]

theorem Memory.wf_iff {m : Memory} :
    m.wf = true ↔ sparseWfFrom 0#8 0 m.cells = true ∧ sparseWfFrom WordErr.clean 0 m.errs = true := by
  simp [Memory.wf]

/-- Canonical capture memories with the same bytes and the same deviations are equal. -/
theorem Memory.ext_of_wf {m n : Memory} (hm : m.wf = true) (hn : n.wf = true)
    (hb : ∀ a, m.byteAt a = n.byteAt a) (he : ∀ w, m.errAt w = n.errAt w) : m = n := by
  rw [Memory.wf_iff] at hm hn
  cases m; cases n
  rw [Memory.mk.injEq]
  exact ⟨sparse_ext hm.1 hn.1 hb, sparse_ext hm.2 hn.2 he⟩

theorem Memory.writeWord_wf {m : Memory} (h : m.wf = true) (w : Nat) (bs : List Byte) (e : WordErr) :
    (m.writeWord w bs e).wf = true := by
  rw [Memory.wf_iff] at h ⊢
  exact ⟨writeCells_wf h.1 _ _, sparseWrite_wf h.2 (Nat.zero_le _)⟩

/-- The bytes after a word is written. -/
theorem Memory.writeWord_byteAt {m : Memory} (h : m.wf = true) (w a : Nat) (bs : List Byte) (e : WordErr) :
    (m.writeWord w bs e).byteAt a =
      if 8 * w ≤ a ∧ a < 8 * w + bs.length then bs.getD (a - 8 * w) 0#8 else m.byteAt a :=
  sparseRead_writeCells (Memory.wf_iff.1 h).1 ..

/-- The deviations after a word is written. -/
theorem Memory.writeWord_errAt {m : Memory} (h : m.wf = true) (w v : Nat) (bs : List Byte) (e : WordErr) :
    (m.writeWord w bs e).errAt v = if v = w then e else m.errAt v :=
  sparseRead_sparseWrite (Memory.wf_iff.1 h).2

theorem Memory.flip_wf {m : Memory} (h : m.wf = true) (w bit : Nat) : (m.flip w bit).wf = true := by
  rw [Memory.wf_iff] at h ⊢
  unfold Memory.flip
  dsimp only
  split
  · exact ⟨sparseWrite_wf h.1 (Nat.zero_le _), sparseWrite_wf h.2 (Nat.zero_le _)⟩
  · exact ⟨h.1, sparseWrite_wf h.2 (Nat.zero_le _)⟩

theorem writeFlushWords_wf (b : StageBuf) (addr : Nat) (poison : List Nat) (arm : Option Arming) (m : Memory)
    (h : m.wf = true) (n : Nat) (ws : List Nat) : (writeFlushWords b addr poison arm m n ws).wf = true := by
  induction ws generalizing m n with
  | nil => exact h
  | cons w ws ih =>
    unfold writeFlushWords
    refine ih _ ?_ _
    split <;> exact Memory.writeWord_wf h ..

/-- A flush touches capture memory by its words alone. -/
theorem State.writeFlush_mem (s : State) (b : StageBuf) (addr : Nat) :
    (s.writeFlush b addr).mem =
      writeFlushWords b addr ((b.poisonUnits addr).map (·.1)) s.integ.capture.arming s.mem 0 (List.range b.words) := by
  have fold : ∀ (us : List (Nat × Nat)) (t : State),
      (us.foldl (fun s p => s.countUncorrectable .staging p.2) t).mem = t.mem := by
    intro us
    induction us with
    | nil => intro t; rfl
    | cons u us ih => intro t; exact ih _
  unfold State.writeFlush
  dsimp only
  rw [fold]
  split <;> rfl

theorem State.writeFlush_mem_wf (s : State) (b : StageBuf) (addr : Nat) (h : s.mem.wf = true) :
    (s.writeFlush b addr).mem.wf = true := by
  rw [State.writeFlush_mem]; exact writeFlushWords_wf _ _ _ _ _ h _ _

theorem State.upset_mem_wf (s : State) (u : Upset) (h : s.mem.wf = true) : (s.upset u).mem.wf = true := by
  cases u with
  | capture w b => exact Memory.flip_wf h w b
  | staging => exact h
  | replay => exact h

theorem State.upsets_mem_wf (s : State) (us : List Upset) (h : s.mem.wf = true) : (s.upsets us).mem.wf = true := by
  unfold State.upsets
  induction us generalizing s with
  | nil => exact h
  | cons u us ih => exact ih _ (State.upset_mem_wf s u h)

/-- Capture memory right after reset lists nothing: the canonical form. -/
theorem reset_mem_wf : State.reset.mem.wf = true := rfl

end Sys2Proof.Machine
end

