-- ==== Sys2Proof/Laws/Notices.lean ====
section
/-! SUPPORT. What a raise does to the counts (R194), and the raises of ARCHIVE_FAULT for the streams of a run. -/

namespace Sys2Proof.Machine

/-- A count set is read back, and no other count of the stream changes. -/
theorem StreamCounts.get_set (n : StreamCounts) (c d : StreamCat) (x : Nat) :
    (n.set c x).get d = if d = c then x else n.get d := by
  cases c <;> cases d <;> rfl

theorem DeviceCounts.get_set (n : DeviceCounts) (c d : DeviceCat) (x : Nat) :
    (n.set c x).get d = if d = c then x else n.get d := by
  cases c <;> cases d <;> rfl

/-- The counts after a raise for one stream. -/
theorem Notices.raiseStream_streamCount (n : Notices) (i j : StreamId) (c d : StreamCat) :
    (n.raiseStream i c).streamCount j d =
      if j = i ∧ d = c then min 65535 (n.streamCount i c + 1) else n.streamCount j d := by
  simp only [Notices.streamCount, Notices.raiseStream, Quad.get_set]
  by_cases hj : j = i
  · subst hj; simp only [if_true, StreamCounts.get_set, true_and]; rfl
  · simp [hj]

@[simp] theorem Notices.raiseStream_device (n : Notices) (i : StreamId) (c : StreamCat) :
    (n.raiseStream i c).device = n.device := rfl

@[simp] theorem Notices.raiseStream_mask (n : Notices) (i : StreamId) (c : StreamCat) :
    (n.raiseStream i c).mask = n.mask := rfl

/-- The counts after a device raise. -/
theorem Notices.raiseDevice_get (n : Notices) (c d : DeviceCat) :
    (n.raiseDevice c).device.get d = if d = c then min 65535 (n.device.get c + 1) else n.device.get d := by
  simp only [Notices.raiseDevice, DeviceCounts.get_set]; rfl

@[simp] theorem Notices.raiseDevice_streamCount (n : Notices) (c : DeviceCat) (i : StreamId) (d : StreamCat) :
    (n.raiseDevice c).streamCount i d = n.streamCount i d := rfl

@[simp] theorem Notices.raiseDevice_mask (n : Notices) (c : DeviceCat) : (n.raiseDevice c).mask = n.mask := rfl

/-- A raise for one stream, in the terms of the statements. -/
theorem Notices.raisedFor_raiseStream (n : Notices) (i : StreamId) (c : StreamCat) :
    n.RaisedFor (n.raiseStream i c) c (· = i) := by
  refine ⟨rfl, rfl, fun j d => ⟨?_, fun h => ?_⟩⟩
  · rintro ⟨rfl, rfl⟩; simp [Notices.raiseStream_streamCount]
  · rw [Notices.raiseStream_streamCount, if_neg h]

/-- The notices of the streams of a list that satisfy `p`, raised in turn. -/
theorem foldl_raise (p : StreamId → Bool) (c : StreamCat) (t : State) (l : List StreamId) (hl : l.Nodup) :
    ∃ n, l.foldl (fun s i => if p i then s.raise i c else s) t = { t with notices := n } ∧
      t.notices.RaisedFor n c (fun i => i ∈ l ∧ p i = true) := by
  induction l generalizing t with
  | nil => exact ⟨t.notices, rfl, rfl, rfl, fun i d => ⟨fun h => absurd h.1.1 (by simp), fun _ => rfl⟩⟩
  | cons a l ih =>
    obtain ⟨ha, hl⟩ := List.nodup_cons.mp hl
    cases hp : p a with
    | false =>
      obtain ⟨n, e, h1, h2, h3⟩ := ih t hl
      refine ⟨n, by simpa [hp] using e, h1, h2, fun i d => ⟨fun h => ?_, fun h => ?_⟩⟩
      · refine (h3 i d).1 ⟨⟨?_, h.1.2⟩, h.2⟩
        rcases List.mem_cons.mp h.1.1 with rfl | h'
        · exact absurd (hp.symm.trans h.1.2) (by simp)
        · exact h'
      · exact (h3 i d).2 fun h' => h ⟨⟨List.mem_cons_of_mem _ h'.1.1, h'.1.2⟩, h'.2⟩
    | true =>
      obtain ⟨n, e, h1, h2, h3⟩ := ih (t.raise a c) hl
      refine ⟨n, by simpa [hp] using e, by simpa using h1, by simpa using h2, fun i d => ?_⟩
      have hr : (t.raise a c).notices.streamCount i d =
          if i = a ∧ d = c then min 65535 (t.notices.streamCount a c + 1) else t.notices.streamCount i d :=
        Notices.raiseStream_streamCount ..
      refine ⟨fun h => ?_, fun h => ?_⟩
      · by_cases hi : i = a
        · subst hi
          rw [(h3 i d).2 fun h' => ha h'.1.1, hr, if_pos ⟨rfl, h.2⟩, h.2]
        · rw [(h3 i d).1 ⟨⟨(List.mem_cons.mp h.1.1).resolve_left hi, h.1.2⟩, h.2⟩, hr, if_neg fun h' => hi h'.1]
      · rw [(h3 i d).2 fun h' => h ⟨⟨List.mem_cons_of_mem _ h'.1.1, h'.1.2⟩, h'.2⟩, hr, if_neg]
        rintro ⟨rfl, rfl⟩
        exact h ⟨⟨by simp, hp⟩, rfl⟩

/-- The raises a link fault and a DISABLE make change the notices alone (R124, R126). -/
theorem raiseArchiveFaults_eq (t : State) :
    ∃ n, t.raiseArchiveFaults = { t with notices := n } ∧
      t.notices.RaisedFor n .archiveFault
        (fun i => (t.stream i).phase = .running ∨ (t.stream i).phase = .closing) := by
  have hfold : t.raiseArchiveFaults =
      StreamId.all.foldl (fun s i => if (t.stream i).active then s.raise i .archiveFault else s) t := by
    simp only [State.raiseArchiveFaults, StreamId.all, List.foldl_cons, List.foldl_nil]
    have hk : ∀ (u : State) (b : Bool) (i j : StreamId),
        ((if b then u.raise i .archiveFault else u).stream j) = u.stream j := by
      intro u b i j; cases b <;> rfl
    simp only [hk]
  obtain ⟨n, e, h1, h2, h3⟩ := foldl_raise (fun i => (t.stream i).active) .archiveFault t StreamId.all (by decide)
  refine ⟨n, hfold.trans e, h1, h2, fun i d => ?_⟩
  have hp : (i ∈ StreamId.all ∧ (t.stream i).active = true) ↔
      ((t.stream i).phase = .running ∨ (t.stream i).phase = .closing) := by
    simp [StreamId.mem_all, Stream.active]
  simpa only [hp] using h3 i d

end Sys2Proof.Machine
end

