-- ==== Sys2Proof/Laws/Requests.lean ====
section
/-! SUPPORT. What a request taken at once does to the control link: the filing, the take and the reply in one
equation each. -/

namespace Sys2Proof.Machine

/-- With no frame waiting, both inbound queues are empty. -/
@[simp] theorem shortUsed_of_takesAtOnce {s : State} (h : s.takesAtOnce) : s.ctl.shortUsed = 0 := by
  simp [Control.shortUsed, h.1]

@[simp] theorem longUsed_of_takesAtOnce {s : State} (h : s.takesAtOnce) : s.ctl.longUsed = 0 := by
  simp [Control.longUsed, h.1]

/-- A good frame that arrives when it can be taken at once is filed, taken and run. -/
theorem submit_of_takesAtOnce {s : State} (h : s.takesAtOnce) (f : InFrame) :
    s.submit f = (s.takeFrame []).runFrame f := by
  obtain ⟨hin, hslots, hhold⟩ := h
  have hfile : s.ctl.file f = { s.ctl with inbound := [f] } := by
    unfold Control.file
    have h1 : s.ctl.shortUsed = 0 := by simp [Control.shortUsed, hin]
    have h2 : s.ctl.longUsed = 0 := by simp [Control.longUsed, hin]
    simp [h1, h2, hin, shortSlots, longSlots]
  have hslots' : s.ctl.reserved + s.ctl.out.length < outSlots := hslots
  simp only [State.submit, State.modCtl, State.executor, hfile, List.length_singleton, State.execute,
    Control.mayTake, hslots', hhold, decide_true, Bool.not_false, Bool.and_true, if_true]
  simp only [State.takeFrame, State.modCtl, ← hhold]

/-- The reply of a request taken at once, built on any state that still has its reservation. -/
theorem reply_of_taken {s t : State} (h : s.takesAtOnce) (ht : t.ctl = (s.takeFrame []).ctl)
    (kind tag : Byte) (st : Status) (fields : List Byte) :
    t.reply kind tag st fields =
      ({ t with ctl := s.ctl }.answered kind tag (BitVec.ofNat 8 st.code) fields) := by
  obtain ⟨hin, -, -⟩ := h
  have h1 : t.ctl.shortUsed = 0 := by simp [ht, Control.shortUsed, State.takeFrame, State.modCtl]
  have h2 : t.ctl.longUsed = 0 := by simp [ht, Control.longUsed, State.takeFrame, State.modCtl]
  simp only [State.reply, State.modCtl, Control.reply, Control.replyFrame, Control.common, Control.shortFree,
    Control.longFree, h1, h2, State.answered, replyKind]
  simp [ht, State.takeFrame, State.modCtl, shortSlots, longSlots, hin]

end Sys2Proof.Machine
end

