-- ==== Sys2Proof/Laws/Settle.lean ====
section
/-! SUPPORT. What follows at once after a command (R19, R130, R132): the fields `settle` and its parts leave
alone, and what they can change. -/

namespace Sys2Proof.Machine

variable (s : State)

/-! ### A transfer whole -/

/-- Everything the end of a build can change: the buffer, and with an armed REPLAY its arming and the INJECTION
count. -/
theorem finishBuild_eq (e : CommitEntry) (r : Replay) :
    ∃ r', s.finishBuild e r = s.modLink (fun l => { l with replay := some r' }) ∨
      s.finishBuild e r = (s.modLink fun l => { l with replay := some r' }).disarm .replay := by
  unfold State.finishBuild
  dsimp only
  split
  · exact ⟨_, .inr rfl⟩
  · exact ⟨_, .inl rfl⟩

@[simp] theorem finishBuild_pending (e : CommitEntry) (r : Replay) : (s.finishBuild e r).pending = s.pending := by
  obtain ⟨r', h | h⟩ := finishBuild_eq s e r <;> rw [h] <;> rfl

@[simp] theorem finishBuild_mem (e : CommitEntry) (r : Replay) : (s.finishBuild e r).mem = s.mem := by
  obtain ⟨r', h | h⟩ := finishBuild_eq s e r <;> rw [h] <;> rfl

@[simp] theorem finishBuild_preview (e : CommitEntry) (r : Replay) : (s.finishBuild e r).preview = s.preview := by
  obtain ⟨r', h | h⟩ := finishBuild_eq s e r <;> rw [h] <;> rfl

@[simp] theorem finishBuild_streams (e : CommitEntry) (r : Replay) : (s.finishBuild e r).streams = s.streams := by
  obtain ⟨r', h | h⟩ := finishBuild_eq s e r <;> rw [h] <;> rfl

@[simp] theorem finishBuild_routes (e : CommitEntry) (r : Replay) : (s.finishBuild e r).routes = s.routes := by
  obtain ⟨r', h | h⟩ := finishBuild_eq s e r <;> rw [h] <;> rfl

@[simp] theorem finishBuild_pfail (e : CommitEntry) (r : Replay) : (s.finishBuild e r).pfail = s.pfail := by
  obtain ⟨r', h | h⟩ := finishBuild_eq s e r <;> rw [h] <;> rfl

@[simp] theorem finishBuild_powerFail (e : CommitEntry) (r : Replay) : (s.finishBuild e r).powerFail = s.powerFail := by
  obtain ⟨r', h | h⟩ := finishBuild_eq s e r <;> rw [h] <;> rfl

@[simp] theorem finishBuild_place (e : CommitEntry) (r : Replay) : (s.finishBuild e r).place = s.place := by
  obtain ⟨r', h | h⟩ := finishBuild_eq s e r <;> rw [h] <;> rfl

@[simp] theorem finishBuild_ctl (e : CommitEntry) (r : Replay) : (s.finishBuild e r).ctl = s.ctl := by
  obtain ⟨r', h | h⟩ := finishBuild_eq s e r <;> rw [h] <;> rfl

@[simp] theorem finishBuild_port (e : CommitEntry) (r : Replay) : (s.finishBuild e r).port = s.port := by
  obtain ⟨r', h | h⟩ := finishBuild_eq s e r <;> rw [h] <;> rfl

@[simp] theorem finishBuild_commit (e : CommitEntry) (r : Replay) :
    (s.finishBuild e r).link.commit = s.link.commit := by
  obtain ⟨r', h | h⟩ := finishBuild_eq s e r <;> rw [h] <;> rfl

@[simp] theorem finishBuild_streamCount (e : CommitEntry) (r : Replay) (i : StreamId) (c : StreamCat) :
    (s.finishBuild e r).notices.streamCount i c = s.notices.streamCount i c := by
  obtain ⟨r', h | h⟩ := finishBuild_eq s e r <;> rw [h] <;> rfl

@[simp] theorem finishBuild_mask (e : CommitEntry) (r : Replay) : (s.finishBuild e r).notices.mask = s.notices.mask := by
  obtain ⟨r', h | h⟩ := finishBuild_eq s e r <;> rw [h] <;> rfl

/-! ### The start of a build -/

/-- The start of a build does nothing, begins to fill the buffer, or fills it whole (R132). -/
theorem startBuild_cases :
    s.startBuild = s ∨
    ∃ e, s.link.sending = some e ∧ s.link.isUp = true ∧ s.link.replay = none ∧
      (s.startBuild = s.finishBuild e e.freshReplay ∨
       s.startBuild = s.modLink fun l => { l with replay := some e.freshReplay }) := by
  unfold State.startBuild
  split
  · next e hu hs hr =>
    right
    refine ⟨e, hs, hu, hr, ?_⟩
    dsimp only
    split
    · exact .inl rfl
    · exact .inr rfl
  · exact .inl rfl

@[simp] theorem startBuild_pending : (s.startBuild).pending = s.pending := by
  obtain h | ⟨e, -, -, -, h | h⟩ := startBuild_cases s
  · rw [h]
  · rw [h]; simp
  · rw [h]; rfl

@[simp] theorem startBuild_mem : (s.startBuild).mem = s.mem := by
  obtain h | ⟨e, -, -, -, h | h⟩ := startBuild_cases s
  · rw [h]
  · rw [h]; simp
  · rw [h]; rfl

@[simp] theorem startBuild_preview : (s.startBuild).preview = s.preview := by
  obtain h | ⟨e, -, -, -, h | h⟩ := startBuild_cases s
  · rw [h]
  · rw [h]; simp
  · rw [h]; rfl

@[simp] theorem startBuild_streams : (s.startBuild).streams = s.streams := by
  obtain h | ⟨e, -, -, -, h | h⟩ := startBuild_cases s
  · rw [h]
  · rw [h]; simp
  · rw [h]; rfl

@[simp] theorem startBuild_routes : (s.startBuild).routes = s.routes := by
  obtain h | ⟨e, -, -, -, h | h⟩ := startBuild_cases s
  · rw [h]
  · rw [h]; simp
  · rw [h]; rfl

@[simp] theorem startBuild_pfail : (s.startBuild).pfail = s.pfail := by
  obtain h | ⟨e, -, -, -, h | h⟩ := startBuild_cases s
  · rw [h]
  · rw [h]; simp
  · rw [h]; rfl

@[simp] theorem startBuild_powerFail : (s.startBuild).powerFail = s.powerFail := by
  obtain h | ⟨e, -, -, -, h | h⟩ := startBuild_cases s
  · rw [h]
  · rw [h]; simp
  · rw [h]; rfl

@[simp] theorem startBuild_place : (s.startBuild).place = s.place := by
  obtain h | ⟨e, -, -, -, h | h⟩ := startBuild_cases s
  · rw [h]
  · rw [h]; simp
  · rw [h]; rfl

@[simp] theorem startBuild_ctl : (s.startBuild).ctl = s.ctl := by
  obtain h | ⟨e, -, -, -, h | h⟩ := startBuild_cases s
  · rw [h]
  · rw [h]; simp
  · rw [h]; rfl

@[simp] theorem startBuild_port : (s.startBuild).port = s.port := by
  obtain h | ⟨e, -, -, -, h | h⟩ := startBuild_cases s
  · rw [h]
  · rw [h]; simp
  · rw [h]; rfl

@[simp] theorem startBuild_commit : s.startBuild.link.commit = s.link.commit := by
  obtain h | ⟨e, -, -, -, h | h⟩ := startBuild_cases s
  · rw [h]
  · rw [h]; simp
  · rw [h]; rfl

@[simp] theorem startBuild_streamCount (i : StreamId) (c : StreamCat) :
    s.startBuild.notices.streamCount i c = s.notices.streamCount i c := by
  obtain h | ⟨e, -, -, -, h | h⟩ := startBuild_cases s
  · rw [h]
  · rw [h]; simp
  · rw [h]; rfl

@[simp] theorem startBuild_mask : s.startBuild.notices.mask = s.notices.mask := by
  obtain h | ⟨e, -, -, -, h | h⟩ := startBuild_cases s
  · rw [h]
  · rw [h]; simp
  · rw [h]; rfl

/-! ### The grant -/

/-- A grant changes the port alone (R19). -/
theorem portGrant_eq : ∃ p, s.portGrant = { s with port := p } := by
  unfold State.portGrant
  split
  · exact ⟨s.port, rfl⟩
  · exact ⟨_, rfl⟩

@[simp] theorem portGrant_pending : (s.portGrant).pending = s.pending := by
  obtain ⟨p, h⟩ := portGrant_eq s; rw [h]

@[simp] theorem portGrant_mem : (s.portGrant).mem = s.mem := by
  obtain ⟨p, h⟩ := portGrant_eq s; rw [h]

@[simp] theorem portGrant_preview : (s.portGrant).preview = s.preview := by
  obtain ⟨p, h⟩ := portGrant_eq s; rw [h]

@[simp] theorem portGrant_streams : (s.portGrant).streams = s.streams := by
  obtain ⟨p, h⟩ := portGrant_eq s; rw [h]

@[simp] theorem portGrant_routes : (s.portGrant).routes = s.routes := by
  obtain ⟨p, h⟩ := portGrant_eq s; rw [h]

@[simp] theorem portGrant_pfail : (s.portGrant).pfail = s.pfail := by
  obtain ⟨p, h⟩ := portGrant_eq s; rw [h]

@[simp] theorem portGrant_powerFail : (s.portGrant).powerFail = s.powerFail := by
  obtain ⟨p, h⟩ := portGrant_eq s; rw [h]

@[simp] theorem portGrant_place : (s.portGrant).place = s.place := by
  obtain ⟨p, h⟩ := portGrant_eq s; rw [h]

@[simp] theorem portGrant_ctl : (s.portGrant).ctl = s.ctl := by
  obtain ⟨p, h⟩ := portGrant_eq s; rw [h]

@[simp] theorem portGrant_link : (s.portGrant).link = s.link := by
  obtain ⟨p, h⟩ := portGrant_eq s; rw [h]

@[simp] theorem portGrant_integ : (s.portGrant).integ = s.integ := by
  obtain ⟨p, h⟩ := portGrant_eq s; rw [h]

@[simp] theorem portGrant_notices : (s.portGrant).notices = s.notices := by
  obtain ⟨p, h⟩ := portGrant_eq s; rw [h]

/-! ### All of it -/

@[simp] theorem settle_pending : s.settle.pending = s.pending := by
  simp [State.settle]

@[simp] theorem settle_mem : s.settle.mem = s.mem := by
  simp [State.settle]

@[simp] theorem settle_preview : s.settle.preview = s.preview := by
  simp [State.settle]

@[simp] theorem settle_streams : s.settle.streams = s.streams := by
  simp [State.settle]

@[simp] theorem settle_routes : s.settle.routes = s.routes := by
  simp [State.settle]

@[simp] theorem settle_pfail : s.settle.pfail = s.pfail := by
  simp [State.settle]

@[simp] theorem settle_powerFail : s.settle.powerFail = s.powerFail := by
  simp [State.settle]

@[simp] theorem settle_place : s.settle.place = s.place := by
  simp [State.settle]

@[simp] theorem settle_ctl : s.settle.ctl = s.ctl := by
  simp [State.settle]

/-- The commit list after `settle`: the earliest READY entry may have become SENDING (R130). -/
@[simp] theorem settle_commit : s.settle.link.commit = s.link.selectSending.commit := by
  simp [State.settle]

@[simp] theorem settle_streamCount (i : StreamId) (c : StreamCat) :
    s.settle.notices.streamCount i c = s.notices.streamCount i c := by
  simp [State.settle]

@[simp] theorem settle_mask : s.settle.notices.mask = s.notices.mask := by
  simp [State.settle]

@[simp] theorem settle_stream (i : StreamId) : s.settle.stream i = s.stream i := by
  show s.settle.streams.get i = _
  rw [settle_streams]; rfl

end Sys2Proof.Machine
end

