-- ==== Sys2Proof/Laws/Staging.lean ====
section
/-! SUPPORT. What a staging write does to its buffer, and that stops leave the integrity monitor alone (R32, R156,
R173). -/

namespace Sys2Proof.Machine
variable (s : State)

@[simp] theorem StageBuf.inject_count (b : StageBuf) (o : Nat) (g : Arming) : (b.inject o g).count = b.count := by
  unfold StageBuf.inject
  generalize g.positions = l
  induction l generalizing b with
  | nil => rfl
  | cons q l ih => rw [List.foldl_cons, ih]; split <;> rfl

@[simp] theorem StageBuf.flipped_count (b : StageBuf) (d : Option StageWrite) : (b.flipped d).count = b.count := by
  unfold StageBuf.flipped; split <;> simp

@[simp] theorem Writer.stage_count (w : Writer) (bytes : List Byte) (armed : Option Arming) :
    (w.stage bytes armed).fillBuf.count = w.fillBuf.count + bytes.length := by
  simp [Writer.stage, StageBuf.append]

/-- A sample joins a write that has taken no flip: its bytes are appended and nothing else (R32). -/
theorem Writer.stage_plain {w : Writer} {armed : Option Arming} (bytes : List Byte)
    (h : match w.write with | none => armed = none | some d => d.flip = none) :
    w.stage bytes armed = { w with fillBuf := w.fillBuf.append bytes, write := some (w.writeOf armed) } := by
  cases hw : w.write with
  | none => simp_all [Writer.stage, Writer.writeOf, StageBuf.flipped]
  | some d =>
    obtain ⟨o, f⟩ := d
    simp_all [Writer.stage, Writer.writeOf, StageBuf.flipped]

/-- A stop request leaves the integrity monitor as it is (R156). -/
@[simp] theorem startSeal_integ (i : StreamId) : (s.startSeal i).integ = s.integ := by
  unfold State.startSeal; dsimp only; split <;> simp
@[simp] theorem stopWriter_integ (i : StreamId) : (s.stopWriter i).integ = s.integ := by
  unfold State.stopWriter; split <;> simp
@[simp] theorem requestStop_integ (i : StreamId) (r : CloseReason) : (s.requestStop i r).integ = s.integ := by
  unfold State.requestStop; dsimp only; split
  · rfl
  · split <;> simp
end Sys2Proof.Machine
end

