-- ==== Sys2Proof/Laws/Windows.lean ====
section
/-! SUPPORT. The low state (R119), windows and address ranges (R108 to R113). -/

namespace Sys2Proof.Machine

/-- Everything an evaluation of the low state does. -/
theorem evalLow_eq (t : State) (b : Bool) (h : t.belowThreshold = b) :
    t.evalLow =
      if b = true ∧ t.place.low = false then
        ({ t with place := { t.place with low := b } } : State).raiseDev .windowLow
      else { t with place := { t.place with low := b } } := by
  unfold State.evalLow
  rw [h]
  cases hb : b <;> cases hl : t.place.low <;> simp [State.modPlace]

/-- Two ranges meet exactly when they share a byte. -/
theorem rangesMeet_iff (a lenA b lenB : Nat) :
    rangesMeet a lenA b lenB = true ↔ ∃ x, a ≤ x ∧ x < a + lenA ∧ b ≤ x ∧ x < b + lenB := by
  unfold rangesMeet
  rw [decide_eq_true_iff]
  constructor
  · intro h; exact ⟨max a b, by omega, by omega, by omega, by omega⟩
  · rintro ⟨x, h1, h2, h3, h4⟩; omega

theorem rangesMeet_comm (a lenA b lenB : Nat) : rangesMeet a lenA b lenB = rangesMeet b lenB a lenA := by
  simp only [rangesMeet]; congr 1; apply propext; omega

/-- A range that meets no byte of another meets no byte of a part of it. -/
theorem rangesMeet_part {a lenA b lenB c lenC : Nat} (h : rangesMeet a lenA b lenB = false)
    (hc : b ≤ c) (hl : c + lenC ≤ b + lenB) : rangesMeet a lenA c lenC = false := by
  simp only [rangesMeet, decide_eq_false_iff_not] at h ⊢
  omega

/-- What serving a request from the current window answers (R111). -/
theorem serveWindow_some {size a : Nat} {ws ws' : List Window} (h : serveWindow size ws = some (a, ws')) :
    ∃ w rest, ws = w :: rest ∧ size ≤ w.remainder ∧ a = w.start + w.next ∧
      (ws' = rest ∧ w.remainder = size ∨
       ws' = { w with next := w.next + size } :: rest ∧ size < w.remainder) := by
  cases ws with
  | nil => simp [serveWindow] at h
  | cons w rest =>
    simp only [serveWindow] at h
    split at h
    · simp at h
    · split at h
      · simp only [Option.some.injEq, Prod.mk.injEq] at h
        exact ⟨w, rest, rfl, by omega, h.1.symm, .inl ⟨h.2.symm, by assumption⟩⟩
      · simp only [Option.some.injEq, Prod.mk.injEq] at h
        exact ⟨w, rest, rfl, by omega, h.1.symm, .inr ⟨h.2.symm, by omega⟩⟩

/-- A misfit retirement leaves the list or takes its current window away (R112). -/
theorem retireMisfit_cases (size : Nat) (ws : List Window) :
    retireMisfit size ws = (ws, 0) ∨
    ∃ w rest, ws = w :: rest ∧ w.remainder < size ∧ retireMisfit size ws = (rest, w.remainder) := by
  cases ws with
  | nil => left; rfl
  | cons w rest =>
    by_cases h : w.remainder < size
    · right; exact ⟨w, rest, rfl, h, by simp [retireMisfit, h]⟩
    · left; simp [retireMisfit, h]

end Sys2Proof.Machine
end

