-- ==== Sys2Proof/Tests/Slice0.lean ====
section
/-! SUPPORT. Tests: the checks of WellFormed, values the manual works out, and for each statement a state that
meets its hypotheses. -/

open Sys2Proof Sys2Proof.Machine

namespace Sys2Proof.Tests

-- Each test is checked before the next begins: many at once would take a thread's stack each.
set_option Elab.async false

/-! ### WellFormed: an ill-formed command for each check, and well-formed neighbours -/

theorem test_wf_beat_length : Instr.wf (.beatArrival .s0 (zeros 63) none) = false := by decide +kernel
theorem test_wf_beat_mark : Instr.wf (.beatArrival .s0 (zeros 64) (some 64)) = false := by decide +kernel
theorem test_wf_capture_word : Instr.wf (.flushComplete [.capture 2147483648 0]) = false := by decide +kernel
theorem test_wf_capture_bit : Instr.wf (.flushComplete [.capture 0 72]) = false := by decide +kernel
theorem test_wf_staging_slot : Instr.wf (.drainReadComplete [.staging .s0 2 false 0]) = false := by decide +kernel
theorem test_wf_staging_parity : Instr.wf (.previewReadComplete [.staging .s0 0 true 512]) = false := by decide +kernel
theorem test_wf_staging_bit : Instr.wf (.writeSend [.staging .s0 0 false 32768]) = false := by decide +kernel
theorem test_wf_replay_parity : Instr.wf (.writeSend [.replay true 512]) = false := by decide +kernel
theorem test_wf_replay_bit : Instr.wf (.retry [.replay false 32768]) = false := by decide +kernel
theorem test_wf_opener_write : Instr.wf (.badOpener 0xA7#8) = false := by decide +kernel
theorem test_wf_opener_read : Instr.wf (.badOpener 0xB4#8) = false := by decide +kernel
theorem test_wf_known_kind : Instr.wf (.unknownRequest 0#8 0x14#8 []) = false := by decide +kernel
theorem test_wf_long_body : Instr.wf (.unknownRequest 0#8 0x15#8 (zeros 257)) = false := by decide +kernel
theorem test_wf_good : ([.beatArrival .s0 (zeros 64) (some 63), .flushComplete [.capture 2147483647 71],
    .retry [.staging .s3 1 true 511, .replay false 32767], .badOpener 0x00#8,
    .unknownRequest 0#8 0x00#8 (zeros 256)] : List Instr).all Instr.wf = true := by decide +kernel

/-! ### Check codes (R106, R177: the digits 1 to 9) -/

/-- The nine ASCII bytes of the digits 1 to 9. -/
def digits : List Byte := [0x31#8, 0x32#8, 0x33#8, 0x34#8, 0x35#8, 0x36#8, 0x37#8, 0x38#8, 0x39#8]

theorem test_crc16 : crc16 digits = 0x29B1#16 := by decide +kernel
theorem test_crc32 : crc32 digits = 0xCBF43926#32 := by decide +kernel

/-! ### Small states -/

/-- A configuration of 8 blocks. -/
def cfg (w : Width) (p : Policy) : StreamCfg where
  base := 0
  count := 8
  width := w
  intervalInt := 1000
  intervalFrac := 0
  kmin := 0
  kmax := 2
  policy := p
  high := 6
  low := 2
  extent := 4096
  flushAge := 10
  cutOnMark := false
  fillValue := 0x55

/-- A configured stream. -/
def idle (w : Width) (p : Policy) : Stream :=
  { Stream.reset with cfg := cfg w p, phase := .idle, spare := List.range' 0 8 }

/-- A stream waiting for its start event. -/
def armed (m : StartMode) : Stream := { idle .w8 .dropNew with phase := .armed, startMode := m }

/-- A RUNNING stream with a beat in hand, its writer in a mode at an index with a k. -/
def running (p : Policy) (m : WriterMode) (n k : Nat) : Stream :=
  let x := runEntered (idle .w8 p)
  { x with writer := { x.writer with mode := m, index := n, k := k, beat := zeros 64 } }

/-- The state after reset with a stream put in place of S0. -/
def on (x : Stream) : State := State.reset.setStream .s0 x

/-- A capture-list entry. -/
def entry (b : Nat) (st : BlockState) (first kept : Nat) : Entry := ⟨b, st, first, 0, kept, none, 0, false⟩

/-- The same with a gap_before. -/
def gapped (e : Entry) (len : Nat) (c : Causes) : Entry := { e with gap := some ⟨len, c⟩ }

/-- A commit-list entry of S0. -/
def rec (seq : Nat) (b : RecBody) (st : CommitState) (addr : Option Nat) : CommitEntry where
  stream := .s0
  seq := seq
  header := ⟨1, 0, 0, false, false⟩
  body := b
  covEnd := 0
  size := b.size
  addr := addr
  st := st
  placements := 1
  xfer := ⟨0, false, 0, [], false, 0xFFFFFFFF#32, []⟩
  cause := none
  code := none
  timer := if st = .awaitCommit then some 100 else none

/-- A MARK record. -/
def mark : RecBody := .markRec 5 .host 0

/-- The state with the link UP and a commit list. -/
def linked (s : State) (l : List CommitEntry) : State :=
  { s with link := { s.link with state := .up, commit := l } }

/-- The state with windows listed. -/
def granted (s : State) (ws : List Window) : State := { s with place := { s.place with windows := ws } }

/-- The state with an access granted. -/
def port (s : State) (a : Access) : State := { s with port := { s.port with granted := some a } }

/-- The state a command answers. -/
def after (c : Instr) (s : State) : State := match exec c s with | .next t => t | _ => s

/-! ### Values the manual works out -/

/-- Section 3.3: an interval of 333 ps and 5,592,405 ÷ 2^24, with an epoch. -/
def slow (epoch : Nat) : Stream :=
  { Stream.reset with cfg := { cfg .w8 .dropNew with intervalInt := 333, intervalFrac := 5592405 }, epoch := epoch }

theorem test_timestamps : ((slow 0).header 393216 false).stamp = 131071999 ∧
    ((slow 0).header 1572864 false).stamp = 524287999 := by decide +kernel
theorem test_timestamps_saturate :
    ((slow 18446744073709550616).header 3 false).saturated = false ∧
    ((slow 18446744073709550616).header 3 false).stamp = 18446744073709551615 ∧
    ((slow 18446744073709550616).header 4 false).saturated = true := by decide +kernel

/-- Section 6.7, its first three placements and the exact fill. -/
theorem test_misfit :
    let s := granted State.reset [⟨1073741824, 33554432, 33030144⟩, ⟨4294967296, 33554432, 0⟩]
    let a := s.placeRequest 512
    let b := a.1.placeRequest 1049088
    a.2 = some 1106771968 ∧ b.2 = some 4294967296 ∧ b.1.place.abandoned = 523776 ∧
    b.1.place.remaining = 32505344 := by decide +kernel
theorem test_exact_fill :
    let a := (granted State.reset [⟨4294967296, 33554432, 33291776⟩]).placeRequest 262656
    let b := a.1.placeRequest 512
    a.2 = some 4328259072 ∧ a.1.place.windows = [] ∧ a.1.place.abandoned = 0 ∧
    b.2 = none ∧ b.1.place.starved = true ∧ b.1.notices.device.windowEmpty = 1 := by decide +kernel

/-- Section 2.6: the first victim, and section 5.11: a victim with a gap_before of its own. -/
theorem test_victim :
    (victimList 2097152 0 [entry 201 .draining 262144 262144, { entry 202 .full 524288 262144 with pins := 1 },
      entry 203 .full 786432 262144, entry 204 .full 1048576 262144]).map (·.1) =
    some [entry 201 .draining 262144 262144, { entry 202 .full 524288 262144 with pins := 1 },
      gapped (entry 204 .full 1048576 262144) 262144 .oldOnly, entry 203 .filling 2097152 0] := by decide +kernel
theorem test_victim_gap :
    (victimList 1179648 0 [gapped (entry 41 .full 393216 262144) 131072 .newOnly,
      entry 42 .full 655360 262144]).map (·.1) =
    some [gapped (entry 42 .full 655360 262144) 393216 ⟨true, true, false⟩, entry 41 .filling 1179648 0] := by
  decide +kernel

/-- Section 2.7: the take fails, and the resumption at the boundary. -/
theorem test_drop :
    let t := after (.sampleProcess .s0) (on { running .dropNew .noBlock 655360 0 with spare := [] })
    (t.stream .s0).writer.mode = .dropping ∧ (t.stream .s0).writer.dropStart = 655360 ∧
    t.notices.streamCount .s0 .gap = 1 := by decide +kernel
theorem test_resume :
    let x := running .dropNew .dropping 786432 0
    let t := after (.sampleProcess .s0) (on { x with writer := { x.writer with dropStart := 655360 } })
    (t.stream .s0).capture = [gapped (entry 0 .filling 786432 1) 131072 .newOnly] ∧
    (t.stream .s0).writer.index = 786433 := by decide +kernel

/-- R156, R168: an abort under a PREVIEW counts no error of a staged word; the preview reader counts it when it reads
the word. -/
theorem test_abort_counts_nothing :
    let x := running .dropNew .filling 8 0
    let b : StageBuf := { StageBuf.empty.append (zeros 8) with parity := [true] }
    let s : State := { on { x with
        capture := [{ (⟨0, .filling, 0, 0, 4104, none, 1, false⟩ : Entry) with st := .filling }],
        writer := { x.writer with filling := some 0, fillOffset := 4096, fillBuf := b } } with
      preview := some ⟨.s0, 1#8, 0, .w8, 4095, [.held 0 4095 9], [], 0, [0]⟩,
      port := ⟨some (.preview 4095 1 true), .s0, .preview⟩ }
    let t := after (.runAbort 1#8 0#8) s
    let u := after (.previewReadComplete []) t
    t.integ = s.integ ∧ t.notices.device = s.notices.device ∧
    u.integ.staging.uncorrectable = 1 ∧ u.integ.staging.uncorrAddr = some 4096 ∧ u.preview = none := by decide +kernel

/-- R19, R159: the errors of a read whose reader has gone are counted. -/
theorem test_discarded_read_counts :
    let s : State := { State.reset with
      mem := ⟨[], [(0, ⟨1#64, 0#8, false⟩), (8, ⟨3#64, 0#8, false⟩)]⟩,
      port := ⟨some (.drain 0 128 0 false), .s0, .drain⟩ }
    let t := after (.drainReadComplete []) s
    t.integ.capture = ⟨1, 1, some 0, some 64, .first, none⟩ ∧ t.port.granted = none ∧ t.link = s.link := by
  decide +kernel

/-- Section 5.12: the fill fractions 5 ÷ 8, 40 ÷ 62 and 20 ÷ 32. -/
def filled (count retired l : Nat) : Stream :=
  let x := runEntered (idle .w8 .dropNew)
  { x with
    cfg := { x.cfg with count := count }, retired := List.range retired,
    capture := (List.range l).map fun n => entry n .drained (n * 10) 10 }

theorem test_arbiter :
    (((on (filled 8 0 5)).setStream .s1 (filled 64 2 40)).setStream .s2 (filled 32 0 20)).chooseStream = some .s1 ∧
    ((on (filled 8 0 5)).setStream .s2 (filled 32 0 20)).chooseStream = some .s0 := by decide +kernel

/-- Section 11.2: the header of DATA seq 2. -/
def worked : CommitEntry :=
  { rec 2 (.dataRec 524288 0 75712 .w16 [⟨4, 0, 151424⟩]) .ready (some 1049600) with
    header := ⟨23, 524288, 524288000, false, true⟩ }

theorem test_header : worked.headerBytes =
    [0x5A#8, 0xC3#8, 0x02#8, 0x00#8, 0x17#8, 0#8, 0#8, 0#8, 0x02#8, 0#8, 0#8, 0#8, 0#8, 0#8, 0#8, 0#8,
     0#8, 0#8, 0x08#8, 0#8, 0#8, 0#8, 0x02#8, 0#8, 0#8, 0#8, 0x40#8, 0x1F#8, 0#8, 0#8, 0#8, 0#8,
     0#8, 0x52#8, 0x02#8, 0#8, 0x80#8, 0x4F#8, 0x02#8, 0#8, 0#8, 0x10#8, 0#8, 0#8, 0xC0#8, 0x27#8, 0x01#8, 0#8] ++
    zeros 16 := by decide +kernel
theorem test_transfers : worked.size = 152064 ∧
    transferLengths 152065 worked = List.replicate 37 4096 ++ [512] := by decide +kernel

/-- Section 8.4: a span that merges, and the ninth span, which extends the eighth. -/
theorem test_spans :
    addSpans [⟨48000, 64⟩] [⟨0, 64⟩, ⟨1920, 32⟩, ⟨7040, 32⟩, ⟨12160, 32⟩, ⟨17280, 32⟩, ⟨22400, 32⟩, ⟨27520, 32⟩,
      ⟨32640, 32⟩] false =
    ([⟨0, 64⟩, ⟨1920, 32⟩, ⟨7040, 32⟩, ⟨12160, 32⟩, ⟨17280, 32⟩, ⟨22400, 32⟩, ⟨27520, 32⟩, ⟨32640, 15424⟩], true) ∧
    addSpans [⟨32, 32⟩] [⟨0, 32⟩] false = ([⟨0, 64⟩], false) := by decide +kernel

/-! ### States that meet the hypotheses of the statements -/

/-- The state after reset takes a request at once. -/
theorem test_takes_at_once : State.reset.takesAtOnce := ⟨rfl, by decide, rfl⟩

/-- So does any state whose control link is as after reset. -/
theorem takes {s : State} (h : s.ctl = Control.reset) : s.takesAtOnce := by
  unfold State.takesAtOnce; rw [h]; decide

/-- A reply frame. -/
def reply : OutFrame := ⟨outFrame 0x81#8 0#8 [0#8], false⟩

/-- The state with frames queued and a read period in progress. -/
def reads (out : List OutFrame) (r : Option ReadPeriod) : State :=
  { State.reset with ctl := { Control.reset with out := out, reading := r } }

theorem test_StepRunsTheFrontCommand :
    ({ State.reset with pending := [.cut, .rst] } : State).pending = .cut :: [.rst] := rfl
theorem test_CommandsKeepTheQueue : exec .cut State.reset = .next State.reset := rfl
theorem test_RequestFramesRoundTrip : (⟨0x0C#8, 1#8, zeros 256⟩ : InFrame).body.length ≤ 256 := by decide +kernel

theorem test_BadAndWaitingFrames :
    [1#8, 2#8, 3#8].length < 4 ∧ 256 < (1#8).toNat + 256 * (1#8).toNat ∧
    ([0#8] : List Byte).length ≠ (0#8).toNat + 256 * (0#8).toNat + 2 ∧
    (0#8).toNat + 256 * (0#8).toNat ≠ (crc16 [0#8, 0#8, 0#8, 0#8]).toNat ∧
    (zeros 256).length = (0#8).toNat + 256 * (1#8).toNat := by decide +kernel
theorem test_waiting_frames :
    let full := reads (List.replicate 8 reply) none
    let held : State := { State.reset with ctl := { Control.reset with resetHold := true } }
    8 ≤ full.ctl.reserved + full.ctl.out.length ∧ held.ctl.resetHold = true ∧
    (zeros 32).length ≤ 32 ∧ ¬ (zeros 33).length ≤ 32 ∧ (zeros 256).length ≤ 256 := by decide +kernel

theorem test_IdentAndUnknownKinds : 20 < (21#8 : Byte).toNat ∧ kindLength 20#8 = some 0 ∧
    kindLength 2#8 = some 38 ∧ (zeros 256).length ≤ 256 ∧ (zeros 256).length ≠ 38 := by decide +kernel

theorem test_PeriodsOpenAndEnd :
    let s := reads [reply] (some ⟨reply.bytes, true⟩)
    let t := reads [reply] (some ⟨[], false⟩)
    (0xA6#8 : Byte) ≠ 0xA7#8 ∧ (0xA6#8 : Byte) ≠ 0xB4#8 ∧ s.ctl.out = reply :: [] ∧ State.reset.ctl.out = [] ∧
    s.ctl.reading = some ⟨reply.bytes, true⟩ ∧ reply.isReset = false ∧ s.ctl.inbound = [] ∧
    t.ctl.reading = some ⟨[], false⟩ ∧ (reads [] (some ⟨[], false⟩)).ctl.reading = some ⟨[], false⟩ ∧
    State.reset.ctl.reading = none ∧
    reply.bytes.length - 1 < reply.bytes.length := by decide +kernel

/-- The bytes of CL_SDO in a read period of the part after reset, its queues free: 0x00 during the opener, the empty
frame of section 11.3 up to its CRC, and 0x00 past its end (R175, R180). -/
theorem test_read_period_sdo :
    let t := State.reset.readPeriodStart
    (List.range 8).map t.sdo = [0#8, 0x7A#8, 0#8, 0#8, 2#8, 0#8, 16#8, 2#8] ∧ t.sdo 10 = 0#8 ∧ t.sdo 4000 = 0#8 ∧
    State.reset.sdo 1 = 0#8 := by decide +kernel

/-- An accepted set-up with the pool at the top of capture memory and the flush age at its maximum. -/
def setup (stream base count : Nat) : SetupFields where
  stream := BitVec.ofNat 8 stream
  width := 8#8
  kmin := 0#8
  kmax := 7#8
  policy := 2#8
  cutOnMark := 1#8
  flushAge := 10000#16
  base := BitVec.ofNat 32 base
  count := BitVec.ofNat 32 count
  intervalInt := 0#32
  intervalFrac := 16777215#32
  high := 8#32
  low := 7#32
  extent := 16777216#32
  fillValue := 255#16

theorem test_StreamSetup :
    let f := setup 0 65528 8
    setupInRange f ∧ ¬ State.reset.poolTaken .s0 f.base.toNat f.count.toNat ∧ f.stream.toNat = StreamId.s0.num ∧
    (State.reset.stream .s0).phase = .unconfigured ∧ f.width.toNat = Width.w8.code ∧
    f.policy.toNat = Policy.decimate.code ∧ (setup 0 0 0).count = 0#32 := by
  refine ⟨by unfold setupInRange; decide +kernel, ?_, by decide, rfl, rfl, rfl, rfl⟩
  rintro ⟨j, -, h, -⟩
  cases j <;> exact h rfl
theorem test_stream_setup_refused :
    let s := State.reset.setStream .s1 { idle .w8 .dropNew with cfg := { cfg .w8 .dropNew with base := 7 } }
    3 < (setup 4 0 8).stream.toNat ∧ ((on (armed .aux0)).stream .s0).phase = .armed ∧
    ¬ setupInRange (setup 0 0 7) ∧ setupInRange (setup 0 0 8) ∧ s.poolTaken .s0 0 8 := by
  refine ⟨by decide, rfl, ?_, by unfold setupInRange; decide +kernel, .s1, by decide, by decide, 7, ?_⟩
  · unfold setupInRange; decide +kernel
  · decide +kernel

/-- RUN_START's fields for S0. -/
def start (mode present index len : Nat) : StartFields where
  stream := 0#8
  mode := BitVec.ofNat 8 mode
  lengthPresent := BitVec.ofNat 8 present
  runId := 23#32
  startIndex := BitVec.ofNat 48 index
  epoch := 0#64
  runLength := BitVec.ofNat 48 len

theorem test_RunStartStartsOrRefuses :
    let s := on (idle .w8 .dropNew)
    let f := start 3 1 281474976448512 1
    s.ctl = Control.reset ∧ f.stream.toNat = StreamId.s0.num ∧ (s.stream .s0).phase = .idle ∧
    s.powerFail = false ∧ f.mode.toNat = StartMode.laneTrigger.code ∧ f.startIndex.toNat % 131072 = 0 ∧
    f.startIndex.toNat < 2 ^ 48 - 131072 ∧ f.runLength ≠ 0#48 ∧
    (start 0 0 0 0).mode.toNat = StartMode.immediate.code ∧ (start 0 0 0 0).lengthPresent = 0#8 := by
  decide +kernel
theorem test_run_start_refused :
    let s := on (idle .w8 .dropNew)
    3 < (4#8 : Byte).toNat ∧ (State.reset.stream .s0).phase ≠ .idle ∧
    ({ s with powerFail := true } : State).powerFail = true ∧ 3 < (start 4 0 0 0).mode.toNat ∧
    (start 0 0 1 0).startIndex.toNat % 131072 ≠ 0 ∧ 2 ^ 48 - 131072 ≤ (start 0 0 281474976579584 0).startIndex.toNat ∧
    (start 0 1 0 0).lengthPresent ≠ 0#8 ∧ (start 0 1 0 0).runLength = 0#48 := by decide +kernel

theorem test_RunStopStops :
    let s := on (running .dropNew .filling 131075 3)
    let t := on (running .dropNew .noBlock 131080 3)
    s.ctl = Control.reset ∧ (s.stream .s0).phase = .running ∧ (s.stream .s0).writer.stop = none ∧
    2 ^ (s.stream .s0).writer.k ∣ 131080 ∧ (s.stream .s0).writer.index < 131080 ∧
    131080 < (s.stream .s0).writer.index + 2 ^ (s.stream .s0).writer.k ∧
    (t.stream .s0).writer.index = 131080 ∧ (t.stream .s0).writer.mode = .noBlock ∧
    (t.stream .s0).phase = .running ∧ ((on (armed .aux1)).stream .s0).phase = .armed := by decide +kernel

/-- R33, R43, R45: at its stop index (k 0) a FILLING writer with staged bytes seals through their flush and one without
seals at once; a DROPPING one hands its drop gap on; a SEALING one goes on. -/
theorem test_stops_where_it_stands :
    let stop (x : Stream) : Stream := (after (.runStop 1#8 0#8) (on x)).stream .s0
    let l := [entry 0 .filling 0 5]
    let f : Stream := { running .dropNew .filling 5 0 with capture := l }
    let b : Stream := { f with writer := { f.writer with fillBuf := StageBuf.empty.append [1#8], filling := some 0 } }
    let d : Stream := { running .dropNew .dropping 5 0 with
      writer := { (running .dropNew .dropping 5 0).writer with dropStart := 3 } }
    (stop f).capture = [entry 0 .full 0 5] ∧ (stop f).writer.mode = .stopped ∧ (stop f).endIndex = 5 ∧
    (stop b).writer.mode = .sealing ∧ (stop b).writer.awaiting.length = 1 ∧ (stop b).capture = l ∧
    (stop d).cutter.tailGap = some ⟨3, 5, .newOnly, 0⟩ ∧ (stop d).writer.mode = .stopped ∧
    (stop (running .dropNew .sealing 5 0)).writer.mode = .sealing := by decide +kernel

/-- R156: a stop within a beat leaves the arming of STAGING for the next write. -/
theorem test_stop_leaves_monitor :
    let x : Stream := { running .dropNew .filling 5 0 with capture := [entry 0 .filling 0 5] }
    let s := on { x with writer := { x.writer with
      fillBuf := StageBuf.empty.append [1#8], filling := some 0, write := some ⟨0, none⟩ } }
    let t : State := { s with integ := { s.integ with staging := { MemMon.reset with arming := some ⟨true, 0, none⟩ } } }
    t.integ.staging.arming ≠ none ∧ (after (.runStop 1#8 0#8) t).integ = t.integ ∧
    (after .pfailAssert t).integ = t.integ ∧
    ((after (.runStop 1#8 0#8) t).stream .s0).writer.write = none := by decide +kernel

theorem test_RunAbortAborts :
    let s := on (running .dropNew .filling 5 0)
    (s.stream .s0).phase = .running ∧ (s.stream .s0).drain = .flowing ∧
    ((on (armed .aux1)).stream .s0).phase = .armed ∧ ((on (idle .w8 .dropNew)).stream .s0).phase = .idle := by
  decide +kernel

theorem test_abort_beside_preview :
    let s : State := { on (running .dropNew .filling 5 0) with
      preview := some ⟨.s0, 1#8, 0, .w8, 0, [.held 0 0 5], [], 0, [0]⟩, port := ⟨some (.flush .s0 0 none), .s1, .drain⟩ }
    (s.stream .s0).phase = .running ∧ (s.stream .s0).drain = .flowing ∧ s.link.state ≠ .up ∧
    (s.preview.map (·.stream)) = some .s0 ∧ s.port.granted = some (.flush .s0 0 none) ∧
    State.reset.preview = none := by decide +kernel

/-- A BLOCKED stream with a STUCK DATA record, a STUCK GAP record and a MARK record. -/
def blocked : State :=
  linked (on { running .dropNew .filling 131072 0 with drain := .blocked })
    [rec 1 (.dataRec 0 0 100 .w8 [⟨0, 0, 100⟩]) .stuck none, rec 2 (.gapRec 100 4 .oldOnly 0) .stuck none,
     rec 3 mark .stuck none]

theorem test_StuckEntriesAreFreed :
    (blocked.stream .s0).drain = .blocked ∧ (blocked.stream .s0).phase = .running ∧
    blocked.ctl = Control.reset ∧
    blocked.link.commit[0]? = some (rec 1 (.dataRec 0 0 100 .w8 [⟨0, 0, 100⟩]) .stuck none) ∧
    blocked.link.commit[1]? = some (rec 2 (.gapRec 100 4 .oldOnly 0) .stuck none) ∧
    mark.isData = false ∧ (State.reset.stream .s0).drain = .flowing := by decide +kernel

/-- R102: the samples of a replaced DATA record pass to the gap total; a record that is not STUCK stays. -/
theorem test_stuck_totals :
    let x := blocked.stream .s0
    let s : State := blocked.setStream .s0 { x with cutter := { x.cutter with kept := 150, covered := 150, gapTotal := 4 } }
    let other : CommitEntry := { rec 9 mark .awaitCommit (some 512) with stream := .s1 }
    let s : State := { s with link := { s.link with commit := s.link.commit ++ [other] } }
    let t := after (.runAbort 1#8 0#8) s
    (t.stream .s0).cutter.kept = 50 ∧ (t.stream .s0).cutter.covered = 50 ∧ (t.stream .s0).cutter.gapTotal = 104 ∧
    s.link.commit[3]? = some other ∧ other.stream ≠ .s0 ∧ t.link.commit[3]? = some other := by decide +kernel

theorem test_RoutesAndHostMarks :
    let s := on (running .dropNew .filling 5 0)
    let full := on { running .dropNew .filling 5 0 with markers := List.replicate 32 ⟨1, .host, 0⟩ }
    (3#8 : Byte).toNat = EdgeSel.both.code ∧ 1 < (2#8 : Byte).toNat ∧ 3 < (4#8 : Byte).toNat ∧
    (s.stream .s0).phase = .running ∧ (s.stream .s0).markers.length < 32 ∧
    (full.stream .s0).phase = .running ∧ 32 ≤ (full.stream .s0).markers.length ∧
    (State.reset.stream .s0).phase ≠ .running := by decide +kernel

theorem test_WindowGrantRules :
    let n : BitVec 48 := 33554432#48
    let a : BitVec 48 := BitVec.ofNat 48 (2 ^ 48 - 33554432)
    let w : Window := ⟨0, 33554432, 0⟩
    a.toNat % 512 = 0 ∧ n.toNat % 512 = 0 ∧ 33554432 ≤ n.toNat ∧ a.toNat + n.toNat ≤ 2 ^ 48 ∧
    ¬ 33554432 ≤ (33553920#48 : BitVec 48).toNat ∧
    (State.reset.place.windows.length < 16 ∧ State.reset.link.commit = []) ∧
    (granted State.reset [w]).place.windows = [w] ∧ (33553920 < w.start + w.length) ∧
    16 ≤ (granted State.reset (List.replicate 16 w)).place.windows.length ∧
    w.start + w.length ≤ a.toNat ∧ (rec 0 mark .ready (some 512)).addr = some 512 := by decide +kernel
theorem test_remaining_whole_space :
    let s := granted State.reset [⟨0, 140737488355328, 0⟩]
    s.place.remaining + (140737488355328#48 : BitVec 48).toNat = 2 ^ 48 ∧
    (granted s [⟨0, 140737488355328, 0⟩, ⟨140737488355328, 140737488355328, 0⟩]).place.remaining = 2 ^ 48 ∧
    State.reset.place.remaining < 2 ^ 48 := by decide +kernel

theorem test_LinkControlSwitches : State.reset.link.state = .disabled ∧
    (linked State.reset []).link.state ≠ .disabled ∧ (0#8 : Byte) ≠ 1#8 ∧ (3#8 : Byte) ≠ 2#8 := by decide +kernel

/-- The state with the sync context in a phase. -/
def syncing (s : State) (p : SyncPhase) (l : List (StreamId × Nat)) : State :=
  { s with link := { s.link with sync := ⟨p, 5#8, l, 2000⟩ } }

/-- The state with a request outstanding on a link that is UP. -/
def asked (s : State) (q : LinkRequest) : State :=
  { s with link := { s.link with state := .up, outstanding := some q } }

theorem test_SyncRuns :
    let s := asked (syncing State.reset .queryOut []) .durableQuery
    (15#8 : Byte).toNat ≤ 15 ∧ 15 < (16#8 : Byte).toNat ∧ State.reset.link.sync.phase = .idle ∧
    s.link.state = .up ∧ s.link.outstanding = some .durableQuery ∧ s.link.sync.phase = .queryOut ∧
    (asked State.reset .durableQuery).link.sync.phase ≠ .queryOut ∧
    (syncing State.reset .pollWait []).link.sync.phase = .pollWait ∧
    (syncing State.reset .waitLeave [(.s2, 7)]).link.sync.phase ≠ .idle := by decide +kernel

theorem test_Previews :
    let x := running .dropNew .noBlock 100 0
    let s := on { x with capture := [entry 0 .full 0 100] }
    let e := on x
    (s.stream .s0).phase = .running ∧ s.preview = none ∧ min (100#16 : BitVec 16).toNat 4064 / Width.w8.bytes = 100 ∧
    (s.stream .s0).capture = [] ++ [entry 0 .full 0 100] ∧ 100 ≤ (entry 0 .full 0 100).kept ∧
    (s.stream .s0).writer.filling ≠ some 0 ∧ (e.stream .s0).capture = [] ∧ s.ctl = Control.reset := by decide +kernel
theorem test_preview_from_index :
    let x := running .dropNew .dropping 400 0
    let l := [entry 0 .full 0 100, gapped (entry 1 .full 200 100) 100 .newOnly]
    let s := on { x with capture := l, writer := { x.writer with dropStart := 300 } }
    (s.stream .s0).phase = .running ∧ s.preview = none ∧ (399#48 : BitVec 48).toNat < (s.stream .s0).writer.index ∧
    (0 ≤ 99 ∧ 99 < (entry 0 .full 0 100).first + 100 * 2 ^ 0) ∧ (99 - 0) / 2 ^ 0 + 1 ≤ (entry 0 .full 0 100).kept ∧
    (200 - 100 ≤ 100 ∧ 100 < 200) ∧ 0 + 100 ≤ (entry 1 .full 200 100).kept ∧
    (∀ e ∈ l, ¬ (e.first - gapLen e.gap ≤ 399 ∧ 399 < e.first + e.kept * 2 ^ e.k)) ∧ l ≠ [] ∧
    (s.stream .s0).writer.filling ≠ some 0 := by decide +kernel
/-- R21, R22: a span takes in the entries that join without a gap and at one k, and stops at a gap. -/
theorem test_preview_spans :
    let a := entry 0 .full 0 100
    let b := gapped (entry 1 .full 200 100) 100 .newOnly
    let c := entry 2 .full 300 50
    let x : Stream := { running .dropNew .noBlock 350 0 with capture := [a, b, c] }
    let s := on x
    x.capture = [a] ++ b :: [c] ∧ [b, c].IsChain Entry.continues ∧ (∀ d ∈ [a].getLast?, ¬ d.continues b) ∧
    (∀ d ∈ [b, c], 0 < d.kept) ∧
    x.newestPlan 120 = ⟨[.held 1 30 70, .held 2 0 50], 230, 0⟩ ∧
    x.newestPlan 4000 = ⟨[.held 1 0 100, .held 2 0 50], 200, 0⟩ ∧
    x.fromPlan 290 4000 = ⟨[.held 1 90 10, .held 2 0 50], 290, 0⟩ ∧
    x.fromPlan 5 4000 = ⟨[.held 0 5 95], 5, 0⟩ ∧
    (s.stream .s0).phase = .running ∧ s.preview = none ∧ min (120#16 : BitVec 16).toNat 4064 / Width.w8.bytes = 120 ∧
    (s.stream .s0).writer.filling ≠ some 1 := by
  refine ⟨rfl, ?_, ?_, by decide, ?_⟩
  · simp [List.isChain_cons_cons, Entry.continues, entry, gapped]
  · simp [Entry.continues, entry, gapped]
  · decide +kernel

/-- R23, R168: samples still in staging are read at once, those of a word with a parity error as the fill value. -/
theorem test_preview_staging :
    let buf : StageBuf := { StageBuf.empty.append [1#8, 2#8, 3#8, 4#8, 5#8, 6#8, 7#8, 8#8, 9#8] with
      parity := [true, true, false, false, false, false, false, false] }
    let x : Stream := { running .dropNew .filling 17 0 with capture := [entry 0 .filling 0 17] }
    let s := on { x with writer := { x.writer with filling := some 0, fillOffset := 8, fillBuf := buf } }
    let t := after (.preview 1#8 0#8 0#8 2#16 0#48) s
    (s.stream .s0).capture = [] ++ [entry 0 .filling 0 17] ∧ 2 ≤ (entry 0 .filling 0 17).kept ∧
    (s.stream .s0).writer.filling = some 0 ∧ (s.stream .s0).writer.awaiting = [] ∧ 8 ≤ (17 - 2) * 1 ∧
    8 + buf.count = 17 * 1 ∧ buf.count ≤ buf.data.length ∧ s.preview = none ∧
    s.integ.staging.uncorrectable ≤ 255 ∧ s.notices.device.memory ≤ 65535 ∧ (s.stream .s0).phase = .running ∧
    t.preview = none ∧ t.integ.staging.uncorrectable = 1 ∧ t.integ.staging.uncorrAddr = some 16 := by
  decide +kernel

theorem test_preview_refused :
    let s := on { running .dropNew .noBlock 200 0 with capture := [entry 0 .full 100 100] }
    min (0#16 : BitVec 16).toNat 4064 / Width.w8.bytes = 0 ∧ 1 < (2#8 : Byte).toNat ∧
    (State.reset.stream .s0).phase ≠ .running ∧ (State.reset.stream .s0).phase ≠ .closing ∧
    (s.stream .s0).phase = .running ∧ (s.stream .s0).writer.index ≤ (200#48 : BitVec 48).toNat ∧
    (99#48 : BitVec 48).toNat < (s.stream .s0).writer.index ∧
    (99#48 : BitVec 48).toNat < (entry 0 .full 100 100).first := by decide +kernel

theorem test_StatusReports : (3#8 : Byte).toNat = StreamId.s3.num ∧ 3 < (4#8 : Byte).toNat := by decide
theorem test_NoticesAndAttention : (2047#16 : BitVec 16).toNat < 2048 ∧ 2048 ≤ (2048#16 : BitVec 16).toNat := by
  decide
theorem test_ErrorSetupSetsTheMode : 2 < (3#8 : Byte).toNat ∧ 1 < (2#8 : Byte).toNat ∧
    (2#8 : Byte) = BitVec.ofNat 8 2 ∧ (1#8 : Byte) = BitVec.ofNat 8 1 := by decide
theorem test_ErrorReadAndInject : (1#8 : Byte).toNat ≤ 1 ∧ (63#16 : BitVec 16).toNat < 64 ∧
    (511#16 : BitVec 16).toNat < 512 ∧ 8 ≤ (8#16 : BitVec 16).toNat ∧ (0#8 : Byte) = BitVec.ofNat 8 0 := by decide

theorem test_TimingSetClamps :
    let f : Byte := 7#8
    (if f.getLsbD 2 then min 60000 (500#32 : BitVec 32).toNat else 0) = State.reset.ctl.timing.lead ∧
    (if f.getLsbD 2 then min 60000 (60001#32 : BitVec 32).toNat else 0) ≠ State.reset.ctl.timing.lead := by
  decide +kernel

theorem test_ResetRequestHoldsThenResets :
    let f : OutFrame := ⟨outFrame 0x94#8 1#8 [0#8, 16#8, 2#8, 0#8], true⟩
    let s := reads [f] (some ⟨f.bytes, true⟩)
    s.ctl.out = f :: [] ∧ f.isReset = true ∧ s.ctl.reading = some ⟨f.bytes, true⟩ ∧
    f.bytes.length ≤ f.bytes.length := by decide +kernel
theorem test_HardResetsAndPowerReturn : ({ State.reset with pfail := true } : State).pfail = true ∧
    State.reset.pfail = false := by decide +kernel

theorem test_PowerFailBegins :
    let s := ((on (running .dropNew .filling 131075 3)).setStream .s1 (running .dropNew .noBlock 131080 3)).setStream
      .s2 (armed .aux0)
    s.pfail = false ∧ (s.stream .s3).phase ≠ .running ∧ (s.stream .s3).phase ≠ .armed ∧
    (s.stream .s2).phase = .armed ∧ (s.stream .s0).phase = .running ∧ (s.stream .s0).writer.stop = none ∧
    (s.stream .s0).writer.index < 131080 ∧ 131080 < (s.stream .s0).writer.index + 2 ^ (s.stream .s0).writer.k ∧
    (s.stream .s1).phase = .running ∧ (s.stream .s1).writer.stop = none ∧
    2 ^ (s.stream .s0).writer.k ∣ 131080 ∧ (s.stream .s1).writer.index = 131080 ∧
    (s.stream .s1).writer.mode = .noBlock := by decide +kernel

theorem test_BeatsArriveAndAreTaken :
    let b : HeldBeat := ⟨zeros 64, some 63⟩
    let x := running .dropNew .noBlock 5 0
    let y : Stream := { x with hold := [b], writer := { x.writer with beat := [] } }
    x.phase = .running ∧ x.hold.length < 16 ∧ 16 ≤ (List.replicate 16 b).length ∧
    (armed .laneTrigger).phase = .armed ∧ (armed .laneTrigger).startMode = .laneTrigger ∧
    (armed .laneTrigger).hold = [] ∧
    (some 63).filter (fun o => decide (o * (armed .laneTrigger).cfg.width.bytes < 64)) = some 63 ∧
    (idle .w8 .dropNew).phase = .idle ∧ y.hold = b :: [] ∧ y.writer.beat = [] ∧ y.writer.mode ≠ .sealing ∧
    y.writer.mode ≠ .stopped ∧ x.writer.beat ≠ [] := by decide +kernel

/-- The writer context of a stream on its tail block with nothing staged. -/
def onTail (p : Policy) (n k : Nat) (l : List Entry) : Stream :=
  { running p .filling n k with capture := l }

/-- A stream whose next sample is quiet. -/
theorem quiet (x : Stream) (hb : x.cfg.width.bytes < x.writer.beat.length) (hi : x.writer.index ≤ x.startIndex)
    (hm : x.pendingLane = none) (hl : x.runLen = none) (hn : x.writer.index + 1 ≠ 2 ^ 48 - 131072)
    (hs : x.writer.stop = none) (hr : ∀ e ∈ x.capture, e.kept + 1 < 262144 / x.cfg.width.bytes) :
    QuietSample x where
  beat := hb
  boundary := .inr (.inr hi)
  mark := by rw [hm]; simp
  length := by rw [hl]; simp
  limit := hn
  stop := by rw [hs]; simp
  room := fun e he => hr e (List.mem_of_getLast? he)

theorem test_SamplesAreSkippedOrStaged :
    QuietSample { onTail .dropNew 4 0 [entry 0 .filling 0 262142] with startIndex := 4 } ∧
    QuietSample { running .dropNew .noBlock 5 2 with startIndex := 5 } ∧ ¬ 2 ^ 2 ∣ 5 ∧ 2 ^ 0 ∣ 4 ∧
    (onTail .dropNew 4 0 [entry 0 .filling 0 262142]).writer.fillBuf.count + Width.w8.bytes < 4096 := by
  refine ⟨quiet _ ?_ ?_ rfl rfl ?_ rfl ?_, quiet _ ?_ ?_ rfl rfl ?_ rfl ?_, by decide, by decide, by decide +kernel⟩ <;>
    decide +kernel

theorem test_stalled :
    let x : Stream := onTail .dropNew 4 0 [entry 0 .filling 0 8190]
    let y : Stream := { x with startIndex := 4, writer := { x.writer with
      fillBuf := { StageBuf.empty with count := 4095 }, awaiting := [.empty] } }
    QuietSample y ∧ y.writer.mode = .filling ∧ 2 ^ y.writer.k ∣ y.writer.index ∧ y.writer.awaiting ≠ [] ∧
    4096 ≤ y.writer.fillBuf.count + y.cfg.width.bytes := by
  refine ⟨quiet _ ?_ ?_ rfl rfl ?_ rfl ?_, ?_⟩ <;> decide +kernel

/-- A stream on its tail block with the last sample of its beat in hand and some bytes staged. -/
def lastOfBeat (staged : Nat) : Stream :=
  let x := onTail .dropNew 4 0 [entry 0 .filling 0 4]
  { x with startIndex := 4, writer := { x.writer with beat := [7#8], fillBuf := ⟨staged, [], []⟩ } }

theorem lastOfBeat_plain (n : Nat) : PlainSample (lastOfBeat n) where
  boundary := .inr (.inr (Nat.le_refl 4))
  mark := by show none ≠ some 4; decide
  length := by intro l h; exact absurd h (by show none ≠ some l; simp)
  limit := by show 4 + 1 ≠ 2 ^ 48 - 131072; decide
  stop := by intro r h; exact absurd h (by show none ≠ some r; simp)
  room := by
    intro e he
    have he : [entry 0 .filling 0 4].getLast? = some e := he
    obtain rfl : entry 0 .filling 0 4 = e := by simpa using he
    show 4 + 1 < 262144 / 1; decide

theorem test_last_of_beat :
    PlainSample (lastOfBeat 4094) ∧ PlainSample (lastOfBeat 4095) ∧ (on (lastOfBeat 4095)).stagesPlain .s0 ∧
    Width.w8.bytes ≤ (lastOfBeat 4094).writer.beat.length ∧
    (lastOfBeat 4094).writer.beat.length ≤ Width.w8.bytes ∧ 4094 + Width.w8.bytes < 4096 ∧
    4095 + Width.w8.bytes = 4096 ∧ (lastOfBeat 4095).writer.awaiting = [] ∧
    (lastOfBeat 4095).writer.mode = .filling ∧ 2 ^ (lastOfBeat 4095).writer.k ∣ 4 ∧
    (lastOfBeat 4095).capture = [] ++ [entry 0 .filling 0 4] := by
  refine ⟨lastOfBeat_plain _, lastOfBeat_plain _, rfl, ?_⟩; decide

theorem test_stages_plain :
    (on { onTail .dropNew 4 0 [entry 0 .filling 0 262142] with startIndex := 4 }).stagesPlain .s0 ∧
    (on { running .dropNew .noBlock 8 1 with spare := [3], startIndex := 8 }).stagesPlain .s0 := ⟨rfl, rfl⟩

/-- A stream at its start index that needs a block. -/
def needs (p : Policy) (spare : List Nat) (l : List Entry) : Stream :=
  { running p .noBlock 8 1 with spare := spare, capture := l, startIndex := 8 }

theorem needs_quiet (p : Policy) (spare : List Nat) (l : List Entry) (h : ∀ e ∈ l, e.kept + 1 < 262144 / 1) :
    QuietSample (needs p spare l) :=
  quiet _ (show 1 < (zeros 64).length by decide +kernel) (Nat.le_refl 8) rfl rfl (by show 8 + 1 ≠ _; decide) rfl h

theorem test_KeptSamplesFindABlock :
    QuietSample (needs .dropNew [3] []) ∧ QuietSample (needs .dropOld [] [entry 1 .full 0 4, entry 2 .full 4 4]) ∧
    QuietSample (needs .dropOld [] [entry 1 .drained 0 4, entry 2 .full 4 4]) ∧
    QuietSample (needs .dropOld [] [entry 1 .drained 0 4]) ∧ 2 ^ 1 ∣ 8 ∧
    (needs .dropNew [3] []).writer.mode = .noBlock ∧ (needs .dropNew [3] []).writer.fillBuf.count = 0 ∧
    (entry 1 .full 0 4).st = .full ∧ (entry 1 .full 0 4).pins = 0 ∧ (entry 1 .drained 0 4).st ≠ .full := by
  refine ⟨needs_quiet _ _ _ ?_, needs_quiet _ _ _ ?_, needs_quiet _ _ _ ?_, needs_quiet _ _ _ ?_, ?_⟩ <;>
    decide +kernel

theorem test_BoundariesDecimateAndResume :
    let x := onTail .decimate 131072 1 (List.replicate 6 (entry 0 .full 0 1))
    let y := onTail .decimate 131072 1 [entry 0 .full 0 1, entry 1 .filling 1 1]
    let z : Stream := { running .dropNew .dropping 131072 7 with cfg := { cfg .w8 .dropNew with kmax := 7 } }
    x.writer.beat ≠ [] ∧ x.writer.index % 131072 = 0 ∧ x.startIndex < x.writer.index ∧
    x.writer.boundaryDone = false ∧ x.cfg.policy = .decimate ∧ x.cfg.high ≤ x.capture.length ∧
    x.writer.k < x.cfg.kmax ∧ ¬ y.cfg.high ≤ y.capture.length ∧ y.capture.length ≤ y.cfg.low ∧
    y.cfg.kmin < y.writer.k ∧ x.writer.stop = none ∧ z.writer.mode = .dropping ∧ z.writer.awaiting = [] ∧
    z.spare = 0 :: List.range' 1 7 ∧ z.writer.k ≤ 7 ∧ z.cfg.kmax ≤ 7 ∧
    0 < ({ x.writer with fillBuf := StageBuf.empty.append [1#8] } : Writer).fillBuf.count := by decide +kernel

theorem test_LengthStopsMarksAndFlushAge :
    let x : Stream := { running .dropNew .dropping 6 3 with
      startIndex := 6, runLen := some 1, pendingLane := some 6 }
    let y := onTail .dropNew 6 0 [entry 0 .filling 0 6]
    let z : Stream := { y with writer := { y.writer with ageRunning := true } }
    x.writer.beat ≠ [] ∧ x.writer.index ≤ x.startIndex ∧ x.phase = .running ∧ x.writer.stop = none ∧
    x.pendingLane = some x.writer.index ∧ x.markers.length < 32 ∧
    x.runLen = some (x.writer.index + 1 - x.startIndex) ∧ y.runLen = none ∧
    y.writer.index + 1 ≠ 2 ^ 48 - 131072 ∧ y.writer.ageRunning = false ∧ z.writer.mode = .filling ∧
    z.writer.ageRunning = true ∧ z.writer.write = none ∧ z.writer.fillBuf.count = 0 ∧
    z.writer.awaiting = [] ∧ z.capture = [] ++ [entry 0 .filling 0 6] ∧
    0 < (StageBuf.empty.append [1#8]).count := by decide +kernel

theorem test_AuxEdgesStartAndMark :
    let s : State := { ((on (running .dropNew .filling 5 0)).setStream .s1 (armed .aux0)).setStream .s2
      { running .dropNew .filling 5 0 with markers := List.replicate 32 ⟨1, .host, 0⟩ } with
      routes := ⟨⟨.rising, 5#4⟩, ⟨.off, 0#4⟩⟩ }
    s.routes.aux0.edge = .rising ∧ (s.stream .s1).phase = .armed ∧ (s.stream .s1).startMode = .aux0 ∧
    (s.stream .s0).phase = .running ∧ s.routes.aux0.mask.getLsbD 0 = true ∧ (s.stream .s0).markers.length < 32 ∧
    s.routes.aux0.mask.getLsbD 2 = true ∧ 32 ≤ (s.stream .s2).markers.length ∧
    s.routes.aux1.edge = .off := by decide +kernel

/-- A stream on block 0 with a buffer of bytes awaiting flush. -/
def flushing (n : Nat) : Stream :=
  let x := onTail .dropNew 5 0 [entry 0 .filling 0 5]
  { x with writer := { x.writer with filling := some 0, awaiting := [StageBuf.empty.append (zeros n)] } }

/-- The state with a transfer of the SENDING record being built by a drain read. -/
def draining (n : Nat) (todo : List DrainRead) : State :=
  let s := linked (on (running .dropNew .filling 131072 0))
    [{ rec 1 (.dataRec 0 0 440 .w8 [⟨0, 0, 440⟩]) .sending (some 0) with size := 1024 }]
  port { s with link := { s.link with replay := some ⟨0, 512, zeros 512, [], false, todo, [], none⟩ } } (.drain 0 n 0 true)

/-- A PREVIEW in flight with samples of block 1 still to read. -/
def previewing (n : Nat) : State :=
  { on (running .dropNew .noBlock 500 0) with preview := some ⟨.s0, 1#8, 0, .w8, 0, [.held 1 0 n], [], 0, [1]⟩ }

theorem test_PortGrantsAndBounds :
    let s := on (flushing 4096)
    let d := { draining 440 [⟨0, 440, 0⟩] with port := Port.reset }
    (s.stream .s0).flushWants = some 0 ∧ (∀ j ∈ StreamId.all, j ≠ .s0 → (s.stream j).flushWants = none) ∧
    s.port.granted = none ∧ d.drainWants = some ⟨0, 440, 0⟩ ∧ d.previewWants = none ∧
    (previewing 100).previewWants = some (262144, 100) ∧ (previewing 100).drainWants = none ∧
    (port s (.flush .s0 0 none)).port.granted ≠ none := by decide +kernel
theorem test_outside_memory :
    (port State.reset (.flush .s0 17179869184 (some (StageBuf.empty.append [1#8])))).port.granted =
      some (.flush .s0 17179869184 (some (StageBuf.empty.append [1#8]))) ∧
    17179869184 < 17179869184 + 8 * (((StageBuf.empty.append [1#8]).count + 7) / 8) ∧
    17179869184 < 17179869121 + 64 := by decide +kernel

theorem test_FlushesWriteTheirBuffer :
    let s := port (on (flushing 5)) (.flush .s0 0 none)
    let b := StageBuf.empty.append (zeros 5)
    s.mem.wf = true ∧ s.port.granted = some (.flush .s0 0 none) ∧ (s.stream .s0).writer.awaiting = b :: [] ∧
    0 % 8 = 0 ∧ 8 * ((b.count + 7) / 8) ≤ 17179869184 ∧ s.integ.capture.arming = none ∧
    parityOf (b.flushWord 0) = b.parity.getD 0 false ∧ (b.count + 7) / 8 = 1 ∧
    (s.stream .s0).writer.mode ≠ .sealing := by decide +kernel
theorem test_flush_seals :
    let x := flushing 5
    let y : Stream := { x with writer := { x.writer with mode := .sealing } }
    let z : Stream := { y with writer := { y.writer with stop := some ⟨5, .hostStop⟩ } }
    y.writer.mode = .sealing ∧ y.writer.boundaryDone = false ∧ y.capture = [] ++ [entry 0 .filling 0 5] ∧
    y.writer.stop = none ∧ z.writer.stop = some ⟨5, .hostStop⟩ ∧ z.writer.index = 5 := by decide +kernel

theorem test_StagingErrorsAndInjection :
    let s := port (on (flushing 5)) (.flush .s0 0 none)
    let b : StageBuf := { StageBuf.empty.append (zeros 5) with parity := [true] }
    let t : State := { s with integ := { s.integ with capture := { MemMon.reset with arming := some ⟨false, 63, some 0⟩ } } }
    (parityOf (b.flushWord 0) != b.parity.getD 0 false) = true ∧ s.integ.staging.uncorrectable ≤ 255 ∧
    s.notices.device.memory ≤ 65535 ∧ t.integ.capture.arming = some ⟨false, 63, some 0⟩ ∧
    t.integ.staging.arming = none ∧ t.integ.replay.arming = none ∧ 0 < b.count ∧ b.count = 5 := by decide +kernel

/-- The first sample of a write takes the armed flip, and it stands over the parity that the second sets (R173). -/
theorem test_staging_flip :
    let x := lastOfBeat 0
    let s := on { x with writer := { x.writer with beat := [1#8, 2#8], fillBuf := .empty } }
    let t : State := { s with integ := { s.integ with staging := { MemMon.reset with arming := some ⟨false, 9, none⟩ } } }
    let u := after (.sampleProcess .s0) t
    let v := after (.sampleProcess .s0) u
    let buf (z : State) := (z.stream .s0).writer.fillBuf
    t.integ.staging.arming = some ⟨false, 9, none⟩ ∧ t.integ.replay.arming = none ∧ 9 < 512 ∧
    (t.stream .s0).writer.write = none ∧ (u.stream .s0).writer.write = some ⟨0, some ⟨false, 9, none⟩⟩ ∧
    u.integ.staging.arming = none ∧ u.notices.device.injection = 1 ∧ v.notices.device.injection = 1 ∧
    (buf u).data.take 2 = [1#8, 2#8] ∧ (buf v).data.take 2 = [1#8, 0#8] ∧ (buf v).parity.getD 0 false = false ∧
    (v.stream .s0).writer.write = none ∧ 0 + (lastOfBeat 0).cfg.width.bytes < 4096 := by decide +kernel

/-- A buffer and the same buffer under a flip of a parity bit. -/
theorem test_flip_carried :
    let plain : StageBuf := StageBuf.empty.append [1#8]
    let w : Writer := { (lastOfBeat 1).writer with
      fillBuf := { plain with parity := false :: plain.parity.tail }, write := some ⟨0, some ⟨true, 0, none⟩⟩ }
    plain.count = w.fillBuf.count ∧ w.write = some ⟨0, some ⟨true, 0, none⟩⟩ ∧
    flippedBy ⟨true, 0, none⟩ (0 / 64) plain.data w.fillBuf.data plain.parity w.fillBuf.parity := by
  refine ⟨rfl, rfl, rfl, rfl, fun _ => ⟨rfl, ?_⟩, fun h => absurd h (by decide)⟩
  intro n hn
  have hn : n < 8 := hn
  interval_cases n <;> simp [Arming.hits]
  decide

theorem test_UpsetWordsDecode : State.reset.mem.wf = true ∧ State.reset.mem.errAt 2147483647 = WordErr.clean ∧
    71 < 72 ∧ 0 ≠ 71 := by decide +kernel

theorem test_DrainReads :
    let s := draining 440 [⟨0, 440, 0⟩]
    s.port.granted = some (.drain 0 440 0 true) ∧ (∀ a, a < 440 → s.mem.errAt (a / 8) = WordErr.clean) ∧
    (s.link.sending.map (·.xfer.tally)) = some [] ∧ s.integ.replay.arming = none ∧
    (s.link.replay.map (·.todo)) = some (⟨0, 440, 0⟩ :: []) ∧ 64 + 0 + 440 ≤ 0 + 512 ∧ 0 + 440 ≤ 440 ∧
    440 + 136 ≤ 1024 ∧ 0 + 512 ≤ 1024 ∧ Width.w8.bytes ∣ 440 := by
  refine ⟨by decide +kernel, fun a _ => rfl, by decide +kernel, by decide +kernel, by decide +kernel, ?_⟩
  decide +kernel
theorem test_lost_unit :
    let s := draining 64 [⟨0, 64, 0⟩, ⟨64, 64, 64⟩]
    let t : State := { s with mem := ⟨[], [(7, ⟨3#64, 0#8, false⟩)]⟩ }
    t.port.granted = some (.drain 0 64 0 true) ∧ t.mem.unitOutcome 0 64 (0 / 64) = .uncorrectable ∧
    (t.link.replay.map (·.held)) = some [] ∧ 64 + 0 + 64 ≤ 0 + (zeros 512).length := by decide +kernel
/-- R165: the fourth unit of a block marks it, a unit already in the tally does not count twice. -/
theorem test_retire_mark :
    let s := draining 64 [⟨0, 64, 0⟩, ⟨64, 64, 64⟩]
    let marked (l : List (Nat × Nat)) : Bool :=
      let t : State := { s.setStream .s0 { s.stream .s0 with capture := [entry 0 .draining 0 440] } with
        mem := ⟨[], [(7, ⟨3#64, 0#8, false⟩)]⟩,
        link := s.link.modSending fun e => { e with xfer := { e.xfer with tally := l } } }
      ((after (.drainReadComplete []) t).stream .s0).capture.any (·.retire)
    marked [(0, 1), (0, 2), (0, 3)] = true ∧ marked [(0, 0), (0, 2), (0, 3)] = false ∧
    marked [(0, 2), (0, 3)] = false := by decide +kernel
theorem test_discarded_reads :
    let s := port State.reset (.drain 0 64 0 false)
    let t : State := { s with mem := ⟨[], [(7, ⟨3#64, 0#8, false⟩)]⟩ }
    (∀ p, p < 64 → s.mem.errAt (p / 8) = WordErr.clean) ∧ s.port.granted = some (.drain 0 64 0 false) ∧
    t.mem.unitOutcome 0 64 (0 / 64) = .uncorrectable ∧
    (port State.reset (.preview 0 64 false)).port.granted = some (.preview 0 64 false) :=
  ⟨fun _ _ => rfl, by decide +kernel⟩

theorem test_PreviewReadsComplete :
    let s := port (previewing 100) (.preview 262144 100 true)
    s.port.granted = some (.preview 262144 100 true) ∧ 262144 + 100 ≤ 17179869184 ∧
    (∀ a, s.mem.errAt (a / 8) = WordErr.clean) ∧ (s.preview.map (·.segs)) = some [.held 1 0 100] ∧
    100 = 100 * Width.w8.bytes ∧ 99 = 99 * Width.w8.bytes ∧ 99 < 100 ∧
    (s.stream .s0).writer.filling ≠ some 1 := by
  refine ⟨by decide +kernel, by decide, fun a => rfl, ?_⟩
  decide +kernel

/-- R23, R161: the samples of a lost unit are replaced; samples not yet flushed are read at once after those of the
block. -/
theorem test_preview_lost_unit :
    let s := port (previewing 64) (.preview 262144 64 true)
    let t : State := { s with mem := ⟨[], [(32775, ⟨3#64, 0#8, false⟩)]⟩ }
    let u : State := { s with mem := ⟨[], [(32775, ⟨0#64, 0#8, true⟩)]⟩ }
    t.port.granted = some (.preview 262144 64 true) ∧ 262144 % 64 = 0 ∧ (t.preview.map (·.segs)) = some [.held 1 0 64] ∧
    64 = 64 * Width.w8.bytes ∧ t.mem.unitOutcome 262144 64 (262144 / 64) = .uncorrectable ∧
    u.mem.unitOutcome 262144 64 (262144 / 64) = .poison ∧
    (after (.previewReadComplete []) t).integ.capture.uncorrectable = 1 ∧
    (after (.previewReadComplete []) u).integ.capture.uncorrectable = 0 := by decide +kernel
theorem test_preview_on_to_staging :
    let s := port (previewing 12) (.preview 262144 8 true)
    let x := s.stream .s0
    let t := s.setStream .s0 { x with writer := { x.writer with
      filling := some 1, fillOffset := 8, fillBuf := StageBuf.empty.append [1#8, 2#8, 3#8, 4#8] } }
    let w := (t.stream .s0).writer
    8 = 8 * Width.w8.bytes ∧ 8 < 12 ∧ (t.stream .s0).cfg.width = .w8 ∧ w.filling = some 1 ∧ w.awaiting = [] ∧
    w.fillOffset = (0 + 8) * Width.w8.bytes ∧ (12 - 8) * Width.w8.bytes ≤ w.fillBuf.count ∧
    w.fillBuf.count ≤ w.fillBuf.data.length ∧
    (∀ v, v < 8 → parityOf (slice w.fillBuf.data (8 * v) 8) = w.fillBuf.parity.getD v false) := by decide +kernel

theorem test_TheReleaseScanFreesTheHead :
    let x : Stream := { idle .w8 .dropNew with
      capture := [entry 0 .drained 0 8, { entry 1 .drained 8 8 with retire := true }, entry 2 .drained 16 8],
      commitIndex := 16 }
    x.capture = [entry 0 .drained 0 8, { entry 1 .drained 8 8 with retire := true }] ++ [entry 2 .drained 16 8] ∧
    (entry 1 .drained 8 8).first + 8 * 2 ^ 0 ≤ x.commitIndex ∧ ¬ (16 + 8 * 2 ^ 0 ≤ x.commitIndex) ∧
    (on x).notices.device.memory ≤ 65535 := by decide +kernel

theorem test_RecordBytes : (0 ≤ 393216) ∧ mark.isData = false := by decide

/-- Section 11.1, R162, R163: the trailer of a DATA record with eight spans, the eighth extended past a ninth. -/
theorem test_trailer :
    let e := { rec 1 (.dataRec 0 0 440 .w8 [⟨0, 0, 440⟩]) .sending (some 0) with size := 1024 }
    let eight : List Span := (List.range 8).map fun n => ⟨10 * n, 4⟩
    let e : CommitEntry := { e with xfer := { e.xfer with spans := eight } }
    let r : Replay := ⟨512, 512, zeros 512, [], false, [], [⟨100, 2⟩], none⟩
    let total := addSpans r.held e.xfer.spans e.xfer.overflow
    e.body.isData = true ∧ r.off + r.len = e.size ∧ r.bytes.length = r.len ∧ 64 + e.body.payload + 72 ≤ e.size ∧
    total = (eight.take 7 ++ [⟨70, 32⟩], true) ∧ total.1.length = 8 ∧
    slice (e.finish r).bytes 440 12 = [8#8, 1#8, 0#8, 0#8, 0#8, 0#8, 0#8, 0#8, 4#8, 0#8, 0#8, 0#8] ∧
    slice (e.finish r).bytes 500 8 = [70#8, 0#8, 0#8, 0#8, 32#8, 0#8, 0#8, 0#8] := by decide +kernel

/-- A RUNNING stream with its cut index and what lies at it. -/
def cutting (cut : Nat) (l : List Entry) (ms : List Marker) (t : Option TailGap) (m : WriterMode) : Stream :=
  let x := running .dropNew m 100 0
  { x with
    capture := l, markers := ms, endIndex := 100,
    cutter := { x.cutter with openDue := false, cutIndex := cut, tailGap := t } }

theorem test_NextRecordAndStream :
    let o := runEntered (idle .w8 .dropNew)
    let m := cutting 8 [] [⟨7, .host, 0⟩] none .noBlock
    let t := cutting 8 [] [] (some ⟨8, 100, .newOnly, 0⟩) .stopped
    let d := cutting 100 [] [] none .stopped
    let g := cutting 8 [gapped (entry 0 .full 16 4) 8 .newOnly] [] none .noBlock
    o.cutter.openDue = true ∧ o.phase = .running ∧ m.markers = ⟨7, .host, 0⟩ :: [] ∧ 7 < m.cutter.cutIndex ∧
    t.cutter.tailGap = some ⟨8, 100, .newOnly, 0⟩ ∧ 8 = t.cutter.cutIndex ∧ d.writer.mode = .stopped ∧
    d.endIndex ≤ d.cutter.cutIndex ∧ d.cutter.tailGap = none ∧ d.cutter.closeCut = false ∧
    16 - gapLen (gapped (entry 0 .full 16 4) 8 .newOnly).gap ≤ g.cutter.cutIndex ∧ g.cutter.cutIndex < 16 ∧
    g.writer.mode ≠ .stopped := by decide +kernel

/-- The DATA record at the cut index: ended by the entry with a gap_before, waiting for the unsealed tail, ended by a
cut point, by the end of a stopped run and by the extent. -/
theorem test_data_ends :
    let a := entry 0 .draining 0 16
    let x := cutting 8 [a, entry 1 .full 16 16, gapped (entry 2 .filling 40 4) 8 .newOnly] [] none .filling
    let y := cutting 8 [a, entry 1 .filling 16 16] [] none .filling
    let m : Stream := { cutting 8 [a, entry 1 .filling 16 16] [⟨8, .host, 0⟩, ⟨12, .host, 0⟩] none .filling with
      cfg := { cfg .w8 .dropNew with cutOnMark := true } }
    let e : Stream := { cutting 8 [a, entry 1 .full 16 16] [] none .stopped with phase := .closing }
    let long (pf : Bool) : Stream := { cutting 0 [entry 0 .full 0 262144, entry 1 .full 262144 262144] [] none .filling with
      cfg := { cfg .w8 .dropNew with extent := if pf then 524288 else 266240 } }
    x.dataPlan false = some ⟨0, 32⟩ ∧ y.dataPlan false = none ∧ m.dataPlan false = some ⟨0, 12⟩ ∧
    e.dataPlan false = some ⟨0, 32⟩ ∧ (long false).dataPlan false = some ⟨0, 266240⟩ ∧
    (long true).dataPlan true = some ⟨0, 262144⟩ ∧ (cutting 40 [a] [] none .filling).dataPlan false = none := by
  decide +kernel

theorem test_RecordsCarryTheirAccount :
    (cutting 8 [] [⟨7, .host, 0⟩] none .noBlock).markers = ⟨7, .host, 0⟩ :: [] ∧
    (gapped (entry 0 .full 16 4) 8 .newOnly).gap = some ⟨8, .newOnly⟩ := by decide +kernel

theorem test_CutsClaimAnEntry :
    let s := granted (on (runEntered (idle .w8 .dropNew))) [⟨0, 33554432, 33553920⟩]
    s.link.commit.length < 8 ∧ s.place.starved = false ∧ s.chooseStream = some .s0 ∧
    (s.stream .s0).next s.powerFail = some .openNext ∧ s.place.abandoned < 2 ^ 48 ∧
    ((s.stream .s0).cutOf .openNext).body.size ≤ 33554432 - 33553920 ∧
    (granted s []).place.windows = [] ∧ (granted s []).chooseStream = some .s0 ∧
    State.reset.chooseStream = none ∧ 8 ≤ (linked s (List.replicate 8 (rec 0 mark .ready none))).link.commit.length := by
  decide +kernel

theorem test_PlacementAndRate :
    let w : Window := ⟨0, 33554432, 33553920⟩
    let v : Window := ⟨33554432, 33554432, 0⟩
    512 ≤ w.length - w.next ∧ w.length - w.next < 1024 ∧ 1024 ≤ v.length - v.next ∧
    (granted State.reset [w, v]).place.windows = w :: v :: [] ∧ (granted State.reset [w]).place.windows = [w] ∧
    State.reset.place.windows = [] ∧ State.reset.place.abandoned < 2 ^ 48 := by decide +kernel

theorem test_RePlacementMovesTheEntry :
    let e := rec 1 mark .failed none
    let s := granted (linked State.reset [rec 0 mark .ready (some 0), e]) [⟨0, 33554432, 33553920⟩]
    s.link.commit = [rec 0 mark .ready (some 0)] ++ e :: [] ∧ e.st = .failed ∧ s.place.starved = false ∧
    e.size ≤ 33554432 - 33553920 ∧ (granted s []).place.windows = [] ∧
    ({ s with place := { s.place with starved := true } } : State).place.starved = true := by decide +kernel

theorem test_TransfersFollowTheRule : worked.xfer.narrow = false ∧ 4096 ≤ worked.size - worked.xfer.accepted ∧
    mark.size < 4096 ∧ worked.size % 512 = 0 ∧ (rec 0 mark .sending (some 0)).addr = some 0 := by decide +kernel

theorem test_ReadyEntriesAreBuilt :
    let e := rec 1 mark .ready (some 0)
    let l := (linked State.reset [rec 0 mark .awaitCommit (some 512), e]).link
    let s := linked State.reset [rec 0 mark .sending (some 0)]
    l.state = .up ∧ (∀ f ∈ l.commit, f.st ≠ .sending) ∧ l.commit = [rec 0 mark .awaitCommit (some 512)] ++ e :: [] ∧
    s.link.sending = some (rec 0 mark .sending (some 0)) ∧ s.link.replay = none ∧ mark.isData = false ∧
    (rec 0 mark .sending (some 0)).size = 512 ∧ s.integ.replay.arming = none := by decide +kernel

theorem test_replay_flip :
    let s := linked State.reset [rec 0 mark .sending (some 0)]
    let t : State := { s with integ := { s.integ with replay := { MemMon.reset with arming := some ⟨true, 7, none⟩ } } }
    t.link.sending = some (rec 0 mark .sending (some 0)) ∧ t.integ.replay.arming = some ⟨true, 7, none⟩ ∧ 7 < 8 := by
  decide +kernel

/-- R18, R132: a transfer whose payload bytes lie in two blocks takes two reads, in ascending order. -/
theorem test_reads :
    let e := rec 1 (.dataRec 0 0 600 .w8 [⟨4, 262044, 100⟩, ⟨7, 0, 500⟩]) .sending (some 0)
    e.reads 0 512 = [⟨1310620, 100, 0⟩, ⟨1835008, 348, 100⟩] ∧ e.reads 512 1024 = [⟨1835356, 152, 448⟩] := by
  decide +kernel

/-- The state with a whole transfer of a MARK record held. -/
def holding (retry : Nat) (len : Nat) : State :=
  let e := { rec 0 mark .sending (some 0) with xfer := ⟨0, false, retry, [], false, 0xFFFFFFFF#32, []⟩ }
  let s := linked (on (running .dropNew .filling 5 0)) [e]
  { s with link := { s.link with replay := some ⟨0, len, zeros len, parityBits (zeros len), true, [], [], none⟩ } }

theorem test_SendsAndResends :
    let s := holding 3 512
    let t := asked s (.write 0 (zeros 512))
    s.link.state = .up ∧ s.link.outstanding = none ∧ s.link.sync.phase ≠ .queryDue ∧
    (s.link.sending.map (·.xfer.retry)) = some 3 ∧ (s.link.replay.map (·.badRanges)) = some [] ∧
    t.link.writeOut = true ∧ 3 < 4 ∧ ((holding 4 512).link.sending.map (·.xfer.retry)) = some 4 ∧
    ((holding 0 4096).link.replay.map (·.len)) = some 4096 ∧
    (syncing s .queryDue []).link.sync.phase = .queryDue := by decide +kernel

theorem test_ReplayUpsetsAreRebuilt :
    let e := rec 0 mark .sending (some 0)
    let s := linked State.reset [e]
    let t : State := { s with link := { s.link with
      replay := some ⟨0, 512, e.plainBytes, parityBits e.plainBytes, true, [], [], none⟩ } }
    t.link.state = .up ∧ t.link.outstanding = none ∧ t.link.sending = some e ∧ e.addr = some 0 ∧ e.size = 512 ∧
    4095 < 4096 ∧ 63 < 64 ∧ 4094 ≠ 4095 ∧ 4094 / 64 = 4095 / 64 := by decide +kernel

/-- R106, R169: the CRC field that goes out is that of the bytes as they stand in the buffer (here the digits of R106
under the field of other bytes). -/
theorem test_crc_as_sent :
    let e := { rec 0 mark .sending (some 0) with size := 13 }
    let r : Replay := ⟨0, 13, digits ++ zeros 4, [], true, [], [], none⟩
    e.readOut r = digits ++ [0x26#8, 0x39#8, 0xF4#8, 0xCB#8] := by decide +kernel
/-- R169: two flips in one word leave no range damaged, one does. -/
theorem test_two_flips :
    let b := flipBit (zeros 64) 0 8
    let r (bytes : List Byte) : Replay := ⟨0, 64, bytes, parityBits (zeros 64), true, [], [], none⟩
    (r b).badRanges = [0] ∧ (r (flipBit b 0 63)).badRanges = [] := by decide +kernel

/-- R134, R169: an upset of the buffer while the WRITE is out does not change the CRC over the bytes as sent. -/
theorem test_accept_as_sent :
    let e := { rec 0 mark .sending (some 0) with size := 1024 }
    let l := (asked State.reset (.write 0 digits)).link
    let r : Replay := ⟨0, 512, flipBit digits 0 9, [], true, [], [], none⟩
    ~~~ (e.afterAccept r l.sentBytes 100).xfer.crc = 0xCBF43926#32 := by decide +kernel
theorem test_AcceptAdvancesTheRecord :
    let t := asked (holding 0 512) (.write 0 (zeros 512))
    t.link.state = .up ∧ t.link.outstanding = some (.write 0 (zeros 512)) ∧
    (t.link.sending.map (·.xfer.accepted)) = some 0 ∧ (t.link.replay.map (·.off)) = some 0 ∧ 0 + 512 = (rec 0 mark .sending (some 0)).size ∧
    0 + 512 ≠ worked.size ∧ State.reset.link.writeOut = false := by decide +kernel
theorem test_RefuseFailsThePlacement :
    let t := asked (holding 0 512) (.write 0 (zeros 512))
    t.link.state = .up ∧ t.link.writeOut = true ∧ (t.link.sending.map (·.addr)) = some (some 0) := by decide +kernel
theorem test_ThirdFailureSticks :
    let e := { rec 0 mark .sending (some 0) with placements := 3 }
    let t := asked (linked State.reset [rec 5 mark .awaitCommit (some 512), e]) (.write 0 (zeros 512))
    t.link.commit = [rec 5 mark .awaitCommit (some 512)] ++ e :: [] ∧ e.st = .sending ∧ e.placements = 3 ∧
    t.link.writeOut = true ∧ t.link.state = .up ∧ (blocked.stream .s0).drain = .blocked := by decide +kernel

theorem test_CommitMessagesAndTimeouts :
    let a := rec 0 mark .awaitCommit (some 512)
    let b := rec 1 mark .awaitCommit (some 1024)
    let s := linked State.reset [a, b]
    s.link.state = .up ∧ s.link.commit = [] ++ a :: [b] ∧ s.link.commit = [a] ++ b :: [] ∧ b.addr = some 1024 ∧
    a.addr ≠ some 1024 ∧ a.stream = b.stream ∧ a.st ≠ .committed ∧ s.link.sync.phase ≠ .waitLeave ∧
    (linked State.reset [a]).link.commit = [] ++ a :: [] ∧ a.timer ≠ none ∧
    (rec 0 (.closeRec 0 .hostStop 0 0 0 0) .awaitCommit (some 512)).body.isClose = true := by decide +kernel

/-- R145, R148: a chain of leavings up to the first entry that is not COMMITTED, and the SYNC that waited for it. -/
theorem test_leaving_chain :
    let a := rec 0 mark .awaitCommit (some 512)
    let b := rec 1 mark .committed (some 1024)
    let c := rec 2 mark .sending (some 1536)
    let s := syncing (linked State.reset [a, b, c]) .waitLeave [(.s0, 1)]
    let t := after (.committed 512#48) s
    s.link.commit = [] ++ a :: [b, c] ∧ a.addr = some 512 ∧ s.link.state = .up ∧
    leaving .s0 ({ a with st := .committed, timer := none } :: [b, c]) =
      [{ a with st := .committed, timer := none }, b] ∧
    withoutLeaving .s0 ({ a with st := .committed, timer := none } :: [b, c]) = [c] ∧ t.link.commit = [c] ∧
    t.link.sync.phase = .queryDue ∧ t.place.rateCounter = 1024 ∧
    leaving .s0 [b, rec 2 (.closeRec 0 .hostStop 0 0 0 0) .committed (some 0)] =
      [b] ++ [rec 2 (.closeRec 0 .hostStop 0 0 0 0) .committed (some 0)] := by decide +kernel

theorem test_FaultsAndTraining :
    let t : State := { State.reset with link := { Link.reset with state := .training } }
    let f : State := { State.reset with link := { Link.reset with state := .faulted } }
    (asked State.reset .durableQuery).link.outstanding ≠ none ∧ (asked State.reset .durableQuery).link.state = .up ∧
    f.link.state = .faulted ∧ t.link.state = .training ∧ t.link.train = .attempt ∧
    ({ t with link := { t.link with train := .rest } } : State).link.train = .rest := by decide +kernel

/-- A state with one command waiting, from which the laws are kept. -/
def queued : State := { State.reset with pending := [.gateEnd] }

theorem test_step_from_queued : step queued = .next State.reset := rfl
theorem test_StepsKeepThePools : PoolLaw queued where
  whole := fun i => by cases i <;> exact List.Perm.refl _
  none := fun i _ => by cases i <;> rfl
  apart := fun i j _ b hb => by cases i <;> exact absurd hb List.not_mem_nil
theorem test_StepsKeepPlacements : PlacementLaw queued where
  fits := by decide
  windows := by decide
  addressed := by intro e he; exact absurd he (by simp [queued, State.reset, Link.reset])
  entries := List.Pairwise.nil
  unused := by decide
theorem test_StepsKeepTheCommitList : CommitLaw queued where
  bound := by decide
  ordered := List.Pairwise.nil
  below := by intro e he; exact absurd he (by simp [queued, State.reset, Link.reset])
  active := by intro e he; exact absurd he (by simp [queued, State.reset, Link.reset])
  close := by intro e he; exact absurd he (by simp [queued, State.reset, Link.reset])
  runs := fun i h => by cases i <;> exact absurd h (by decide)
theorem test_StepsKeepTheLink : LinkLaw queued where
  one := by decide
  up := by decide
  write := by decide
theorem test_StepsKeepTheSlots : SlotLaw queued where
  slots := by decide
  owed := rfl
  hold := rfl
  short := by decide
  long := by decide
theorem test_StepsKeepTheBounds : BoundsLaw queued where
  streams := fun i => by cases i <;> exact ⟨by decide, by decide, by decide, by decide, by decide⟩
  windows := by decide
  abandoned := by decide
  dead := by decide
  rates := by decide
  link := by decide
  spans := by decide
  memories := fun m => by cases m <;> exact ⟨by decide, by decide⟩
  control := by decide
  notices := ⟨fun i c => by cases i <;> cases c <;> decide, fun c => by cases c <;> decide⟩
theorem test_StepsKeepDecimation : DecimationLaw queued where
  range := fun i => by cases i <;> decide
  held := fun i h => by cases i <;> exact absurd h (by decide)
theorem test_StepsKeepPower : PowerLaw queued where
  condition := rfl
  mask := by decide

end Sys2Proof.Tests
end

section
/-! SUPPORT. The pools (R4): what a release scan moves, that every operation keeps the blocks of each pool, and the
statement for every step. -/

namespace Sys2Proof.Machine

/-! ### The blocks a release scan moves (R14, R15) -/

/-- A stream that has received the blocks of released entries: the marked ones retired, the others spare, the last
released on top (R15). -/
def Stream.receive (x : Stream) (gone : List Entry) : Stream :=
  { x with
    spare := ((gone.filter fun e => !e.retire).map Entry.block).reverse ++ x.spare,
    retired := ((gone.filter fun e => e.retire).map Entry.block).reverse ++ x.retired }

/-- MEMORY raised `k` times (R15, R194). -/
def Notices.raiseMemory (n : Notices) : Nat → Notices
  | 0 => n
  | k + 1 => (n.raiseDevice .memory).raiseMemory k

/-- Releasing entries one by one gives their stream every block and raises MEMORY for each marked one. -/
theorem releaseBlocks_eq (s : State) (i : StreamId) (gone : List Entry) :
    gone.foldl (fun s e => s.releaseBlock i e) s = { s with
      streams := s.streams.set i ((s.stream i).receive gone),
      notices := s.notices.raiseMemory (gone.filter fun e => e.retire).length } := by
  induction gone generalizing s with
  | nil => exact (State.setStream_self s i).symm
  | cons e gone ih =>
    rw [List.foldl_cons, ih]
    cases hr : e.retire with
    | true =>
      have hb : s.releaseBlock i e =
          (s.modStream i fun x => { x with retired := e.block :: x.retired }).raiseDev .memory := if_pos hr
      simp [hb, Quad.set_set, Stream.receive, hr, Notices.raiseMemory]
    | false =>
      have hb : s.releaseBlock i e = s.modStream i fun x => { x with spare := e.block :: x.spare } := by
        simp [State.releaseBlock, hr]
      simp [hb, Quad.set_set, Stream.receive, hr]

/-- What a release scan leaves of a stream: the released entries' blocks are spare or retired (R14, R15). -/
def Stream.scanned (x : Stream) (all : Bool) : Stream :=
  let r := releaseSplit all x.commitIndex x.capture
  ({ x with capture := r.2 } : Stream).receive r.1

/-- The number of marked entries a release scan releases. -/
def Stream.scanMarked (x : Stream) (all : Bool) : Nat :=
  ((releaseSplit all x.commitIndex x.capture).1.filter fun e => e.retire).length

/-- Everything a release scan does. -/
theorem releaseScan_eq (s : State) (i : StreamId) (all : Bool) :
    s.releaseScan i all = { s with
      streams := s.streams.set i ((s.stream i).scanned all),
      notices := s.notices.raiseMemory ((s.stream i).scanMarked all) } := by
  unfold State.releaseScan
  simp [releaseBlocks_eq, Quad.set_set, Stream.scanned, Stream.scanMarked]

/-! ### What keeps a pool (R4) -/

/-- Stream `y` has the pool of `x`, holds the blocks `x` held, and is configured if `x` is. -/
structure Stream.KeepsPool (x y : Stream) : Prop where
  blocks : y.blocks.Perm x.blocks
  base : y.cfg.base = x.cfg.base
  count : y.cfg.count = x.cfg.count
  configured : y.phase = .unconfigured → x.phase = .unconfigured

namespace Stream.KeepsPool

theorem refl (x : Stream) : x.KeepsPool x := ⟨.refl _, rfl, rfl, id⟩

theorem trans {x y z : Stream} (h : x.KeepsPool y) (g : y.KeepsPool z) : x.KeepsPool z :=
  ⟨g.blocks.trans h.blocks, g.base.trans h.base, g.count.trans h.count, h.configured ∘ g.configured⟩

/-- A change that leaves the configuration, the spare list, the retired set and the listed blocks as they are. -/
theorem of_lists {x y : Stream} (hc : y.cfg = x.cfg) (hs : y.spare = x.spare)
    (hl : y.capture.map Entry.block = x.capture.map Entry.block) (hr : y.retired = x.retired)
    (hp : y.phase = .unconfigured → x.phase = .unconfigured) : x.KeepsPool y := by
  refine ⟨?_, by rw [hc], by rw [hc], hp⟩
  rw [Stream.blocks, Stream.blocks, hs, hl, hr]

/-- A change of the capture list that keeps its blocks in their order. -/
theorem of_capture (x : Stream) {list : List Entry} (h : list.map Entry.block = x.capture.map Entry.block) :
    x.KeepsPool { x with capture := list } := of_lists rfl rfl h rfl id

/-- Each entry changed in place keeps its block. -/
theorem of_map (x : Stream) {f : Entry → Entry} (h : ∀ e, (f e).block = e.block) :
    x.KeepsPool { x with capture := x.capture.map f } :=
  of_capture x (by rw [List.map_map]; exact List.map_congr_left fun e _ => h e)

theorem of_writer (x : Stream) (w : Writer) : x.KeepsPool { x with writer := w } := of_lists rfl rfl rfl rfl id

end Stream.KeepsPool

/-- Every stream of `t` keeps the pool it has in `s`. -/
structure State.KeepsPools (s t : State) : Prop where
  stream : ∀ i, (s.stream i).KeepsPool (t.stream i)

namespace State.KeepsPools

variable {s t u : State}

theorem refl (s : State) : s.KeepsPools s := ⟨fun _ => .refl _⟩

theorem trans (h : s.KeepsPools t) (g : t.KeepsPools u) : s.KeepsPools u :=
  ⟨fun i => (h.stream i).trans (g.stream i)⟩

theorem of_streams (h : t.streams = s.streams) : s.KeepsPools t :=
  ⟨fun i => by rw [show t.stream i = s.stream i from congrArg (·.get i) h]; exact .refl _⟩

/-- A change before that touches no stream. -/
theorem after (h : t.KeepsPools u) (ht : t.streams = s.streams) : s.KeepsPools u := (of_streams ht).trans h

/-- A change after that touches no stream. -/
theorem before (h : s.KeepsPools t) (hu : u.streams = t.streams) : s.KeepsPools u := h.trans (of_streams hu)

theorem setStream {i : StreamId} {x : Stream} (h : (s.stream i).KeepsPool x) : s.KeepsPools (s.setStream i x) :=
  ⟨fun j => by
    rw [State.setStream_stream]
    split
    · next hj => subst hj; exact h
    · exact .refl _⟩

theorem modStream {i : StreamId} {f : Stream → Stream} (h : (s.stream i).KeepsPool (f (s.stream i))) :
    s.KeepsPools (s.modStream i f) := setStream h

theorem modWriter (s : State) (i : StreamId) (f : Writer → Writer) : s.KeepsPools (s.modWriter i f) :=
  modStream (.of_writer _ _)

theorem raise (h : s.KeepsPools t) (i : StreamId) (c : StreamCat) : s.KeepsPools (t.raise i c) := h.before rfl

theorem settle (h : s.KeepsPools t) : s.KeepsPools t.settle := h.before (settle_streams t)

end State.KeepsPools

/-- A pool's law passes along a change that keeps the pools. -/
theorem PoolLaw.of_keeps {s t : State} (h : PoolLaw s) (k : s.KeepsPools t) : PoolLaw t where
  whole i := by rw [(k.stream i).base, (k.stream i).count]; exact (k.stream i).blocks.trans (h.whole i)
  none i hi := by rw [(k.stream i).count]; exact h.none i ((k.stream i).configured hi)
  apart i j hij b hb := by
    rw [(k.stream i).base, (k.stream i).count] at hb
    rw [(k.stream j).base, (k.stream j).count]
    exact h.apart i j hij b hb

/-! ### The block manager (chapter 1) -/

theorem modifyLast_map {α β : Type} {f : α → α} {g : α → β} (h : ∀ x, g (f x) = g x) (l : List α) :
    (modifyLast f l).map g = l.map g := by
  induction l with
  | nil => rfl
  | cons x l ih =>
    cases l with
    | nil => simp [modifyLast, h]
    | cons y l => simp only [modifyLast, List.map_cons] at ih ⊢; rw [ih]

theorem sealTail_blocks (l : List Entry) : (sealTail l).map Entry.block = l.map Entry.block :=
  modifyLast_map (fun e => by split <;> rfl) l

theorem assignSample_blocks (l : List Entry) : (assignSample l).map Entry.block = l.map Entry.block :=
  modifyLast_map (f := fun e : Entry => { e with kept := e.kept + 1 }) (fun _ => rfl) l

/-- The top spare block joins the capture list (R10). -/
theorem take_keepsPools {s t : State} {i : StreamId} {first k : Nat} {gap : Option Gap}
    (h : s.take i first k gap = some t) : s.KeepsPools t := by
  obtain ⟨b, rest, hs, rfl⟩ := take_some h
  have hx : s.KeepsPools (s.setStream i { s.stream i with
      spare := rest, capture := (s.stream i).capture ++ [freshEntry b first k gap] }) := by
    refine .setStream ⟨?_, rfl, rfl, id⟩
    simp only [Stream.blocks, hs, List.perm_iff_count, List.map_append, List.map_cons, List.map_nil,
      List.count_append, List.count_cons, List.count_nil, freshEntry]
    intro a; omega
  dsimp only
  split
  · exact hx.raise ..
  · exact hx

/-- The victim's block is the block of the new tail (R13). -/
theorem victimList_blocks {first k b : Nat} {l l' : List Entry} (h : victimList first k l = some (l', b)) :
    (l'.map Entry.block).Perm (l.map Entry.block) := by
  obtain ⟨before, e, after, rfl, -, -, -, rfl⟩ := victimList_some h
  cases after with
  | nil => simp [freshEntry]
  | cons f more =>
    simp only [List.perm_iff_count, List.map_append, List.map_cons, List.map_nil, List.count_append,
      List.count_cons, List.count_nil, freshEntry, Entry.absorb]
    intro a; omega

theorem victimTake_keepsPools {s t : State} {i : StreamId} {first k : Nat} (h : s.victimTake i first k = some t) :
    s.KeepsPools t := by
  unfold State.victimTake at h
  cases hv : victimList first k (s.stream i).capture with
  | none => simp [hv] at h
  | some p =>
    obtain ⟨list, b⟩ := p
    rw [hv] at h
    obtain rfl := Option.some.inj h
    have hl := victimList_blocks hv
    exact .raise (.modStream ⟨(hl.append_left _).append_right _, rfl, rfl, id⟩) i .gap

/-- Released blocks go from the head of the capture list to the spare list and the retired set (R15). -/
theorem releaseScan_keepsPools (s : State) (i : StreamId) (all : Bool) : s.KeepsPools (s.releaseScan i all) := by
  have hsplit := (releaseSplit_spec all (s.stream i).commitIndex (s.stream i).capture).1
  have hkeep : (s.stream i).KeepsPool ((s.stream i).scanned all) := by
    unfold Stream.scanned
    generalize releaseSplit all (s.stream i).commitIndex (s.stream i).capture = r at hsplit
    have hcount (a : Nat) : ((r.1.filter fun e => !e.retire).map Entry.block).count a +
        ((r.1.filter fun e => e.retire).map Entry.block).count a = (r.1.map Entry.block).count a := by
      have := ((List.filter_append_perm (fun e : Entry => e.retire) r.1).map Entry.block).count_eq a
      rw [List.map_append, List.count_append] at this
      omega
    refine ⟨?_, rfl, rfl, id⟩
    simp only [Stream.blocks, Stream.receive, hsplit, List.perm_iff_count, List.map_append, List.count_append,
      List.count_reverse]
    intro a
    have := hcount a
    omega
  exact (State.KeepsPools.setStream hkeep).trans (.of_streams (by rw [releaseScan_eq]; rfl))

/-! ### Reads, upsets and the preview reader -/

theorem upset_keepsPools (s : State) (u : Upset) : s.KeepsPools (s.upset u) := by
  cases u with
  | capture w b => exact .of_streams rfl
  | staging i slot check pos => unfold State.upset; exact .modWriter s i _
  | replay check pos => exact .of_streams rfl

theorem upsets_keepsPools (s : State) (us : List Upset) : s.KeepsPools (s.upsets us) := by
  unfold State.upsets
  induction us generalizing s with
  | nil => exact .refl s
  | cons u us ih => exact (upset_keepsPools s u).trans (ih _)

@[simp] theorem countUnits_streams (s : State) (addr len : Nat) (us : List Nat) :
    (s.countUnits addr len us).streams = s.streams := by
  obtain ⟨g, d, h⟩ := countUnits_eq s addr len us; rw [h]

@[simp] theorem countStaging_streams (s : State) (addrs : List Nat) :
    (s.countStaging addrs).streams = s.streams := by
  obtain ⟨g, d, h⟩ := countStaging_eq s addrs; rw [h]

theorem previewReply_keepsPools (s : State) (p : Preview) : s.KeepsPools (s.previewReply p) := by
  have hunpin (t : State) : t.KeepsPools
      (t.modStream p.stream fun x => { x with capture := unpinBlocks p.pinned x.capture }) :=
    .modStream (.of_map _ fun e => by split <;> rfl)
  have hscan := (hunpin { s with preview := none, port := s.port.orphanPreview }).trans
    (releaseScan_keepsPools _ p.stream false)
  unfold State.previewReply
  exact .before (.after hscan rfl) rfl

theorem previewAdvance_keepsPools (fuel : Nat) (s : State) : s.KeepsPools (s.previewAdvance fuel) := by
  induction fuel generalizing s with
  | zero => exact .refl s
  | succ fuel ih =>
    unfold State.previewAdvance
    split
    · exact .refl s
    · split
      · exact previewReply_keepsPools ..
      · exact (ih _).after (countStaging_streams ..)
      · dsimp only
        split
        · exact (ih _).after rfl
        · split
          · exact .refl s
          · exact (ih _).after (countStaging_streams ..)

theorem previewRun_keepsPools (s : State) : s.KeepsPools s.previewRun := by
  unfold State.previewRun
  split
  · exact .refl s
  · exact previewAdvance_keepsPools ..

theorem previewTake_keepsPools (s : State) (addr len : Nat) : s.KeepsPools (s.previewTake addr len) := by
  unfold State.previewTake
  split
  · exact .refl s
  · exact (previewRun_keepsPools _).after (countUnits_streams ..)

/-- A retire mark leaves every entry its block (R165). -/
theorem markRetire_keepsPools (s : State) (i : StreamId) (block : Nat) :
    s.KeepsPools (s.modStream i fun x => { x with capture := markRetire block x.capture }) :=
  .modStream (.of_map _ fun e => by split <;> rfl)

theorem drainTake_keepsPools (s : State) (addr len pos : Nat) : s.KeepsPools (s.drainTake addr len pos) := by
  unfold State.drainTake
  split
  · next e r he hr =>
    dsimp only
    generalize hs1 : s.modLink _ = s1
    have h1 : s.KeepsPools s1 := .of_streams (by rw [← hs1]; rfl)
    generalize hs2 : ite (tallyReached _ _ = true) _ s1 = s2
    have h2 : s.KeepsPools s2 := by
      rw [← hs2]
      split
      · exact h1.trans (markRetire_keepsPools ..)
      · exact h1
    have h3 := h2.before (countUnits_streams s2 addr len (unitsOf addr len))
    split
    · exact h3.before (finishBuild_streams ..)
    · exact h3
  · exact .refl s

/-! ### The capture writer, lanes and AUX lines (chapters 2 and 3) -/

theorem latchMarker_keepsPools (s : State) (i : StreamId) (index : Nat) (src : MarkSource) :
    s.KeepsPools (s.latchMarker i index src) := by
  unfold State.latchMarker
  dsimp only
  split
  · split
    · exact .setStream (.of_lists rfl rfl rfl rfl id)
    · refine .raise (.setStream ?_) ..
      exact .of_lists rfl rfl rfl rfl id
  · exact .refl s

theorem startRun_keepsPools (s : State) (i : StreamId) : s.KeepsPools (s.startRun i) := by
  unfold State.startRun
  exact .raise (.modStream (.of_lists rfl rfl rfl rfl (by simp [Stream.enterRunning]))) ..

theorem holdBeat_keepsPools (s : State) (i : StreamId) (b : HeldBeat) :
    s.KeepsPools (s.modStream i fun x => x.holdBeat b) := by
  refine .modStream ?_
  unfold Stream.holdBeat
  split <;> exact .of_lists rfl rfl rfl rfl id

theorem beatArrival_keepsPools (s : State) (i : StreamId) (beat : List Byte) (mark : Option Nat) :
    s.KeepsPools (s.beatArrival i beat mark) := by
  unfold State.beatArrival
  dsimp only
  split
  · exact .refl s
  · exact .refl s
  · split
    · exact (startRun_keepsPools s i).trans (holdBeat_keepsPools ..)
    · exact .refl s
  · exact holdBeat_keepsPools ..
  · split
    · exact .refl s
    · exact holdBeat_keepsPools ..

theorem beatTake_keepsPools (s : State) (i : StreamId) : s.KeepsPools (s.beatTake i) := by
  unfold State.beatTake
  dsimp only
  split
  · exact .refl s
  · split
    · exact .setStream (.of_lists rfl rfl rfl rfl id)
    · exact .refl s

@[simp] theorem takeStagingFlip_streams (s : State) (i : StreamId) : (s.takeStagingFlip i).streams = s.streams := by
  unfold State.takeStagingFlip; split <;> rfl

theorem stageKept_keepsPools (s : State) (i : StreamId) (bytes : List Byte) : s.KeepsPools (s.stageKept i bytes) := by
  unfold State.stageKept
  exact .after (.modStream (.of_lists rfl rfl (assignSample_blocks _) rfl id)) (takeStagingFlip_streams s i)

theorem finishStop_keepsPool (x : Stream) : x.KeepsPool x.finishStop := .of_lists rfl rfl rfl rfl id

theorem makeSeal_keepsPool (x : Stream) : x.KeepsPool x.makeSeal := by
  have hseal : x.KeepsPool { x with
      capture := sealTail x.capture,
      writer := { x.writer with mode := .noBlock, filling := none, fillOffset := 0 } } :=
    .of_lists rfl rfl (sealTail_blocks _) rfl id
  unfold Stream.makeSeal
  split
  · exact hseal.trans (finishStop_keepsPool _)
  · exact hseal

theorem startSeal_keepsPools (s : State) (i : StreamId) : s.KeepsPools (s.startSeal i) := by
  unfold State.startSeal
  dsimp only
  split
  · exact .trans (.modWriter s i _) (.modStream (makeSeal_keepsPool _))
  · exact .modWriter s i _

theorem stopWriter_keepsPools (s : State) (i : StreamId) : s.KeepsPools (s.stopWriter i) := by
  unfold State.stopWriter
  split
  · exact startSeal_keepsPools s i
  · exact .refl s
  · exact .refl s
  · exact .modStream (finishStop_keepsPool _)

theorem requestStop_keepsPools (s : State) (i : StreamId) (reason : CloseReason) :
    s.KeepsPools (s.requestStop i reason) := by
  unfold State.requestStop
  dsimp only
  split
  · exact .refl s
  · have hasked : s.KeepsPools (s.setStream i { s.stream i with
        phase := .closing, closeReason := reason,
        writer := { (s.stream i).writer with stop := some ⟨(s.stream i).writer.stopIndex, reason⟩ } }) :=
      .setStream (.of_lists rfl rfl rfl rfl (nomatch ·))
    split
    · exact hasked.trans (stopWriter_keepsPools ..)
    · exact hasked

theorem holdBlock_keepsPools (s : State) (i : StreamId) : s.KeepsPools (s.modStream i Stream.holdBlock) :=
  .modStream (.of_writer _ _)

theorem enterDropping_keepsPools (s : State) (i : StreamId) : s.KeepsPools (s.enterDropping i) := by
  unfold State.enterDropping
  exact .raise (.modWriter s i _) ..

theorem getBlock_keepsPools (s : State) (i : StreamId) : s.KeepsPools (s.getBlock i).1 := by
  unfold State.getBlock
  dsimp only
  split
  · next s1 h => exact (take_keepsPools h).trans (holdBlock_keepsPools ..)
  · split
    · split
      · next s1 h => exact (victimTake_keepsPools h).trans (holdBlock_keepsPools ..)
      · exact enterDropping_keepsPools s i
    · exact enterDropping_keepsPools s i

theorem decimateAt_keepsPools (s : State) (i : StreamId) : s.KeepsPools (s.decimateAt i) := by
  unfold State.decimateAt
  dsimp only
  split
  · exact .refl s
  · have hk (k : Nat) := (State.KeepsPools.modWriter s i fun w => { w with k := k }).raise i .decimation
    split
    · exact (hk _).trans (startSeal_keepsPools ..)
    · exact hk _

theorem resume_keepsPools (s : State) (i : StreamId) : s.KeepsPools (s.resume i) := by
  unfold State.resume
  dsimp only
  split
  · split
    · next s1 h => exact (take_keepsPools h).trans (holdBlock_keepsPools ..)
    · exact .refl s
  · exact .refl s

theorem boundary_keepsPools (s : State) (i : StreamId) : s.KeepsPools (s.boundary i) := by
  unfold State.boundary
  split
  · exact .trans (.modWriter s i _) ((decimateAt_keepsPools _ i).trans (resume_keepsPools _ i))
  · exact .refl s

theorem placeSample_keepsPools (s : State) (i : StreamId) : s.KeepsPools (s.placeSample i) := by
  unfold State.placeSample
  dsimp only
  split
  · split
    · exact stageKept_keepsPools ..
    · split
      · exact (getBlock_keepsPools s i).trans (stageKept_keepsPools ..)
      · exact getBlock_keepsPools s i
  · exact .refl s

theorem enterLaneMark_keepsPools (s : State) (i : StreamId) : s.KeepsPools (s.enterLaneMark i) := by
  unfold State.enterLaneMark
  dsimp only
  split
  · exact (latchMarker_keepsPools ..).trans (.modStream (.of_lists rfl rfl rfl rfl id))
  · exact .refl s

theorem advance_keepsPools (s : State) (i : StreamId) : s.KeepsPools (s.advance i) := by
  unfold State.advance
  exact .modStream (.of_writer _ _)

theorem lengthStop_keepsPools (s : State) (i : StreamId) : s.KeepsPools (s.lengthStop i) := by
  unfold State.lengthStop
  dsimp only
  split
  · exact .after (requestStop_keepsPools ..) rfl
  · exact .refl s

theorem finishSample_keepsPools (s : State) (i : StreamId) : s.KeepsPools (s.finishSample i) := by
  unfold State.finishSample
  split
  · exact .refl s
  · have h1 := ((placeSample_keepsPools s i).trans (enterLaneMark_keepsPools _ i)).trans (advance_keepsPools _ i)
    generalize ((s.placeSample i).enterLaneMark i).advance i = s1 at h1
    have h2 : s.KeepsPools (if (s1.stream i).blockFull then s1.startSeal i else s1) := by
      split
      · exact h1.trans (startSeal_keepsPools ..)
      · exact h1
    dsimp only
    generalize ite ((s1.stream i).blockFull = true) (s1.startSeal i) s1 = s2 at h2
    have h3 := h2.trans (lengthStop_keepsPools s2 i)
    split
    · exact h3.trans (stopWriter_keepsPools ..)
    · exact h3

theorem sampleProcess_keepsPools (s : State) (i : StreamId) : s.KeepsPools (s.sampleProcess i) := by
  unfold State.sampleProcess
  dsimp only
  split
  · split
    · exact ((boundary_keepsPools s i).trans (finishSample_keepsPools _ i)).settle
    · exact (boundary_keepsPools s i).settle
  · exact .refl s

theorem flushAgeExpiry_keepsPools (s : State) (i : StreamId) : s.KeepsPools (s.flushAgeExpiry i) := by
  unfold State.flushAgeExpiry
  dsimp only
  split
  · exact (startSeal_keepsPools s i).settle
  · exact .refl s

@[simp] theorem writeFlush_streams (s : State) (b : StageBuf) (addr : Nat) :
    (s.writeFlush b addr).streams = s.streams := by
  have fold (us : List (Nat × Nat)) (t : State) :
      (us.foldl (fun s p => s.countUncorrectable .staging p.2) t).streams = t.streams := by
    induction us generalizing t with
    | nil => rfl
    | cons u us ih => exact ih _
  unfold State.writeFlush
  dsimp only
  rw [fold]
  split <;> rfl

theorem afterFlush_keepsPools (s : State) (i : StreamId) : s.KeepsPools (s.afterFlush i) := by
  unfold State.afterFlush
  dsimp only
  have hseal : s.KeepsPools (s.modStream i Stream.makeSeal) := .modStream (makeSeal_keepsPool _)
  split
  · split
    · exact hseal.trans (finishSample_keepsPools ..)
    · exact hseal
  · exact .refl s

theorem flushDone_keepsPools (s : State) (i : StreamId) (addr : Nat) (orphan : Option StageBuf) :
    s.KeepsPools (s.flushDone i addr orphan) := by
  unfold State.flushDone
  have hwrite (b : StageBuf) : s.KeepsPools (s.writeFlush b addr).freePort := .of_streams (writeFlush_streams s b addr)
  split
  · exact (hwrite _).settle
  · split
    · exact .settle (.of_streams rfl)
    · exact (((hwrite _).trans (.modWriter _ i _)).trans (afterFlush_keepsPools _ i)).settle

theorem auxStream_keepsPools (s : State) (line : AuxLine) (i : StreamId) : s.KeepsPools (s.auxStream line i) := by
  unfold State.auxStream
  dsimp only
  split
  · exact startRun_keepsPools s i
  · split
    · exact latchMarker_keepsPools ..
    · exact .refl s

/-- A change made for each stream in turn keeps the pools if each one does. -/
theorem keepsPools_foldl {f : State → StreamId → State} (h : ∀ (s : State) i, s.KeepsPools (f s i)) (l : List StreamId)
    (s : State) : s.KeepsPools (l.foldl f s) := by
  induction l generalizing s with
  | nil => exact .refl s
  | cons i l ih => exact (h s i).trans (ih _)

theorem auxEdge_keepsPools (s : State) (line : AuxLine) (rising : Bool) : s.KeepsPools (s.auxEdge line rising) := by
  unfold State.auxEdge
  split
  · exact keepsPools_foldl (fun s i => auxStream_keepsPools s line i) _ s
  · exact .refl s

/-! ### Run control (chapter 4) -/

theorem disarm_keepsPools (s : State) (i : StreamId) : s.KeepsPools (s.modStream i Stream.disarm) :=
  .modStream (.of_lists rfl rfl rfl rfl (by simp [Stream.disarm]))

theorem powerFailStream_keepsPools (s : State) (i : StreamId) : s.KeepsPools (s.powerFailStream i) := by
  unfold State.powerFailStream
  split
  · exact .after (requestStop_keepsPools ..) rfl
  · exact .raise (disarm_keepsPools s i) ..
  · exact .refl s

theorem pfailAssert_keepsPools (s : State) : s.KeepsPools s.pfailAssert := by
  unfold State.pfailAssert
  split
  · exact .refl s
  · have hall := keepsPools_foldl powerFailStream_keepsPools StreamId.all { s with pfail := true, powerFail := true }
    exact .settle (.before (.after hall rfl) rfl)

theorem pfailDeassert_keepsPools (s : State) : s.KeepsPools s.pfailDeassert := by
  unfold State.pfailDeassert
  split
  · exact .of_streams rfl
  · exact .refl s

/-- An abort gives the blocks it frees back to the spare list (R16). -/
theorem aborted_keepsPool (x : Stream) : x.KeepsPool x.aborted := by
  have hspare (l : List Entry) (sp : List Nat) :
      l.foldl (fun sp e => e.block :: sp) sp = (l.map Entry.block).reverse ++ sp := by
    induction l generalizing sp with
    | nil => rfl
    | cons e l ih => simp [ih]
  have hlist : (abortList x.capture).map Entry.block =
      (x.capture.filter fun e => !e.freedByAbort).map Entry.block := by
    rw [abortList, List.map_map]
    exact List.map_congr_left fun e _ => by simp only [Function.comp_apply]; split <;> rfl
  refine ⟨?_, rfl, rfl, by simp [Stream.aborted]⟩
  simp only [Stream.blocks, Stream.aborted, hspare, hlist, abortFreed, List.perm_iff_count, List.count_append,
    List.count_reverse]
  intro a
  have := ((List.filter_append_perm Entry.freedByAbort x.capture).map Entry.block).count_eq a
  rw [List.map_append, List.count_append] at this
  omega

theorem replaceStuck_keepsPools (s : State) (i : StreamId) : s.KeepsPools (s.replaceStuck i) := by
  unfold State.replaceStuck
  exact .after (.modStream (.of_lists rfl rfl rfl rfl id)) rfl

@[simp] theorem previewSnap_streams (s : State) (i : StreamId) : (s.previewSnap i).streams = s.streams := by
  obtain h | ⟨p, segs, -, -, h⟩ := previewSnap_cases s i <;> rw [h]

theorem abortRun_keepsPools (s : State) (i : StreamId) : s.KeepsPools (s.abortRun i) := by
  unfold State.abortRun
  dsimp only
  generalize hs2 : State.mk .. = s2
  have h2 : s.KeepsPools s2 := .of_streams (by rw [← hs2]; exact previewSnap_streams s i)
  have h3 : s.KeepsPools (s2.modStream i Stream.aborted) := h2.trans (.modStream (aborted_keepsPool _))
  split
  · exact h3.trans (replaceStuck_keepsPools ..)
  · exact h3

/-! ### The cutter, the placement unit and the archive link (chapters 5 to 7) -/

@[simp] theorem evalLow_streams (s : State) : s.evalLow.streams = s.streams := by
  unfold State.evalLow; dsimp only; split <;> rfl

@[simp] theorem gateEnd_streams (s : State) : s.gateEnd.streams = s.streams := evalLow_streams _

@[simp] theorem placeRequest_streams (s : State) (size : Nat) : (s.placeRequest size).1.streams = s.streams := by
  unfold State.placeRequest
  dsimp only
  split
  · exact evalLow_streams _
  · dsimp only
    rw [evalLow_streams]
    split <;> rfl

/-- A cut changes the states of the entries it meets and nothing else of the pool (R96). -/
theorem cutOf_keepsPool (x : Stream) (n : NextRecord) (seq : Nat) :
    x.KeepsPool { (x.cutOf n).after with cutter := { (x.cutOf n).after.cutter with nextSeq := seq } } := by
  cases n with
  | dataNext p =>
    refine .of_lists rfl rfl ?_ rfl id
    show (cutList _ _ _).map _ = _
    rw [cutList, List.map_map]
    exact List.map_congr_left fun e _ => by simp only [Function.comp_apply]; split <;> rfl
  | openNext | markNext m | tailNext g | gapNext e | closeNext => exact .of_lists rfl rfl rfl rfl id

theorem cutRecord_keepsPools (s : State) (i : StreamId) (n : NextRecord) : s.KeepsPools (s.cutRecord i n) := by
  have hplace := placeRequest_streams s ((s.stream i).cutOf n).body.size
  unfold State.cutRecord
  dsimp only
  generalize s.placeRequest _ = r at hplace
  split
  · exact .of_streams hplace
  · refine .settle (.after (.setStream ?_) hplace)
    rw [State.modLink_stream, show r.1.stream i = s.stream i from congrArg (·.get i) hplace]
    exact cutOf_keepsPool ..

theorem cut_keepsPools (s : State) : s.KeepsPools s.cut := by
  unfold State.cut
  split
  · split
    · exact .refl s
    · split
      · exact .refl s
      · exact cutRecord_keepsPools ..
  · exact .refl s

theorem rePlace_keepsPools (s : State) : s.KeepsPools s.rePlace := by
  unfold State.rePlace
  split
  · exact .refl s
  · split
    · exact .refl s
    · next e he =>
      dsimp only
      have hplace := placeRequest_streams s e.size
      split
      · exact .of_streams hplace
      · exact .settle (.of_streams hplace)

@[simp] theorem rebuild_streams (s : State) (e : CommitEntry) (r : Replay) (bad : List Nat) :
    (s.rebuild e r bad).streams = s.streams := by
  have fold (t : State) : (bad.foldl (fun s g =>
      s.countUncorrectable .replay (e.addr.getD 0 + r.off + 64 * g)) t).streams = t.streams := by
    induction bad generalizing t with
    | nil => rfl
    | cons g bad ih => exact ih _
  unfold State.rebuild
  dsimp only
  split
  · rw [finishBuild_streams, fold]
  · exact fold s

@[simp] theorem trySend_streams (s : State) : s.trySend.streams = s.streams := by
  obtain h | ⟨e, r, -, -, -, -, ⟨-, h⟩ | ⟨-, h⟩⟩ := trySend_cases s
  · rw [h]
  · rw [h]; rfl
  · rw [h]; simp

@[simp] theorem durableQuerySend_streams (s : State) : s.durableQuerySend.streams = s.streams := by
  unfold State.durableQuerySend; split <;> rfl

theorem accept_keepsPools (s : State) : s.KeepsPools s.accept := by
  obtain h | h | ⟨e, r, -, -, h⟩ := accept_cases s
  · rw [h]; exact .refl s
  · rw [h]; exact .of_streams rfl
  · rw [h]; exact .settle (.of_streams rfl)

/-- A placement failure may block a drain and changes nothing else of a stream (R153). -/
theorem failEntry_keepsPools (s : State) (p : CommitEntry → Bool) (e : CommitEntry) (cause : FailCause)
    (code : Option Byte) : s.KeepsPools (s.failEntry p e cause code) := by
  have hblock (t : State) : t.KeepsPools
      ((t.modStream e.stream fun x => { x with drain := .blocked }).raise e.stream .archiveFault) :=
    .raise (.modStream (.of_lists rfl rfl rfl rfl id)) ..
  have hplace (t : State) : (match e.addr with | none => t | some a => t.deadSpan a e.size).streams = t.streams := by
    split <;> rfl
  unfold State.failEntry
  dsimp only
  split
  · refine .of_streams ((hplace _).trans ?_)
    split <;> rfl
  · refine .after (hblock _) ((hplace _).trans ?_)
    split <;> rfl

theorem retry_keepsPools (s : State) (us : List Upset) : s.KeepsPools (s.retry us) := by
  unfold State.retry
  split
  · dsimp only
    split
    · exact .of_streams rfl
    · split
      · refine .before (.after (upsets_keepsPools _ us) ?_) (trySend_streams _)
        rfl
      · exact .settle (.after (failEntry_keepsPools ..) rfl)
  · exact .refl s

theorem narrow_keepsPools (s : State) : s.KeepsPools s.narrow := by
  unfold State.narrow
  split
  · dsimp only
    split
    · split
      · exact .settle (.of_streams rfl)
      · exact .settle (.after (failEntry_keepsPools ..) rfl)
    · exact .of_streams rfl
  · exact .refl s

theorem refuseWrite_keepsPools (s : State) (code : Byte) : s.KeepsPools (s.refuseWrite code) := by
  unfold State.refuseWrite
  split
  · dsimp only
    split
    · exact .of_streams rfl
    · exact .settle (.after (failEntry_keepsPools ..) rfl)
  · exact .refl s

theorem streamIdle_keepsPools (s : State) (i : StreamId) : s.KeepsPools (s.streamIdle i) := by
  unfold State.streamIdle
  dsimp only
  have h1 : s.KeepsPools ((s.modStream i fun x => { x with phase := .idle }).raise i .run) :=
    .raise (.modStream (.of_lists rfl rfl rfl rfl (by simp))) ..
  split
  · exact h1.trans (releaseScan_keepsPools ..)
  · exact (h1.trans (previewReply_keepsPools ..)).trans (releaseScan_keepsPools ..)

theorem leaveOne_keepsPools (s : State) (i : StreamId) (e : CommitEntry) : s.KeepsPools (s.leaveOne i e) := by
  unfold State.leaveOne
  dsimp only
  have h2 (t : State) : t.KeepsPools (t.modStream i fun x => { x with commitIndex := e.covEnd }) :=
    .modStream (.of_lists rfl rfl rfl rfl id)
  have h3 (t : State) : t.KeepsPools
      (((t.modStream i fun x => { x with commitIndex := e.covEnd }).countRate e.size).releaseScan i false) :=
    (h2 t).trans ((releaseScan_keepsPools _ i false).after (State.countRate_streams ..))
  split
  · refine .after ((h3 _).trans (streamIdle_keepsPools ..)) ?_
    rfl
  · refine .after (h3 _) ?_
    rfl

theorem leaveChain_keepsPools (i : StreamId) (fuel : Nat) (s : State) : s.KeepsPools (s.leaveChain i fuel) := by
  induction fuel generalizing s with
  | zero => exact .refl s
  | succ fuel ih =>
    unfold State.leaveChain
    split
    · exact .refl s
    · split
      · exact (leaveOne_keepsPools s i _).trans (ih _)
      · exact .refl s

theorem leave_keepsPools (s : State) (i : StreamId) : s.KeepsPools (s.leave i) := by
  unfold State.leave
  exact (leaveChain_keepsPools ..).before rfl

theorem committed_keepsPools (s : State) (a : Nat) : s.KeepsPools (s.committed a) := by
  unfold State.committed
  split
  · split
    · exact .of_streams rfl
    · exact .settle (.after (leave_keepsPools ..) rfl)
  · exact .refl s

theorem refusedMessage_keepsPools (s : State) (a : Nat) (code : Byte) : s.KeepsPools (s.refusedMessage a code) := by
  unfold State.refusedMessage
  split
  · split
    · exact .of_streams rfl
    · exact failEntry_keepsPools ..
  · exact .refl s

theorem commitTimeout_keepsPools (s : State) (i : StreamId) (seq : Nat) : s.KeepsPools (s.commitTimeout i seq) := by
  unfold State.commitTimeout
  split
  · exact .refl s
  · split
    · exact failEntry_keepsPools ..
    · exact .refl s

@[simp] theorem raiseArchiveFaults_streams (s : State) : s.raiseArchiveFaults.streams = s.streams := by
  obtain ⟨n, h, -⟩ := raiseArchiveFaults_eq s; rw [h]

@[simp] theorem linkFault_streams (s : State) (cause : LinkFault) : (s.linkFault cause).streams = s.streams := by
  unfold State.linkFault
  split
  · exact raiseArchiveFaults_streams _
  · rfl

@[simp] theorem responseTimeout_streams (s : State) : s.responseTimeout.streams = s.streams := by
  unfold State.responseTimeout
  split
  · exact linkFault_streams ..
  · rfl

@[simp] theorem linkEnable_streams (s : State) : s.linkEnable.streams = s.streams := by
  unfold State.linkEnable; split <;> rfl

@[simp] theorem linkDisable_streams (s : State) : s.linkDisable.streams = s.streams := by
  unfold State.linkDisable
  split
  · rfl
  · exact raiseArchiveFaults_streams _

@[simp] theorem trainingReply_streams (s : State) : s.trainingReply.streams = s.streams := by
  unfold State.trainingReply
  split
  · exact settle_streams _
  · rfl

@[simp] theorem durable_streams (s : State) : s.durable.streams = s.streams := by
  unfold State.durable
  split
  · dsimp only; split <;> rfl
  · rfl

@[simp] theorem notYet_streams (s : State) : s.notYet.streams = s.streams := by
  unfold State.notYet
  split
  · dsimp only; split <;> rfl
  · rfl

/-! ### Requests (chapters 1 and 6 to 10) -/

/-- A configured stream has each block of its new pool on its spare list, and no other stream's pool has one (R3,
R65). -/
theorem configure_poolLaw {s : State} (h : PoolLaw s) {i : StreamId} {c : StreamCfg}
    (hover : s.poolOverlaps i c.base c.count = false) : PoolLaw (s.setStream i ((s.stream i).configure c)) := by
  have happart (j : StreamId) (hj : j ≠ i) (b : Nat) (hb : b ∈ poolBlocks c.base c.count)
      (hbj : b ∈ poolBlocks (s.stream j).cfg.base (s.stream j).cfg.count) : False := by
    rw [poolBlocks, List.mem_range'_1] at hb hbj
    by_cases hp : (s.stream j).phase = .unconfigured
    · have := h.none j hp; omega
    · have hmeet := (rangesMeet_iff (s.stream j).cfg.base (s.stream j).cfg.count c.base c.count).2
        ⟨b, hbj.1, hbj.2, hb.1, hb.2⟩
      have : s.poolOverlaps i c.base c.count = true :=
        List.any_eq_true.2 ⟨j, StreamId.mem_all j, by simp [hj, hp, hmeet]⟩
      rw [hover] at this; exact absurd this (by decide)
  refine ⟨fun j => ?_, fun j hj => ?_, fun j k hjk b hb hb' => ?_⟩
  · rw [State.setStream_stream]
    split
    · simp [Stream.blocks, Stream.configure]
    · exact h.whole j
  · rw [State.setStream_stream] at hj ⊢
    split at hj
    · simp [Stream.configure] at hj
    · next hji => rw [if_neg hji]; exact h.none j hj
  · rw [State.setStream_stream] at hb hb'
    split at hb
    · next hji =>
      subst hji
      rw [if_neg (Ne.symm hjk)] at hb'
      exact happart k (Ne.symm hjk) b hb hb'
    · next hji =>
      split at hb'
      · exact happart j hji b hb' hb
      · exact h.apart j k hjk b hb hb'

/-- An unconfigured stream has no pool (R3). -/
theorem unconfigure_poolLaw {s : State} (h : PoolLaw s) (i : StreamId) :
    PoolLaw (s.setStream i (s.stream i).unconfigure) := by
  refine ⟨fun j => ?_, fun j hj => ?_, fun j k hjk b hb hb' => ?_⟩
  · rw [State.setStream_stream]
    split
    · exact .refl _
    · exact h.whole j
  · rw [State.setStream_stream] at hj ⊢
    split
    · rfl
    · next hji => rw [if_neg hji] at hj; exact h.none j hj
  · rw [State.setStream_stream] at hb hb'
    split at hb
    · exact absurd hb List.not_mem_nil
    · split at hb'
      · exact absurd hb' List.not_mem_nil
      · exact h.apart j k hjk b hb hb'

theorem streamSetup_poolLaw {s : State} (h : PoolLaw s) (tag : Byte) (f : SetupFields) :
    PoolLaw (s.streamSetup tag f) := by
  have refused (kind : Byte) (st : Status) : PoolLaw (s.refuse kind tag st) := h.of_keeps (.of_streams rfl)
  unfold State.streamSetup
  split
  · exact refused ..
  · next i hi =>
    dsimp only
    split
    · exact refused ..
    · split
      · exact (unconfigure_poolLaw h i).of_keeps (.of_streams rfl)
      · split
        · exact refused ..
        · next c hc =>
          split
          · exact refused ..
          · next ho =>
            exact (configure_poolLaw h (i := i) (c := c) (by simpa using ho)).of_keeps (.of_streams rfl)

theorem runStart_keepsPools (s : State) (tag : Byte) (f : StartFields) : s.KeepsPools (s.runStart tag f) := by
  have refused (st : Status) : s.KeepsPools (s.refuse kindRunStart tag st) := .of_streams rfl
  have armed (x : Stream) (m : StartMode) : x.KeepsPool (x.setupRun m f) :=
    .of_lists rfl rfl rfl rfl (by simp [Stream.setupRun])
  unfold State.runStart
  split
  · exact refused _
  · dsimp only
    split
    · exact refused _
    · split
      · exact refused _
      · split
        · exact refused _
        · next m hm =>
          split
          · exact refused _
          · refine .before (.setStream ?_) rfl
            split
            · exact (armed _ m).trans (.of_lists rfl rfl rfl rfl (by simp [Stream.enterRunning]))
            · exact armed _ _

theorem runStop_keepsPools (s : State) (tag stream : Byte) : s.KeepsPools (s.runStop tag stream) := by
  unfold State.runStop
  split
  · exact .of_streams rfl
  · split
    · exact .before (disarm_keepsPools ..) rfl
    · exact .before (requestStop_keepsPools ..).settle rfl
    · exact .of_streams rfl

theorem runAbort_keepsPools (s : State) (tag stream : Byte) : s.KeepsPools (s.runAbort tag stream) := by
  unfold State.runAbort
  split
  · exact .of_streams rfl
  · dsimp only
    split
    · exact .before (disarm_keepsPools ..) rfl
    · exact .before (abortRun_keepsPools ..).settle rfl
    · exact .before (abortRun_keepsPools ..).settle rfl
    · exact .of_streams rfl

theorem drainResume_keepsPools (s : State) (tag stream : Byte) : s.KeepsPools (s.drainResume tag stream) := by
  unfold State.drainResume
  split
  · exact .of_streams rfl
  · next i hi =>
    split
    · have hflow (t : State) : t.KeepsPools (t.modStream i fun x => { x with drain := .flowing }) :=
        .modStream (.of_lists rfl rfl rfl rfl id)
      exact .before (.after (hflow _) rfl) rfl
    · exact .of_streams rfl

theorem markNow_keepsPools (s : State) (tag stream : Byte) : s.KeepsPools (s.markNow tag stream) := by
  unfold State.markNow
  split
  · exact .of_streams rfl
  · dsimp only
    split
    · exact .before (latchMarker_keepsPools ..) rfl
    · exact .of_streams rfl

theorem previewStart_keepsPools (s : State) (i : StreamId) (tag : Byte) (plan : SpanPlan) :
    s.KeepsPools (s.previewStart i tag plan) := by
  unfold State.previewStart
  dsimp only
  have hpin : s.KeepsPools
      (s.modStream i fun y => { y with capture := pinBlocks (Seg.blocks plan.segs) y.capture }) :=
    .modStream (.of_map _ fun e => by split <;> rfl)
  refine (hpin.trans (.after (previewRun_keepsPools _) ?_)).settle
  rfl

theorem previewRequest_keepsPools (s : State) (tag stream sel : Byte) (maxBytes : BitVec 16) (index : BitVec 48) :
    s.KeepsPools (s.previewRequest tag stream sel maxBytes index) := by
  have refused (st : Status) : s.KeepsPools (s.refuse kindPreview tag st) := .of_streams rfl
  unfold State.previewRequest
  split
  · exact refused _
  · dsimp only
    split
    · exact refused _
    · split
      · exact refused _
      · split
        · exact refused _
        · split
          · exact refused _
          · split
            · exact previewStart_keepsPools ..
            · split
              · exact refused _
              · split
                · exact .of_streams rfl
                · exact previewStart_keepsPools ..

theorem auxRoute_streams (s : State) (tag line edge mask : Byte) :
    (s.auxRoute tag line edge mask).streams = s.streams := by
  unfold State.auxRoute; dsimp only; split <;> rfl

theorem windowGrant_streams (s : State) (tag : Byte) (a n : BitVec 48) :
    (s.windowGrant tag a n).streams = s.streams := by
  unfold State.windowGrant
  split
  · rfl
  · split
    · rfl
    · split
      · rfl
      · exact evalLow_streams _

theorem linkControl_streams (s : State) (tag a : Byte) : (s.linkControl tag a).streams = s.streams := by
  unfold State.linkControl
  split
  · exact linkEnable_streams s
  · split
    · exact linkDisable_streams s
    · rfl

theorem syncRequest_streams (s : State) (tag m : Byte) : (s.syncRequest tag m).streams = s.streams := by
  unfold State.syncRequest
  split
  · rfl
  · split <;> rfl

theorem statusRequest_streams (s : State) (tag sel i : Byte) : (s.statusRequest tag sel i).streams = s.streams := by
  unfold State.statusRequest
  split
  · rfl
  · split
    · split <;> rfl
    · rfl

theorem noticeMask_streams (s : State) (tag : Byte) (e : BitVec 16) : (s.noticeMask tag e).streams = s.streams := by
  unfold State.noticeMask; split <;> rfl

theorem noticeTake_streams (s : State) (tag : Byte) (e : BitVec 16) : (s.noticeTake tag e).streams = s.streams := by
  unfold State.noticeTake; split <;> rfl

theorem errorSetup_streams (s : State) (tag m c : Byte) : (s.errorSetup tag m c).streams = s.streams := by
  unfold State.errorSetup; split <;> rfl

theorem errorRead_streams (s : State) (tag m f : Byte) : (s.errorRead tag m f).streams = s.streams := by
  unfold State.errorRead; split <;> rfl

theorem inject_streams (s : State) (tag m t p : Byte) (a b : BitVec 16) :
    (s.inject tag m t p a b).streams = s.streams := by
  unfold State.inject
  split
  · rfl
  · dsimp only; split <;> rfl

theorem timingSet_streams (s : State) (tag f : Byte) (c y l : BitVec 32) :
    (s.timingSet tag f c y l).streams = s.streams := by
  unfold State.timingSet
  dsimp only
  split
  · rfl
  · exact evalLow_streams _

/-- A request taken keeps the law of the pools: STREAM_SETUP alone changes a pool (R65). -/
theorem runRequest_poolLaw {s : State} (h : PoolLaw s) (tag : Byte) (r : Request) : PoolLaw (s.runRequest tag r) := by
  have same {t : State} (ht : t.streams = s.streams) : PoolLaw t := h.of_keeps (.of_streams ht)
  cases r with
  | ident => exact same rfl
  | streamSetup f => exact streamSetup_poolLaw h tag f
  | auxRoute line edge mask => exact same (auxRoute_streams s tag line edge mask)
  | runStart f => exact h.of_keeps (runStart_keepsPools s tag f)
  | runStop i => exact h.of_keeps (runStop_keepsPools s tag i)
  | runAbort i => exact h.of_keeps (runAbort_keepsPools s tag i)
  | drainResume i => exact h.of_keeps (drainResume_keepsPools s tag i)
  | markNow i => exact h.of_keeps (markNow_keepsPools s tag i)
  | windowGrant a n => exact same (windowGrant_streams s tag a n)
  | linkControl a => exact same (linkControl_streams s tag a)
  | sync m => exact same (syncRequest_streams s tag m)
  | preview i sel n x => exact h.of_keeps (previewRequest_keepsPools s tag i sel n x)
  | status sel i => exact same (statusRequest_streams s tag sel i)
  | noticeMask e => exact same (noticeMask_streams s tag e)
  | noticeTake e => exact same (noticeTake_streams s tag e)
  | errorSetup m c => exact same (errorSetup_streams s tag m c)
  | errorRead m f => exact same (errorRead_streams s tag m f)
  | inject m t p a b => exact same (inject_streams s tag m t p a b)
  | timingSet f c y l => exact same (timingSet_streams s tag f c y l)
  | reset => exact same rfl

/-! ### The control link (chapter 9) -/

theorem PoolLaw.modCtl {s : State} (h : PoolLaw s) (f : Control → Control) : PoolLaw (s.modCtl f) :=
  h.of_keeps (.of_streams rfl)

theorem execute_poolLaw {s : State} (h : PoolLaw s) (fuel : Nat) : PoolLaw (s.execute fuel) := by
  induction fuel generalizing s with
  | zero => exact h
  | succ fuel ih =>
    unfold State.execute
    split
    · exact h
    · next f rest hin =>
      split
      · have htake : PoolLaw (s.takeFrame rest) := h.of_keeps (.of_streams rfl)
        refine ih ?_
        unfold State.runFrame
        split
        · exact htake.of_keeps (.of_streams rfl)
        · exact htake.of_keeps (.of_streams rfl)
        · exact runRequest_poolLaw htake ..
      · exact h

theorem submit_poolLaw {s : State} (h : PoolLaw s) (f : InFrame) : PoolLaw (s.submit f) := by
  unfold State.submit State.executor
  exact execute_poolLaw (h.modCtl _) _

theorem writePeriodEnd_poolLaw {s : State} (h : PoolLaw s) (bytes : List Byte) : PoolLaw (s.writePeriodEnd bytes) := by
  unfold State.writePeriodEnd
  split
  · exact h.of_keeps (.of_streams rfl)
  · exact h.of_keeps (.of_streams rfl)
  · exact submit_poolLaw h _

/-- After a reset no stream has a pool (R2, R63). -/
theorem poolLaw_of_reset {s : State} (h : s.streams = .same .reset) : PoolLaw s := by
  have hs (i : StreamId) : s.stream i = .reset := by
    rw [State.stream, h, Quad.get_same]
  exact ⟨fun i => by rw [hs]; exact .refl _, fun i _ => by rw [hs]; rfl,
    fun i j _ b hb => by rw [hs] at hb; exact absurd hb List.not_mem_nil⟩

@[simp] theorem takePfail_streams (s : State) (level : Bool) : (s.takePfail level).streams = s.streams := by
  unfold State.takePfail; dsimp only; split <;> rfl

theorem readPeriodEnd_poolLaw {s : State} (h : PoolLaw s) (clocked : Nat) : PoolLaw (s.readPeriodEnd clocked) := by
  unfold State.readPeriodEnd
  split
  · exact h
  · next r hr =>
    have h1 := h.modCtl fun c => { c with reading := none }
    dsimp only
    split
    · unfold State.removeHead
      split
      · exact h1
      · split
        · exact poolLaw_of_reset (takePfail_streams ..)
        · exact execute_poolLaw (h1.modCtl _) _
    · exact h1

/-! ### Every step (R4) -/

/-- Every command keeps the law of the pools. -/
theorem exec_poolLaw {s t : State} (h : PoolLaw s) {c : Instr} (ht : exec c s = .next t) : PoolLaw t := by
  have keeps {u : State} (k : s.KeepsPools u) (hu : Host.Outcome.next u = (.next t : Result)) : PoolLaw t := by
    obtain rfl := Host.Outcome.next.inj hu; exact h.of_keeps k
  have same {u : State} (k : u.streams = s.streams) (hu : Host.Outcome.next u = (.next t : Result)) : PoolLaw t :=
    keeps (.of_streams k) hu
  have law {u : State} (k : PoolLaw u) (hu : Host.Outcome.next u = (.next t : Result)) : PoolLaw t := by
    obtain rfl := Host.Outcome.next.inj hu; exact k
  cases c with
  | powerOn | rst => exact law (poolLaw_of_reset (takePfail_streams ..)) ht
  | pfailAssert => exact keeps (pfailAssert_keepsPools s) ht
  | pfailDeassert => exact keeps (pfailDeassert_keepsPools s) ht
  | beatArrival lane beat mark => exact keeps (beatArrival_keepsPools s lane beat mark) ht
  | beatTake i => exact keeps (beatTake_keepsPools s i) ht
  | sampleProcess i => exact keeps (sampleProcess_keepsPools s i) ht
  | flushAgeExpiry i => exact keeps (flushAgeExpiry_keepsPools s i) ht
  | flushComplete us =>
    change execFlushComplete us s = _ at ht
    unfold execFlushComplete at ht
    split at ht
    · split at ht
      · exact keeps ((upsets_keepsPools s us).trans (flushDone_keepsPools ..)) ht
      · nomatch ht
    · exact same rfl ht
  | drainReadComplete us =>
    change execDrainReadComplete us s = _ at ht
    unfold execDrainReadComplete at ht
    split at ht
    · split at ht
      · refine keeps ((upsets_keepsPools s us).trans (.settle (.before ?_ (State.freePort_streams _)))) ht
        split
        · exact drainTake_keepsPools ..
        · exact .of_streams (countUnits_streams ..)
      · nomatch ht
    · exact same rfl ht
  | previewReadComplete us =>
    change execPreviewReadComplete us s = _ at ht
    unfold execPreviewReadComplete at ht
    split at ht
    · split at ht
      · refine keeps ((upsets_keepsPools s us).trans (.settle (.after ?_ (State.freePort_streams _)))) ht
        split
        · exact previewTake_keepsPools ..
        · exact .of_streams (countUnits_streams ..)
      · nomatch ht
    · exact same rfl ht
  | auxEdge line rising => exact keeps (auxEdge_keepsPools s line rising) ht
  | cut => exact keeps (cut_keepsPools s) ht
  | rePlacement => exact keeps (rePlace_keepsPools s) ht
  | gateEnd => exact same (gateEnd_streams s) ht
  | writeSend us => exact keeps ((upsets_keepsPools s us).before (trySend_streams _)) ht
  | durableQuerySend => exact same (durableQuerySend_streams s) ht
  | accept => exact keeps (accept_keepsPools s) ht
  | retry us => exact keeps (retry_keepsPools s us) ht
  | narrow => exact keeps (narrow_keepsPools s) ht
  | refuse code => exact keeps (refuseWrite_keepsPools s code) ht
  | committed a => exact keeps (committed_keepsPools s a.toNat) ht
  | refused a code => exact keeps (refusedMessage_keepsPools s a.toNat code) ht
  | commitTimeout i seq => exact keeps (commitTimeout_keepsPools s i seq) ht
  | durable => exact same (durable_streams s) ht
  | notYet => exact same (notYet_streams s) ht
  | pollWaitEnd => exact same (by unfold State.pollWaitEnd; split <;> rfl) ht
  | syncTimeout => exact same (by unfold State.syncTimeout; split <;> rfl) ht
  | responseTimeout => exact same (responseTimeout_streams s) ht
  | badFrame => exact same (linkFault_streams s .badFrame) ht
  | trainingLost => exact same (linkFault_streams s .trainingLost) ht
  | faultWaitEnd => exact same (by unfold State.faultWaitEnd; split <;> rfl) ht
  | trainingReply => exact same (trainingReply_streams s) ht
  | attemptEnd => exact same (by unfold State.attemptEnd; split <;> rfl) ht
  | restEnd => exact same (by unfold State.restEnd; split <;> rfl) ht
  | badOpener opener => exact same (by unfold State.badOpener; split <;> rfl) ht
  | writePeriodEnd bytes => exact law (writePeriodEnd_poolLaw h bytes) ht
  | readPeriodStart => exact same (State.modCtl_streams s _) ht
  | readPeriodEnd clocked => exact law (readPeriodEnd_poolLaw h clocked) ht
  | unknownRequest | ident | streamSetup | auxRoute | runStart | runStop | runAbort | drainResume | markNow
  | windowGrant | linkControlEnable | linkControlDisable | sync | preview | statusDevice | statusStream | noticeMask
  | noticeTake | errorSetup | errorRead | inject | timingSet | reset => exact law (submit_poolLaw h _) ht

/-- Settles O54: every command keeps the streams' pools but STREAM_SETUP and the resets, whose new pools are read
off. -/
theorem stepsKeepThePools : Obligations.StepsKeepThePools := by
  intro s t h ht
  unfold step at ht
  split at ht
  · obtain rfl := Host.Outcome.next.inj ht; exact h
  · next c rest hp =>
    have hrest : PoolLaw { s with pending := rest } := h.of_keeps (.of_streams rfl)
    exact exec_poolLaw hrest ht

end Sys2Proof.Machine
end

section
/-! SUPPORT. The laws after reset, the release scan, the port grant, and RESET. -/

namespace Sys2Proof.Machine

/-! ### The state after reset -/

@[simp] theorem reset_stream (i : StreamId) : State.reset.stream i = .reset := Quad.get_same ..

theorem reset_placementLaw : PlacementLaw State.reset where
  fits := fun _ hw => absurd hw List.not_mem_nil
  windows := .nil
  addressed := fun _ he => absurd he List.not_mem_nil
  entries := .nil
  unused := fun _ he => absurd he List.not_mem_nil

theorem reset_commitLaw : CommitLaw State.reset where
  bound := Nat.zero_le _
  ordered := .nil
  below := fun _ he => absurd he List.not_mem_nil
  active := fun _ he => absurd he List.not_mem_nil
  close := fun _ he => absurd he List.not_mem_nil
  runs := fun i hi => by rw [reset_stream] at hi; exact absurd hi (by decide)

theorem reset_boundsLaw : BoundsLaw State.reset where
  streams := fun i => by rw [reset_stream]; constructor <;> decide
  windows := Nat.zero_le _
  abandoned := Nat.zero_le _
  dead := Nat.zero_le _
  rates := ⟨Nat.zero_le _, Nat.zero_le _⟩
  link := ⟨Nat.zero_le _, Nat.zero_le _⟩
  spans := fun _ he => absurd he List.not_mem_nil
  memories := fun m => by cases m <;> exact ⟨Nat.zero_le _, Nat.zero_le _⟩
  control := by decide
  notices := ⟨fun i c => by cases i <;> cases c <;> exact Nat.zero_le _, fun c => by cases c <;> exact Nat.zero_le _⟩

/-- Settles O53: after reset every list is empty, every count 0 and every stream unconfigured. -/
theorem resetMeetsTheLaws : Obligations.ResetMeetsTheLaws := by
  refine ⟨poolLaw_of_reset rfl, ⟨fun i => ?_, fun i hi => ?_⟩, reset_placementLaw, reset_commitLaw, ?_, ?_,
    reset_boundsLaw, ?_, reset_mem_wf⟩
  · rw [reset_stream]; decide
  · rw [reset_stream] at hi; exact absurd hi (by decide)
  · exact ⟨by decide, by decide, by decide⟩
  · exact ⟨by decide, by decide, by decide, by decide, by decide⟩
  · exact ⟨rfl, by decide⟩

/-! ### The release scan (R14, R15) -/

/-- MEMORY raised `k` times stands `k` higher, up to its maximum (R194). -/
theorem raiseMemory_eq {n : Notices} (h : n.device.memory ≤ 65535) (k : Nat) : n.raiseMemory k =
    { n with device := { n.device with memory := min 65535 (n.device.memory + k) } } := by
  induction k generalizing n with
  | zero => rw [Nat.add_zero, Nat.min_eq_right h]; rfl
  | succ k ih =>
    rw [Notices.raiseMemory, ih (Nat.min_le_left ..)]
    simp only [Notices.raiseDevice, DeviceCounts.set, DeviceCounts.get, inc16, satAdd, Notices.mk.injEq,
      DeviceCounts.mk.injEq, true_and, and_true]
    omega

/-- The scan of a list whose entries up to `kept` are releasable and whose next one is not. -/
theorem releaseSplit_at {all : Bool} {commit : Nat} {gone kept : List Entry}
    (hg : ∀ e ∈ gone, e.releasable all commit = true)
    (hk : ∀ e rest, kept = e :: rest → e.releasable all commit = false) :
    releaseSplit all commit (gone ++ kept) = (gone, kept) := by
  induction gone with
  | nil =>
    cases kept with
    | nil => rfl
    | cons e rest => simp [releaseSplit, hk e rest rfl]
  | cons e gone ih =>
    simp [releaseSplit, hg e List.mem_cons_self, ih fun f hf => hg f (List.mem_cons_of_mem _ hf)]

theorem releasable_iff (e : Entry) (commit : Nat) : e.releasable false commit = true ↔
    e.st = .drained ∧ e.first + e.kept * 2 ^ e.k ≤ commit ∧ e.pins = 0 := by
  rw [show e.first + e.kept * 2 ^ e.k = e.covEnd from rfl]
  simp [Entry.releasable, and_assoc]

/-- Settles O37, by induction on the released entries. -/
theorem theReleaseScanFreesTheHead : Obligations.TheReleaseScanFreesTheHead := by
  intro i gone kept s x free hlist hgone hkept hmem marked plain
  have hsplit : releaseSplit false (s.stream i).commitIndex (s.stream i).capture = (gone, kept) := by
    rw [show (s.stream i).capture = gone ++ kept from hlist]
    refine releaseSplit_at (fun e he => (releasable_iff ..).2 (hgone e he)) fun e rest he => ?_
    exact Bool.eq_false_iff.2 fun h => hkept e rest he ((releasable_iff ..).1 h)
  rw [releaseScan_eq, Stream.scanned, Stream.scanMarked, hsplit, raiseMemory_eq hmem]
  rfl

/-! ### The memory port (R1, R19) -/

/-- How far a stream stands behind the rotation. -/
def rotationRank (rot i : StreamId) : Nat := (i.num + 4 - rot.num) % 4

/-- The streams that stand before a stream in the rotation rank below it. -/
theorem rotationFrom_split (rot i : StreamId) :
    ∃ before after, rotationFrom rot = before ++ i :: after ∧ ∀ j ∈ before, rotationRank rot j < rotationRank rot i := by
  refine ⟨(rotationFrom rot).takeWhile (· != i), ((rotationFrom rot).dropWhile (· != i)).tail, ?_, ?_⟩
  · cases rot <;> cases i <;> rfl
  · cases rot <;> cases i <;> decide

/-- The waiting writer that ranks lowest is found first (R19 case 1). -/
theorem waitingWriter_of_first {s : State} {i : StreamId} {a : Nat} (hi : (s.stream i).flushWants = some a)
    (hfirst : ∀ j b, (s.stream j).flushWants = some b → rotationRank s.port.rot i ≤ rotationRank s.port.rot j) :
    s.waitingWriter = some (i, a) := by
  obtain ⟨before, after, hsplit, hrank⟩ := rotationFrom_split s.port.rot i
  have hbefore : before.findSome? (fun j => (s.stream j).flushWants.map fun b => (j, b)) = none := by
    refine List.findSome?_eq_none_iff.2 fun j hj => ?_
    cases hw : (s.stream j).flushWants with
    | none => rfl
    | some b => exact absurd (hfirst j b hw) (Nat.not_le.2 (hrank j hj))
  simp [State.waitingWriter, hsplit, List.findSome?_append, hbefore, hi]

theorem waitingWriter_none {s : State} (h : ∀ i, (s.stream i).flushWants = none) : s.waitingWriter = none :=
  List.findSome?_eq_none_iff.2 fun j _ => by rw [h j]; rfl

theorem portGrant_of_free {s : State} (h : s.port.granted = none) : s.portGrant = { s with port := s.grantNext } := by
  simp [State.portGrant, h]

theorem inCapture_of_le {addr len : Nat} (h : addr + len ≤ 17179869184) : inCapture addr len = true := decide_eq_true h

theorem inCapture_of_gt {addr len : Nat} (h : 17179869184 < addr + len) : inCapture addr len = false :=
  decide_eq_false (Nat.not_le.2 h)

/-- Settles O31: the cases of the arbiter one by one, and the bound of each kind of access. -/
theorem portGrantsAndBounds : Obligations.PortGrantsAndBounds := by
  refine ⟨fun s => ⟨fun hbusy => ?_, fun hfree => ⟨fun i a hi hfirst => ?_, fun hnone => ⟨fun hd hp => ?_,
    fun d hd hp => ?_, fun a n hp hd => ?_⟩⟩⟩, fun us s => ⟨fun i a b hg hout => ?_, fun a n q l hg hout => ?_,
    fun a n l hg hout => ?_⟩⟩
  · obtain ⟨g, hg⟩ := Option.ne_none_iff_exists'.1 hbusy
    simp [State.portGrant, hg]
  · rw [portGrant_of_free hfree, State.grantNext, waitingWriter_of_first hi hfirst]
  · rw [portGrant_of_free hfree, State.grantNext, waitingWriter_none hnone, hd, hp]
  · rw [portGrant_of_free hfree, State.grantNext, waitingWriter_none hnone, hd]
    rcases hp with hp | hl
    · rw [hp]
    · cases hp : s.previewWants <;> simp [hl]
  · rw [portGrant_of_free hfree, State.grantNext, waitingWriter_none hnone, hp]
    rcases hd with hd | hl
    · rw [hd]
    · cases hd : s.drainWants <;> simp [hl]
  · have hin : inCapture a (s.flushLen i (some b)) = false := inCapture_of_gt hout
    change execFlushComplete us s = _
    simp [execFlushComplete, hg, hin]
  · change execDrainReadComplete us s = _
    simp [execDrainReadComplete, hg, inCapture_of_gt hout]
  · change execPreviewReadComplete us s = _
    simp [execPreviewReadComplete, hg, inCapture_of_gt hout]

/-! ### RESET (R81, R123, R188, R189) -/

/-- Everything a RESET request changes as it takes effect. -/
theorem softReset_eq (s : State) : s.softReset = { State.reset with
    pending := s.pending, mem := s.mem,
    port := { State.reset.port with granted := s.grantedAfterReset },
    link := s.link.softReset,
    integ := ⟨s.integ.capture.disarmed, s.integ.staging.disarmed, s.integ.replay.disarmed⟩,
    ctl := { State.reset.ctl with resetCause := .resetRequest },
    pfail := s.pfail, powerFail := s.pfail,
    notices := { State.reset.notices with device := { State.reset.notices.device with
      power := if s.pfail then 1 else 0 } } } := by
  unfold State.softReset State.takePfail
  cases s.pfail <;> rfl

/-- Settles O22: the request as taken at once, and the reset of every item as its reply leaves. -/
theorem resetRequestHoldsThenResets : Obligations.ResetRequestHoldsThenResets := by
  refine fun s => ⟨fun tag h => ?_, fun n f rest hout hreset hreading hn => ?_⟩
  · change Host.Outcome.next (s.submit (requestFrame tag .reset)) = _
    rw [submit_of_takesAtOnce h]
    change Host.Outcome.next ((s.takeFrame []).resetRequest tag) = _
    simp [State.resetRequest, State.modCtl, Control.replyFrame, Control.common, Control.shortFree, Control.longFree,
      Control.shortUsed, Control.longUsed, shortSlots, longSlots, replyKind, kindReset, Status.code, h.1,
        State.takeFrame]
  · have hend : s.readPeriodEnd n = (s.modCtl fun c => { c with reading := none }).softReset := by
      simp [State.readPeriodEnd, hreading, hn, State.removeHead, hout, hreset]
    change Host.Outcome.next (s.readPeriodEnd n) = _
    rw [hend, softReset_eq]
    rfl

end Sys2Proof.Machine
end

section
/-! SUPPORT. The choice of the SENDING entry, the build of a record without payload, injected flips, and the drain
reads of a transfer (R18, R106, R130 to R133, R172, R173). -/

namespace Sys2Proof.Machine

/-! ### The choice of an entry (R130) -/

theorem selectSending_of_no_choice {l : Link}
    (h : l.state ≠ .up ∨ (∃ f ∈ l.commit, f.st = .sending) ∨ ∀ f ∈ l.commit, f.st ≠ .ready) :
    l.selectSending = l := by
  unfold Link.selectSending
  split
  · next hc =>
    obtain ⟨hup, hnone⟩ := Bool.and_eq_true_iff.1 hc
    rcases h with h | ⟨f, hf, hs⟩ | h
    · exact absurd hup (by simpa [Link.isUp] using h)
    · rw [Option.isNone_iff_eq_none, Link.sending, List.find?_eq_none] at hnone
      exact absurd (hnone f hf) (by simp [CommitEntry.isSending, hs])
    · rw [modifyFirst_none fun f hf => by simpa using h f hf]
  · rfl

theorem selectSending_at {l : Link} {before after : List CommitEntry} {e : CommitEntry} (hup : l.state = .up)
    (hnone : ∀ f ∈ l.commit, f.st ≠ .sending) (hl : l.commit = before ++ e :: after) (he : e.st = .ready)
    (hb : ∀ f ∈ before, f.st ≠ .ready) :
    l.selectSending = { l with commit := before ++ { e with st := .sending } :: after } := by
  have hs : l.sending = none := List.find?_eq_none.2 fun f hf => by simpa [CommitEntry.isSending] using hnone f hf
  rw [Link.selectSending, Link.isUp, hup, hs, if_pos (by decide), hl,
    modifyFirst_at (by simp [he]) fun f hf => by simpa using hb f hf]

/-! ### A record without payload (R132, R133) -/

theorem padTo_length {n : Nat} {bs : List Byte} (h : bs.length ≤ n) : (padTo n bs).length = n := by
  simp [padTo]; omega

@[simp] theorem byteField_length (x : Nat) : (byteField x).length = 1 := leBytes_length ..

@[simp] theorem slot8_length (x : Nat) : (slot8 x).length = 8 := by simp [slot8]

@[simp] theorem headerBytes_length (e : CommitEntry) : e.headerBytes.length = 64 := by
  unfold CommitEntry.headerBytes
  refine padTo_length ?_
  cases e.body <;> simp

theorem bodyBytes_length {e : CommitEntry} (h : e.body.isData = false) : e.bodyBytes.length = 376 := by
  unfold CommitEntry.bodyBytes
  cases hb : e.body with
  | dataRec => rw [hb] at h; exact absurd h nofun
  | openRec | gapRec | markRec | closeRec => exact padTo_length (by simp)

/-- The bytes before the CRC field is put in, one by one (R132, R133). -/
theorem laidBytes_getElem? (e : CommitEntry) (r : Replay) (p : Nat) :
    (e.laidBytes r)[p]? = r.bytes[p]?.map fun b =>
      if e.isPayload (r.off + p) || !r.touched e p then b
      else e.fixedByte e.headerBytes e.bodyBytes
        (trailerHead e.body.isData (addSpans r.held e.xfer.spans e.xfer.overflow).1
          (addSpans r.held e.xfer.spans e.xfer.overflow).2) (r.off + p) := by
  simp [CommitEntry.laidBytes, Function.comp_def]

theorem payload_of_not_data {b : RecBody} (h : b.isData = false) : b.payload = 0 := by
  cases b with
  | dataRec => exact absurd h nofun
  | openRec | gapRec | markRec | closeRec => rfl

theorem runs_of_not_data {b : RecBody} (h : b.isData = false) : b.runs = [] := by
  cases b with
  | dataRec => exact absurd h nofun
  | openRec | gapRec | markRec | closeRec => rfl

/-- The bytes of a 512-byte record without payload before its CRC (section 11.1). -/
def CommitEntry.plainFront (e : CommitEntry) : List Byte := e.headerBytes ++ e.bodyBytes ++ zeros 68

theorem plainFront_length {e : CommitEntry} (h : e.body.isData = false) : e.plainFront.length = 508 := by
  simp [CommitEntry.plainFront, bodyBytes_length h]

theorem zeros_getElem? (n p : Nat) : (zeros n)[p]? = if p < n then some 0#8 else none := List.getElem?_replicate

@[simp] theorem zeros_getElem?_getD (n p : Nat) : (zeros n)[p]?.getD 0#8 = 0#8 := by
  rw [zeros_getElem?]; split <;> rfl

/-- The record byte `p` of a record without payload, from the front as a whole. -/
theorem fixedByte_plain {e : CommitEntry} (h : e.body.isData = false) (hsize : e.size = 512) (p : Nat) :
    e.fixedByte e.headerBytes e.bodyBytes (zeros 68) p = e.plainFront.getD p 0#8 := by
  have hbody := bodyBytes_length h
  unfold CommitEntry.fixedByte CommitEntry.plainFront
  simp only [List.getD_eq_getElem?_getD]
  by_cases h1 : p < 64
  · rw [if_pos h1, List.append_assoc, List.getElem?_append_left (by simpa using h1)]
  · rw [if_neg h1]
    by_cases h2 : e.size - 72 ≤ p
    · rw [if_pos h2, List.getElem?_append_right (by simp [hbody]; omega)]
      simp
    · rw [if_neg h2, List.getElem?_append_left (by simp [hbody]; omega),
        List.getElem?_append_right (by simp; omega)]
      simp

/-- A 512-byte record without payload of which nothing has been sent. -/
structure CommitEntry.IsPlain (e : CommitEntry) : Prop where
  body : e.body.isData = false
  size : e.size = 512
  xfer : e.xfer = .start

theorem freshReplay_plain {e : CommitEntry} (h : e.IsPlain) :
    e.freshReplay = ⟨0, 512, zeros 512, [], false, [], [], none⟩ := by
  have hlen : e.transferLen = 512 := by simp [CommitEntry.transferLen, h.xfer, h.size, Xfer.start]
  have hreads (lo hi : Nat) : e.reads lo hi = [] := by
    simp [CommitEntry.reads, runs_of_not_data h.body, sliceRuns]
  simp [CommitEntry.freshReplay, hlen, hreads, h.xfer, Xfer.start]

/-- Header, body, padding and trailer are laid at a fill of a record without payload. -/
theorem laidBytes_plain {e : CommitEntry} (h : e.IsPlain) :
    e.laidBytes e.freshReplay = (List.range 512).map fun p => e.plainFront.getD p 0#8 := by
  have hpay (p : Nat) : e.isPayload p = false := by
    simp only [CommitEntry.isPayload, payload_of_not_data h.body, Bool.and_eq_false_iff, decide_eq_false_iff_not]
    omega
  have htrailer (spans : List Span) (o : Bool) : trailerHead e.body.isData spans o = zeros 68 := by
    simp [trailerHead, h.body]
  refine List.ext_getElem? fun p => ?_
  rw [laidBytes_getElem?, freshReplay_plain h]
  dsimp only
  rw [zeros_getElem?, List.getElem?_map]
  by_cases hp : p < 512
  · rw [if_pos hp, List.getElem?_range hp]
    simp [hpay, htrailer, Replay.touched, fixedByte_plain h.body h.size]
  · rw [if_neg hp, List.getElem?_eq_none (by simpa using hp)]
    rfl

/-- A whole record without payload is its front and the CRC-32 over it (R106, R133). -/
theorem sealedBytes_plain {e : CommitEntry} (h : e.IsPlain) : e.sealedBytes e.freshReplay = e.plainBytes := by
  have hfront : (e.laidBytes e.freshReplay).take 508 = e.plainFront := by
    have hl := plainFront_length h.body
    rw [laidBytes_plain h, ← List.map_take, List.take_range]
    refine List.ext_getElem (by simp [hl]) fun p hp hp' => ?_
    simp [List.getElem?_eq_getElem hp']
  have hlast : e.freshReplay.isLast e = true := by
    rw [freshReplay_plain h]; simp [Replay.isLast, h.size]
  have hlen : e.freshReplay.len = 512 := by rw [freshReplay_plain h]
  rw [CommitEntry.sealedBytes, CommitEntry.withCrc, hlast, hlen, if_pos rfl]
  dsimp only
  rw [hfront, h.xfer]
  rfl

/-- The buffer with a record without payload whole. -/
theorem finish_plain {e : CommitEntry} (h : e.IsPlain) :
    e.finish e.freshReplay = ⟨0, 512, e.plainBytes, parityBits e.plainBytes, true, [], [], none⟩ := by
  have hparity (ps : List Bool) : ps.zipIdx.map (fun p => p.1) = ps := by simp
  unfold CommitEntry.finish
  simp only [sealedBytes_plain h]
  rw [freshReplay_plain h]
  simp [Replay.touched]

/-- A record without payload is built at once. -/
theorem startBuild_plain {s : State} {e : CommitEntry} (h : e.IsPlain) (hup : s.link.state = .up)
    (hs : s.link.sending = some e) (hr : s.link.replay = none) : s.startBuild = s.finishBuild e e.freshReplay := by
  have htodo : e.freshReplay.todo = [] := by rw [freshReplay_plain h]
  simp [State.startBuild, Link.isUp, hup, hs, hr, htodo]

/-! ### Injected flips (R172, R173) -/

theorem Arming.mem_positions (g : Arming) (q : Nat) : q ∈ g.positions ↔ g.hits q := by
  unfold Arming.positions Arming.hits
  cases hb : g.b with
  | none => simp
  | some b =>
    dsimp only
    split
    · next hba => subst hba; simp [eq_comm]
    · simp [eq_comm]

theorem Arming.positions_nodup (g : Arming) : g.positions.Nodup := by
  unfold Arming.positions
  cases hb : g.b with
  | none => simp
  | some b =>
    dsimp only
    split
    · simp
    · next hba => simp [Ne.symm hba]

@[simp] theorem flipBit_length (bs : List Byte) (base q : Nat) : (flipBit bs base q).length = bs.length := by
  simp [flipBit]

@[simp] theorem flipParity_length (ps : List Bool) (w : Nat) : (flipParity ps w).length = ps.length := by
  simp [flipParity]

/-- One flip inverts its bit and no other. -/
theorem flipBit_getLsbD (bs : List Byte) (base q n j : Nat) (hn : n < bs.length) (hj : j < 8) :
    ((flipBit bs base q).getD n 0#8).getLsbD j =
      ((bs.getD n 0#8).getLsbD j ^^ decide (n = base + q / 8 ∧ j = q % 8)) := by
  simp only [flipBit, List.getD_eq_getElem?_getD, List.getElem?_modify, List.getElem?_eq_getElem hn]
  by_cases hb : base + q / 8 = n
  · have hbit : (1#8 <<< (q % 8)).getLsbD j = decide (j = q % 8) := by
      rw [BitVec.getLsbD_shiftLeft, BitVec.getLsbD_one]
      simp only [hj, decide_true, Bool.true_and]
      by_cases hjq : j = q % 8
      · simp [hjq]
      · simp [hjq]; omega
    simp [hb, hbit]
  · simp [hb, Ne.symm hb]

theorem flipParity_getD (ps : List Bool) (w n : Nat) (hn : n < ps.length) :
    (flipParity ps w).getD n false = (ps.getD n false ^^ decide (n = w)) := by
  simp only [flipParity, List.getD_eq_getElem?_getD, List.getElem?_modify, List.getElem?_eq_getElem hn]
  by_cases hw : w = n
  · simp [hw]
  · simp [hw, Ne.symm hw]

/-- Flips made one by one invert what is read at a place exactly when one of them is at the place: `read` is what
stands there, and `P q` says that flip `q` is there, as one position at most is. -/
theorem foldl_flips {α : Type} {read : α → Bool} {flip : α → Nat → α} {P : Nat → Prop} [DecidablePred P]
    {ok : α → Prop} (huniq : ∀ q q', P q → P q' → q = q') (hok : ∀ x q, ok x → ok (flip x q))
    (hflip : ∀ x q, ok x → read (flip x q) = (read x ^^ decide (P q))) {qs : List Nat} (hqs : qs.Nodup) {x : α}
    (hx : ok x) : read (qs.foldl flip x) ≠ read x ↔ ∃ q ∈ qs, P q := by
  induction qs generalizing x with
  | nil => simp
  | cons q qs ih =>
    obtain ⟨hq, hqs⟩ := List.nodup_cons.1 hqs
    have h := ih hqs (hok x q hx)
    rw [hflip x q hx] at h
    rw [List.foldl_cons]
    by_cases hp : P q
    · have hno : ¬ ∃ q' ∈ qs, P q' := fun ⟨q', hq', hp'⟩ => hq (huniq q q' hp hp' ▸ hq')
      rw [← not_congr h, not_not] at hno
      rw [hno]
      simp [hp]
    · simp only [hp, decide_false, Bool.xor_false] at h
      simp [h, hp]

/-- The bytes with the data bits at some positions inverted, one by one. -/
theorem foldl_flipBit_length (qs : List Nat) (bs : List Byte) (base : Nat) :
    (qs.foldl (fun bs q => flipBit bs base q) bs).length = bs.length := by
  induction qs generalizing bs with
  | nil => rfl
  | cons q qs ih => rw [List.foldl_cons, ih, flipBit_length]

theorem foldl_flipParity_length (qs : List Nat) (ps : List Bool) (base : Nat) :
    (qs.foldl (fun ps q => flipParity ps (base + q)) ps).length = ps.length := by
  induction qs generalizing ps with
  | nil => rfl
  | cons q qs ih => rw [List.foldl_cons, ih, flipParity_length]

/-- Inverting the positions of an arming, in the terms of the statements. -/
theorem flippedBy_flips (g : Arming) (line : Nat) (bs : List Byte) (ps : List Bool) :
    flippedBy g line bs
      (if g.check then bs else g.positions.foldl (fun bs q => flipBit bs (64 * line) q) bs) ps
      (if g.check then g.positions.foldl (fun ps q => flipParity ps (8 * line + q)) ps else ps) := by
  simp only [← g.mem_positions, flippedBy]
  cases g.check with
  | true =>
    refine ⟨rfl, foldl_flipParity_length .., fun _ => ⟨rfl, fun n hn => ?_⟩, nofun⟩
    exact foldl_flips (read := fun ps => ps.getD n false) (P := fun q => n = 8 * line + q)
      (ok := fun ps => n < ps.length) (by omega) (fun x q h => by simpa using h)
      (fun x q h => flipParity_getD x _ n h) g.positions_nodup hn
  | false =>
    refine ⟨foldl_flipBit_length .., rfl, nofun, fun _ => ⟨rfl, fun n j hn hj => ?_⟩⟩
    exact foldl_flips (read := fun bs => (bs.getD n 0#8).getLsbD j)
      (P := fun q => n = 64 * line + q / 8 ∧ j = q % 8) (ok := fun bs => n < bs.length) (by omega)
      (fun x q h => by simpa using h) (fun x q h => flipBit_getLsbD x _ q n j h hj) g.positions_nodup hn

/-- The armed flip of REPLAY inverts bits of the buffer's bytes or of its parity (R173). -/
theorem Replay.inject_eq (r : Replay) (g : Arming) : r.inject g = { r with
    bytes := if g.check then r.bytes else g.positions.foldl (fun bs q => flipBit bs 0 q) r.bytes,
    parity := if g.check then g.positions.foldl (fun ps q => flipParity ps q) r.parity else r.parity } := by
  unfold Replay.inject
  generalize g.positions = qs
  induction qs generalizing r with
  | nil => cases g.check <;> rfl
  | cons q qs ih => rw [List.foldl_cons, ih]; cases g.check <;> rfl

/-! ### The drain reads of a transfer (R18, R132) -/

/-- Every read of the runs from payload offset `base` on lies in the part asked for and above `base`. -/
theorem sliceRuns_bounds {rs : List SrcRun} {base a b : Nat} {d : DrainRead} (h : d ∈ sliceRuns rs base a b) :
    0 < d.len ∧ a ≤ d.pos ∧ base ≤ d.pos ∧ d.pos + d.len ≤ b := by
  induction rs generalizing base with
  | nil => exact absurd h List.not_mem_nil
  | cons r rs ih =>
    simp only [sliceRuns] at h
    have hrest (h : d ∈ sliceRuns rs (base + r.bytes) a b) : 0 < d.len ∧ a ≤ d.pos ∧ base ≤ d.pos ∧
      d.pos + d.len ≤ b := by
      have := ih h; omega
    split at h
    · rcases List.mem_cons.1 h with rfl | h
      · dsimp only; omega
      · exact hrest h
    · exact hrest h

/-- The reads come in the order of the payload and do not overlap. -/
theorem sliceRuns_pairwise (rs : List SrcRun) (base a b : Nat) :
    (sliceRuns rs base a b).Pairwise fun c d => c.pos + c.len ≤ d.pos := by
  induction rs generalizing base with
  | nil => exact .nil
  | cons r rs ih =>
    simp only [sliceRuns]
    split
    · refine .cons (fun d hd => ?_) (ih _)
      have := sliceRuns_bounds hd
      dsimp only; omega
    · exact ih _

/-- A payload byte of the part is read from its place in its source run. -/
theorem sliceRuns_reads {before after : List SrcRun} {r : SrcRun} {base a b q : Nat} (ha : a ≤ q) (hb : q < b)
    (hlo : base + (before.map (·.bytes)).sum ≤ q) (hhi : q < base + (before.map (·.bytes)).sum + r.bytes) :
    ∃ d ∈ sliceRuns (before ++ r :: after) base a b, d.pos ≤ q ∧ q < d.pos + d.len ∧
      d.addr + (q - d.pos) = r.block * 262144 + r.offset + (q - (base + (before.map (·.bytes)).sum)) := by
  induction before generalizing base with
  | nil =>
    simp only [List.map_nil, List.sum_nil, Nat.add_zero] at hlo hhi ⊢
    simp only [List.nil_append, sliceRuns]
    rw [if_pos (by omega)]
    refine ⟨_, List.mem_cons_self, ?_⟩
    simp only [blockBytes]
    omega
  | cons c before ih =>
    simp only [List.map_cons, List.sum_cons, ← Nat.add_assoc] at hlo hhi ⊢
    obtain ⟨d, hd, hread⟩ := ih hlo hhi
    refine ⟨d, ?_, hread⟩
    simp only [List.cons_append, sliceRuns]
    split
    · exact List.mem_cons_of_mem _ hd
    · exact hd

/-- Settles O45: the choice, the build of a plain record with and without an armed flip, and the reads of the runs. -/
theorem readyEntriesAreBuilt : Obligations.ReadyEntriesAreBuilt := by
  refine ⟨fun l before e after hup hnone hl he hb => selectSending_at hup hnone hl he hb,
    fun l h => selectSending_of_no_choice h, fun e s hup hs hr hdata hsize hx => ?_, ?_⟩
  · have hplain : e.IsPlain := ⟨hdata, hsize, hx⟩
    rw [startBuild_plain hplain hup hs hr, State.finishBuild, finish_plain hplain, freshReplay_plain hplain]
    refine ⟨fun harm => ⟨_, by rw [harm]; rfl, rfl, rfl, rfl, rfl, rfl⟩, fun g harm _ => ?_⟩
    rw [harm]
    refine ⟨_, rfl, rfl, rfl, ?_⟩
    rw [Replay.inject_eq]
    refine ⟨rfl, rfl, rfl, ?_⟩
    simpa using flippedBy_flips g 0 e.plainBytes (parityBits e.plainBytes)
  · intro e lo hi a b
    refine ⟨rfl, fun d hd => ?_, sliceRuns_pairwise .., ?_⟩
    · obtain ⟨hlen, hlo, -, hhi⟩ := sliceRuns_bounds hd
      exact ⟨hlen, hlo, hhi⟩
    · intro before r after q hruns base ha hb hlo hhi
      rw [CommitEntry.reads, hruns]
      simpa using sliceRuns_reads (base := 0) ha hb (by omega) (by omega)

end Sys2Proof.Machine
end

section
/-! SUPPORT. A kept sample that asks for a block (R13, R30, R36, R40, R42). -/

namespace Sys2Proof.Machine

/-! ### The victim take (R13) -/

theorem victimList_none {first k : Nat} {l : List Entry} (h : ∀ e ∈ l, e.isVictim = false) :
    victimList first k l = none := by
  induction l with
  | nil => rfl
  | cons e l ih => simp [victimList, h e List.mem_cons_self, ih fun f hf => h f (List.mem_cons_of_mem _ hf)]

/-- The list after the first victim has given up its block, before the fresh entry (R13). -/
def afterVictim (e : Entry) : List Entry → List Entry
  | [] => []
  | f :: more => f.absorb e :: more

/-- The gap_before of the fresh entry: none when the entry after the victim takes its coverage (R13). -/
def victimGap (first : Nat) (e : Entry) : List Entry → Option Gap
  | [] => some ⟨first - e.firstCovered, (gapCauses e.gap).union .oldOnly⟩
  | _ :: _ => none

/-- The first victim of a list is the one taken. -/
theorem victimList_at {first k : Nat} {before after : List Entry} {e : Entry} (he : e.isVictim = true)
    (hb : ∀ f ∈ before, f.isVictim = false) :
    victimList first k (before ++ e :: after) =
      some (before ++ afterVictim e after ++ [freshEntry e.block first k (victimGap first e after)], e.block) := by
  induction before with
  | nil => cases after <;> simp [victimList, he, afterVictim, victimGap]
  | cons f before ih =>
    simp [victimList, hb f List.mem_cons_self, ih fun g hg => hb g (List.mem_cons_of_mem _ hg)]

theorem modifyLast_append {α : Type} (f : α → α) (l : List α) (x : α) : modifyLast f (l ++ [x]) = l ++ [f x] := by
  induction l with
  | nil => rfl
  | cons y l ih =>
    cases l with
    | nil => rfl
    | cons z l => simp only [List.cons_append, modifyLast] at ih ⊢; rw [ih]

/-! ### The end of a sample (R30) -/

/-- A sample that is placed without a stall, a lane mark, a full block or a stop moves the writer past it. -/
theorem finishSample_quiet {s u : State} {i : StreamId} (hstall : (s.stream i).stalled = false)
    (hu : s.placeSample i = u) (hmark : (u.stream i).pendingLane ≠ some (u.stream i).writer.index)
    (hfull : ((u.advance i).stream i).blockFull = false) (hlen : ((u.advance i).stream i).lengthReached = false)
    (hstop : ((u.advance i).stream i).writer.stopReached = false) : s.finishSample i = u.advance i := by
  simp [State.finishSample, hstall, hu, State.enterLaneMark, hmark, hfull, State.lengthStop, hlen, hstop]

/-- The writer moves past a sample that is not the last of its beat. -/
theorem advance_of_beat {u : State} {i : StreamId}
    (h : (u.stream i).cfg.width.bytes < (u.stream i).writer.beat.length) :
    u.advance i = u.modStream i fun y => { y with writer := y.writer.pastSample y.cfg.width } := by
  have hbeat : ((u.stream i).writer.beat.drop (u.stream i).cfg.width.bytes).isEmpty = false := by
    simpa using h
  unfold State.advance State.modStream
  simp [hbeat, Writer.pastSample]

theorem width_bytes_pos (w : Width) : 0 < w.bytes := by cases w <;> decide

theorem width_bytes_le (w : Width) : w.bytes ≤ 2 := by cases w <;> decide

/-! ### A kept sample without a block (R36, R40, R42) -/

/-- The next sample of stream `i` is a quiet one, to be kept, met in NO_BLOCK with nothing staged. -/
structure AsksForBlock (s : State) (i : StreamId) : Prop where
  quiet : QuietSample (s.stream i)
  plain : s.stagesPlain i
  mode : (s.stream i).writer.mode = .noBlock
  kept : 2 ^ (s.stream i).writer.k ∣ (s.stream i).writer.index
  empty : (s.stream i).writer.fillBuf.count = 0

namespace AsksForBlock

variable {s : State} {i : StreamId} (h : AsksForBlock s i)
include h

theorem keeps : (s.stream i).writer.keeps = true := by
  simp [Writer.keeps, h.mode, Nat.mod_eq_zero_of_dvd h.kept]

/-- The command processes the sample: no boundary is evaluated. -/
theorem sampleProcess_eq : s.sampleProcess i = (s.finishSample i).settle := by
  have hbeat : (s.stream i).writer.beat.isEmpty = false := by
    have := h.quiet.beat
    cases hb : (s.stream i).writer.beat with
    | nil => rw [hb] at this; simp at this
    | cons => rfl
  have hmay : (s.stream i).writer.mayProcess = true := by simp [Writer.mayProcess, hbeat, h.mode]
  have hbound : s.boundary i = s := by
    have : (s.stream i).atBoundary = false := by
      rcases h.quiet.boundary with hb | hb | hb
      · simp [Stream.atBoundary, hb]
      · simp [Stream.atBoundary, grain, hb]
      · simp [Stream.atBoundary, Nat.not_lt.2 hb]
    simp [State.boundary, this]
  simp [State.sampleProcess, hmay, hbound]

theorem not_stalled : (s.stream i).stalled = false := by simp [Stream.stalled, h.mode]

/-- No stop and no limit stands at the next index, whatever else a step leaves of the stream. -/
theorem no_stop {y : Stream} (hidx : y.writer.index = (s.stream i).writer.index + 1)
    (hrun : y.runLen = (s.stream i).runLen) (hstart : y.startIndex = (s.stream i).startIndex)
    (hstop : y.writer.stop = (s.stream i).writer.stop) : y.lengthReached = false ∧ y.writer.stopReached = false := by
  have hlimit := h.quiet.limit
  constructor
  · unfold Stream.lengthReached
    rw [hrun, hstart, hidx]
    have : (s.stream i).writer.index + 1 ≠ indexLimit := by simpa [indexLimit] using hlimit
    cases hl : (s.stream i).runLen with
    | none => simpa using this
    | some l => simpa using ⟨h.quiet.length l hl, this⟩
  · unfold Writer.stopReached
    rw [hstop, hidx]
    cases hr : (s.stream i).writer.stop with
    | none => rfl
    | some r => simpa using h.quiet.stop r hr

/-- The sample is staged in the entry at the end of the list, without a flip and short of a full buffer (R32). -/
theorem stageKept_eq {u : State} {list : List Entry} {e : Entry} (hcap : (u.stream i).capture = list ++ [e])
    (hinteg : u.integ = s.integ) (hcfg : (u.stream i).cfg = (s.stream i).cfg)
    (hbuf : (u.stream i).writer.fillBuf = (s.stream i).writer.fillBuf ∧
      (u.stream i).writer.write = (s.stream i).writer.write ∧ (u.stream i).writer.beat = (s.stream i).writer.beat) :
    u.stageKept i ((s.stream i).writer.beat.take (s.stream i).cfg.width.bytes) =
      u.modStream i fun y => { y with
        capture := list ++ [{ e with kept := e.kept + 1 }], writer := y.writer.staged y.cfg.width } := by
  obtain ⟨hfill, hwrite, hbeat⟩ := hbuf
  have harm : match (u.stream i).writer.write with
      | none => u.integ.staging.arming = none | some d => d.flip = none := by
    have := h.plain
    rw [hwrite, hinteg]
    unfold State.stagesPlain at this
    cases hw : (s.stream i).writer.write <;> simpa [hw] using this
  have hflip : u.takeStagingFlip i = u := by
    unfold State.takeStagingFlip
    cases hw : (u.stream i).writer.write with
    | none => rw [hw] at harm; simp [harm]
    | some d => simp
  have hlen : ((s.stream i).writer.beat.take (s.stream i).cfg.width.bytes).length = (s.stream i).cfg.width.bytes :=
    List.length_take_of_le (Nat.le_of_lt h.quiet.beat)
  have hstage := Writer.stage_plain ((s.stream i).writer.beat.take (s.stream i).cfg.width.bytes) harm
  have hroom : ¬ stageBytes ≤ ((u.stream i).writer.stage
      ((s.stream i).writer.beat.take (s.stream i).cfg.width.bytes) u.integ.staging.arming).fillBuf.count := by
    rw [Writer.stage_count, hfill, h.empty, hlen]
    have := width_bytes_le (s.stream i).cfg.width
    simp only [stageBytes]; omega
  unfold State.stageKept
  rw [hflip]
  simp only [State.modStream]
  rw [Writer.swapIfFull, if_neg hroom, hstage, hcap, assignSample, modifyLast_append]
  congr 2
  rw [Writer.staged, hbeat, hcfg]
  congr 1
  rw [Writer.writeOf]
  cases hw : (u.stream i).writer.write with
  | none => rw [hw] at harm; rw [harm]
  | some d => rfl

/-- With a block had, the sample is staged in it: `s0` is the state with the notices of the take, `list` and `spare`
what the take leaves of the other entries and the spare list. -/
theorem sampleProcess_block {s0 : State} {spare : List Nat} {list : List Entry} {b first k : Nat} {gap : Option Gap}
    (hinteg : s0.integ = s.integ)
    (hget : s.getBlock i = ((s0.setStream i { s.stream i with
      spare := spare, capture := list ++ [freshEntry b first k gap] }).modStream i Stream.holdBlock, true)) :
    s.sampleProcess i = (s0.setStream i { s.stream i with
      spare := spare, capture := list ++ [⟨b, .filling, first, k, 1, gap, 0, false⟩],
      writer := (((s.stream i).writer.onBlock b (s.stream i).cfg.flushAge).staged
        (s.stream i).cfg.width).pastSample (s.stream i).cfg.width }).settle := by
  have hwidth : (s.stream i).cfg.width.bytes < (s.stream i).writer.beat.length := h.quiet.beat
  have hstage := h.stageKept_eq (u := (s0.setStream i { s.stream i with
    spare := spare, capture := list ++ [freshEntry b first k gap] }).modStream i Stream.holdBlock)
    (list := list) (e := freshEntry b first k gap) (by simp [Stream.holdBlock]) hinteg
    (by simp [Stream.holdBlock]) (by simp [Stream.holdBlock])
  have hplace : s.placeSample i = s0.setStream i { s.stream i with
      spare := spare, capture := list ++ [⟨b, .filling, first, k, 1, gap, 0, false⟩],
      writer := ((s.stream i).writer.onBlock b (s.stream i).cfg.flushAge).staged (s.stream i).cfg.width } := by
    simp only [State.placeSample, h.keeps, if_true, h.mode, hget, reduceCtorEq, if_false, hstage]
    simp [State.modStream, State.setStream_setStream, Stream.holdBlock, Stream.tail, freshEntry, Writer.onBlock]
  generalize hY : ({ s.stream i with
      spare := spare, capture := list ++ [⟨b, .filling, first, k, 1, gap, 0, false⟩],
      writer := ((s.stream i).writer.onBlock b (s.stream i).cfg.flushAge).staged (s.stream i).cfg.width } : Stream) = Y
    at hplace
  have hadv : (s0.setStream i Y).advance i = s0.setStream i { Y with writer := Y.writer.pastSample Y.cfg.width } := by
    rw [advance_of_beat (by subst hY; simpa [Writer.staged, Writer.onBlock] using hwidth), State.modStream,
      State.setStream_setStream, State.setStream_stream_self]
  obtain ⟨hlen, hstop⟩ := h.no_stop (y := { Y with writer := Y.writer.pastSample Y.cfg.width })
    (by subst hY; rfl) (by subst hY; rfl) (by subst hY; rfl) (by subst hY; rfl)
  have hfull : ({ Y with writer := Y.writer.pastSample Y.cfg.width } : Stream).blockFull = false := by
    have hroom : ¬ 262144 / (s.stream i).cfg.width.bytes ≤ 1 := by cases (s.stream i).cfg.width <;> decide
    subst hY
    simp [Stream.blockFull, Stream.tail, Writer.pastSample, blockBytes, hroom]
  rw [h.sampleProcess_eq, finishSample_quiet h.not_stalled hplace, hadv]
  · subst hY; rfl
  · subst hY; rw [State.setStream_stream_self]; exact h.quiet.mark
  · rw [hadv, State.setStream_stream_self]; exact hfull
  · rw [hadv, State.setStream_stream_self]; exact hlen
  · rw [hadv, State.setStream_stream_self]; exact hstop

/-- With no block to be had the sample is dropped and the writer is DROPPING from it on (R40). -/
theorem sampleProcess_drop (hget : s.getBlock i = (s.enterDropping i, false)) :
    s.sampleProcess i = ((s.raise i .gap).setStream i { s.stream i with
      writer := { (s.stream i).writer with mode := .dropping, dropStart := (s.stream i).writer.index }.pastSample
        (s.stream i).cfg.width }).settle := by
  have hplace : s.placeSample i = s.enterDropping i := by
    simp [State.placeSample, h.keeps, h.mode, hget]
  have hstream : (s.enterDropping i).stream i =
      { s.stream i with writer := { (s.stream i).writer with
          mode := .dropping, dropStart := (s.stream i).writer.index } } := by
    simp [State.enterDropping, State.modWriter]
  have hadv : (s.enterDropping i).advance i = (s.raise i .gap).setStream i { s.stream i with
      writer := { (s.stream i).writer with mode := .dropping, dropStart := (s.stream i).writer.index }.pastSample
        (s.stream i).cfg.width } := by
    rw [advance_of_beat (by rw [hstream]; exact h.quiet.beat), State.modStream, hstream]
    exact congrArg (·.raise i .gap) (State.setStream_setStream ..)
  obtain ⟨hlen, hstop⟩ := h.no_stop (y := { s.stream i with
      writer := { (s.stream i).writer with mode := .dropping, dropStart := (s.stream i).writer.index }.pastSample
        (s.stream i).cfg.width }) rfl rfl rfl rfl
  rw [h.sampleProcess_eq, finishSample_quiet h.not_stalled hplace, hadv]
  · rw [hstream]; exact h.quiet.mark
  · rw [hadv, State.setStream_stream_self]; rfl
  · rw [hadv, State.setStream_stream_self]; exact hlen
  · rw [hadv, State.setStream_stream_self]; exact hstop

end AsksForBlock

/-- The top spare block is taken when there is one (R10). -/
theorem getBlock_spare {s : State} {i : StreamId} {b : Nat} {rest : List Nat} (h : (s.stream i).spare = b :: rest) :
    s.getBlock i = (((if (s.stream i).capture.length + 1 = (s.stream i).cfg.high then s.raise i .ringHigh
        else s).setStream i { s.stream i with
      spare := rest,
      capture := (s.stream i).capture ++
        [freshEntry b (s.stream i).writer.index (s.stream i).writer.k none] }).modStream i Stream.holdBlock, true) := by
  unfold State.getBlock State.take
  rw [h]
  simp only [List.length_append, List.length_singleton]
  split <;> rfl

/-- With no spare block, DROP_OLD takes the first victim's block (R13, R42). -/
theorem getBlock_victim {s : State} {i : StreamId} {before after : List Entry} {e : Entry}
    (h : (s.stream i).spare = []) (hp : (s.stream i).cfg.policy = .dropOld)
    (hl : (s.stream i).capture = before ++ e :: after) (he : e.isVictim = true)
    (hb : ∀ f ∈ before, f.isVictim = false) :
    s.getBlock i = (((s.raise i .gap).setStream i { s.stream i with
      spare := (s.stream i).spare,
      capture := before ++ afterVictim e after ++ [freshEntry e.block (s.stream i).writer.index (s.stream i).writer.k
        (victimGap (s.stream i).writer.index e after)] }).modStream i Stream.holdBlock, true) := by
  have hnone : s.take i (s.stream i).writer.index (s.stream i).writer.k none = none := (take_none_iff ..).2 h
  unfold State.getBlock State.victimTake
  dsimp only
  rw [hnone, if_pos hp, hl, victimList_at he hb]
  rfl

/-- With no spare block and no victim to take, the writer drops (R40). -/
theorem getBlock_drop {s : State} {i : StreamId} (h : (s.stream i).spare = [])
    (hv : (s.stream i).cfg.policy ≠ .dropOld ∨ ∀ e ∈ (s.stream i).capture, e.isVictim = false) :
    s.getBlock i = (s.enterDropping i, false) := by
  have hnone : s.take i (s.stream i).writer.index (s.stream i).writer.k none = none := (take_none_iff ..).2 h
  unfold State.getBlock State.victimTake
  dsimp only
  rw [hnone]
  rcases hv with hp | hv
  · rw [if_neg hp]
  · rw [victimList_none hv]
    exact ite_self _

theorem isVictim_iff (e : Entry) : e.isVictim = true ↔ e.st = .full ∧ e.pins = 0 := by simp [Entry.isVictim]

theorem isVictim_eq_false (e : Entry) : e.isVictim = false ↔ ¬ (e.st = .full ∧ e.pins = 0) := by
  rw [← isVictim_iff, Bool.not_eq_true]

/-- The victim's causes and RING_FULL_OLD join those of the entry after it (R13, log 32). -/
theorem causes_absorbed (a b : Causes) : (a.union b).union .oldOnly =
    ⟨a.ringFullNew || b.ringFullNew, true, a.aborted || b.aborted⟩ := by
  simp [Causes.union, Causes.oldOnly]

/-- Settles O27: where the block comes from, and what the sample then does on it. -/
theorem keptSamplesFindABlock : Obligations.KeptSamplesFindABlock := by
  intro i s x w hquiet hplain hmode hkept hempty fresh on isVictim
  have h : AsksForBlock s i := ⟨hquiet, hplain, hmode, hkept, hempty⟩
  refine ⟨fun b rest hs => ?_, fun hs hv => ?_, fun before e after hs hp hl he hb => ?_⟩
  · refine congrArg Host.Outcome.next (h.sampleProcess_block ?_ (getBlock_spare hs))
    split <;> rfl
  · refine congrArg Host.Outcome.next (h.sampleProcess_drop (getBlock_drop hs ?_))
    exact hv.imp id fun hv e he => (isVictim_eq_false e).2 (hv e he)
  · have hget := getBlock_victim hs hp hl ((isVictim_iff e).2 he) fun f hf => (isVictim_eq_false f).2 (hb f hf)
    have hstep : exec (.sampleProcess i) s = .next _ :=
      congrArg Host.Outcome.next (h.sampleProcess_block (s0 := s.raise i .gap) rfl hget)
    refine ⟨fun f more ha => ?_, fun ha => ?_⟩
    · subst ha
      refine hstep.trans ?_
      simp only [afterVictim, victimGap, Entry.absorb, causes_absorbed]
      rfl
    · subst ha
      refine hstep.trans ?_
      simp [afterVictim, victimGap, Causes.union, Causes.oldOnly]
      rfl

end Sys2Proof.Machine
end

section
/-! SUPPORT. Reads of capture memory: clean words, and a whole unit that is unusable (R158 to R161). -/

namespace Sys2Proof.Machine

/-! ### Clean words -/

/-- An access of no byte meets no unit. -/
theorem pos_of_mem_unitsOf {addr len u : Nat} (h : u ∈ unitsOf addr len) : 0 < len := by
  refine Nat.pos_of_ne_zero fun hl => ?_
  rw [unitsOf, if_pos hl] at h
  exact absurd h List.not_mem_nil

/-- The stored bytes an access covers (R1). -/
def Memory.bytesOver (m : Memory) (addr len : Nat) : List Byte := (List.range len).map fun q => m.byteAt (addr + q)

@[simp] theorem Memory.bytesOver_length (m : Memory) (addr len : Nat) : (m.bytesOver addr len).length = len := by
  simp [Memory.bytesOver]

/-- Every word that an access of `len` bytes at `addr` meets is clean. -/
def Memory.cleanOver (m : Memory) (addr len : Nat) : Prop :=
  ∀ a, addr ≤ a → a < addr + len → m.errAt (a / 8) = WordErr.clean

namespace Memory.cleanOver

variable {m : Memory} {addr len : Nat} (h : m.cleanOver addr len)
include h

theorem unitOutcome {u : Nat} (hu : u ∈ unitsOf addr len) : m.unitOutcome addr len u = .clean := by
  have hlen := pos_of_mem_unitsOf hu
  have hword (w : Nat) (hw : w ∈ unitWords addr len u) : (m.errAt w).outcome = .clean := by
    obtain ⟨-, hw⟩ := List.mem_filter.1 hw
    obtain ⟨hlo, hhi⟩ := Bool.and_eq_true_iff.1 hw
    have hlo := of_decide_eq_true hlo
    have hhi := of_decide_eq_true hhi
    have := h (max addr (8 * w)) (Nat.le_max_left ..) (by omega)
    rw [show max addr (8 * w) / 8 = w by omega] at this
    rw [this]; decide
  have hno {o : WordOutcome} (ho : WordOutcome.clean ≠ o) :
      ¬ ∃ w ∈ unitWords addr len u, (m.errAt w).outcome = o := fun ⟨w, hw, heq⟩ => ho ((hword w hw).symm.trans heq)
  simp [Memory.unitOutcome, hno (o := .uncorrectable) (by decide), hno (o := .poison) (by decide),
    hno (o := .corrected) (by decide)]

theorem badUnits : m.badUnits addr len = [] := by
  rw [Memory.badUnits, List.filter_eq_nil_iff]
  intro u hu
  rw [h.unitOutcome hu]; decide

theorem lostUnits : m.lostUnits addr len = [] := by
  rw [Memory.lostUnits, List.filter_eq_nil_iff]
  intro u hu
  rw [h.unitOutcome hu]; decide

theorem replaced (w : Width) : m.replaced addr len w = List.replicate (len / w.bytes) false := by
  simp [Memory.replaced, h.badUnits, List.map_const']

theorem delivered {a : Nat} (hlo : addr ≤ a) (hhi : a < addr + len) : m.delivered a = m.byteAt a := by
  have he : WordErr.clean.outcome ≠ .corrected := by decide
  simp only [Memory.delivered, h a hlo hhi, he, if_false]
  exact if_pos (by decide)

/-- A read of clean words delivers the stored bytes (R158). -/
theorem readSamples {w : Width} (hw : w.bytes ∣ len) (fill : Nat) :
    m.readSamples addr len w fill = m.bytesOver addr len := by
  obtain ⟨n, rfl⟩ := hw
  have hdiv : w.bytes * n / w.bytes = n := Nat.mul_div_cancel_left n (width_bytes_pos w)
  simp only [Memory.readSamples, Memory.bytesOver, h.badUnits, hdiv, List.contains_nil, Bool.false_eq_true, if_false]
  have step (i : Nat) (hi : i ∈ List.range n) :
      ((List.range w.bytes).map fun j => m.delivered (addr + i * w.bytes + j)) =
        (List.range w.bytes).map fun j => m.byteAt (addr + (i * w.bytes + j)) := by
    refine List.map_congr_left fun j hj => ?_
    have hi := List.mem_range.1 hi
    have hj := List.mem_range.1 hj
    have : (i + 1) * w.bytes ≤ n * w.bytes := Nat.mul_le_mul_right _ hi
    rw [Nat.add_assoc, h.delivered (by omega) (by rw [Nat.mul_comm w.bytes n]; rw [Nat.add_mul] at this; omega)]
  rw [List.flatMap_def, List.map_congr_left step, ← List.flatMap_def]
  clear step hdiv h
  induction n with
  | zero => rfl
  | succ n ih =>
    rw [List.range_succ, List.flatMap_append, ih, Nat.mul_succ, List.range_add, List.map_append]
    simp [Function.comp_def, Nat.mul_comm]

end Memory.cleanOver

theorem countUnits_of_clean {s : State} {addr len : Nat} (h : s.mem.cleanOver addr len) :
    s.countUnits addr len (unitsOf addr len) = s := countUnits_clean s fun _ hu => h.unitOutcome hu

/-! ### A whole unit -/

section Unit

variable {m : Memory} {addr : Nat} (h : addr % 64 = 0)
include h

/-- A unit read whole is the one unit its access meets (R159). -/
theorem unitsOf_unit : unitsOf addr 64 = [addr / 64] := by
  rw [unitsOf, if_neg (by decide), show (addr + 64 - 1) / 64 - addr / 64 + 1 = 1 by omega]
  rfl

theorem lostUnits_unit : m.lostUnits addr 64 =
    if m.unitOutcome addr 64 (addr / 64) = .uncorrectable then [addr / 64] else [] := by
  rw [Memory.lostUnits, unitsOf_unit h, List.filter_singleton]
  simp

theorem badUnits_unit (hbad : m.unitOutcome addr 64 (addr / 64) = .uncorrectable ∨
    m.unitOutcome addr 64 (addr / 64) = .poison) : m.badUnits addr 64 = [addr / 64] := by
  rw [Memory.badUnits, unitsOf_unit h, List.filter_singleton]
  rcases hbad with hb | hb <;> simp [hb]

/-- Every sample of an unusable unit is replaced (R160, R161). -/
theorem replaced_unit (hbad : m.unitOutcome addr 64 (addr / 64) = .uncorrectable ∨
    m.unitOutcome addr 64 (addr / 64) = .poison) (w : Width) :
    m.replaced addr 64 w = List.replicate (64 / w.bytes) true := by
  rw [Memory.replaced, badUnits_unit h hbad]
  refine List.eq_replicate_iff.2 ⟨by simp, fun b hb => ?_⟩
  obtain ⟨i, hi, rfl⟩ := List.mem_map.1 hb
  have hi := List.mem_range.1 hi
  have : i * w.bytes < 64 := by cases w <;> simp only [Width.bytes] at hi ⊢ <;> omega
  simp only [List.contains_iff_mem, List.mem_singleton]
  omega

theorem readSamples_unit (hbad : m.unitOutcome addr 64 (addr / 64) = .uncorrectable ∨
    m.unitOutcome addr 64 (addr / 64) = .poison) (w : Width) (fill : Nat) :
    m.readSamples addr 64 w fill = (List.replicate (64 / w.bytes) (leBytes w.bytes fill)).flatten := by
  have hrep (i : Nat) (hi : i ∈ List.range (64 / w.bytes)) : (addr + i * w.bytes) / 64 = addr / 64 := by
    have hi := List.mem_range.1 hi
    have : i * w.bytes < 64 := by cases w <;> simp only [Width.bytes] at hi ⊢ <;> omega
    omega
  simp only [Memory.readSamples, badUnits_unit h hbad]
  rw [List.flatMap_def, List.map_congr_left fun i hi => by rw [hrep i hi, if_pos (by simp), fillBytes]]
  simp [List.map_const']

theorem countUnits_unit (s : State) : s.countUnits addr 64 (unitsOf addr 64) =
    match s.mem.unitOutcome addr 64 (addr / 64) with
    | .uncorrectable => s.countUncorrectable .capture addr
    | .corrected => s.countCorrected .capture addr
    | _ => s := by
  have haddr : 64 * (addr / 64) = addr := by omega
  rw [unitsOf_unit h, State.countUnits, haddr]
  split <;> simp_all [State.countUnits]

end Unit

theorem countUnits_lost {s : State} {addr : Nat} (h : addr % 64 = 0)
    (hlost : s.mem.unitOutcome addr 64 (addr / 64) = .uncorrectable) :
    s.countUnits addr 64 (unitsOf addr 64) = s.countUncorrectable .capture addr := by
  rw [countUnits_unit h, hlost]

end Sys2Proof.Machine
end

section
/-! SUPPORT. The drain reader (R18, R19, R132, R159, R160, R165). -/

namespace Sys2Proof.Machine

/-! ### The SENDING entry -/

theorem sending_isSending {l : Link} {e : CommitEntry} (h : l.sending = some e) : e.isSending = true :=
  List.find?_some h

/-- The SENDING entry put in place of itself is found again. -/
theorem modSending_sending {l : Link} {e e' : CommitEntry} (h : l.sending = some e) (he : e'.isSending = true) :
    (l.modSending fun _ => e').sending = some e' := by
  obtain ⟨hse, before, after, hl, hb⟩ := List.find?_eq_some_iff_append.1 h
  have hb' : ∀ f ∈ before, f.isSending = false := fun f hf => by simpa using hb f hf
  show (modifyFirst _ _ l.commit).find? _ = _
  rw [hl, modifyFirst_at hse hb', find?_at he hb']

theorem modSending_self {l : Link} {e : CommitEntry} (h : l.sending = some e) : (l.modSending fun _ => e) = l := by
  obtain ⟨hse, before, after, hl, hb⟩ := List.find?_eq_some_iff_append.1 h
  have hb' : ∀ f ∈ before, f.isSending = false := fun f hf => by simpa using hb f hf
  unfold Link.modSending
  rw [show modifyFirst CommitEntry.isSending (fun _ => e) l.commit = l.commit by rw [hl, modifyFirst_at hse hb']]

/-- While a transfer is in the buffer only the port is granted. -/
theorem settle_of_building {s : State} {e : CommitEntry} {r : Replay} (hs : s.link.sending = some e)
    (hr : s.link.replay = some r) : s.settle = s.portGrant := by
  have hsel : s.link.selectSending = s.link := selectSending_of_no_choice (.inr (.inl
    ⟨e, List.mem_of_find?_eq_some hs, by simpa [CommitEntry.isSending] using sending_isSending hs⟩))
  have hmod : s.modLink Link.selectSending = s := by rw [State.modLink, hsel]
  rw [State.settle, hmod]
  simp [State.startBuild, hs, hr]

/-- A completed read frees the port, which is granted again, and nothing else follows while the transfer is in the
buffer. -/
theorem settle_after_read {t : State} {e : CommitEntry} {r : Replay} (hs : t.link.sending = some e)
    (hr : t.link.replay = some r) : ∃ p, t.freePort.settle = { t with port := p } := by
  obtain ⟨p, hp⟩ := portGrant_eq t.freePort
  exact ⟨p, (settle_of_building (s := t.freePort) hs hr).trans hp⟩

/-! ### Bytes put into a transfer -/

theorem overwrite_getElem? {bs new : List Byte} {i j : Nat} (hi : i ≤ bs.length) (hj : j < new.length) :
    (overwrite bs i new)[i + j]? = new[j]? := by
  have hl : (bs.take i).length = i := List.length_take_of_le hi
  rw [overwrite, List.append_assoc, List.getElem?_append_right (by omega), hl, Nat.add_sub_cancel_left,
    List.getElem?_append_left hj]

theorem slice_overwrite {bs new : List Byte} {i n : Nat} (hi : i ≤ bs.length) (hn : new.length = n) :
    slice (overwrite bs i new) i n = new := by
  have hl : (bs.take i).length = i := List.length_take_of_le hi
  rw [overwrite, List.append_assoc]
  exact slice_append _ _ _ _ _ hl hn

@[simp] theorem overwrite_length {bs new : List Byte} {i : Nat} (h : i + new.length ≤ bs.length) :
    (overwrite bs i new).length = bs.length := by
  simp [overwrite]; omega

/-- A payload byte of a transfer goes out as it was read (R132, R133). -/
theorem sealedBytes_payload {e : CommitEntry} {r : Replay} {p : Nat} (hbytes : r.bytes.length = r.len)
    (hsize : e.body.payload + 136 ≤ e.size) (hp : e.isPayload (r.off + p) = true) :
    (e.sealedBytes r)[p]? = r.bytes[p]? := by
  have hlaid : (e.laidBytes r)[p]? = r.bytes[p]? := by rw [laidBytes_getElem?, hp]; simp
  have hlen : (e.laidBytes r).length = r.len := by simp [CommitEntry.laidBytes, hbytes]
  unfold CommitEntry.sealedBytes CommitEntry.withCrc
  split
  · next hlast =>
    have hlast := of_decide_eq_true hlast
    have hp := of_decide_eq_true (Bool.and_eq_true_iff.1 hp).2
    dsimp only
    rw [List.getElem?_append_left (by rw [List.length_take]; omega), List.getElem?_take_of_lt (by omega), hlaid]
  · exact hlaid

/-! ### Held spans of a read -/

theorem holdReplaced_clean (p n : Nat) (held : List Span) : holdReplaced p (List.replicate n false) held = held := by
  induction n generalizing p with
  | zero => rfl
  | succ n ih => rw [List.replicate_succ, holdReplaced, ih]

/-- A span that touches the one held is joined with it (R160). -/
theorem holdSpan_touching {p q : Span} (h : q.off ≤ p.stop) (h' : p.off ≤ q.stop) :
    holdSpan p [q] = [⟨min p.off q.off, max p.stop q.stop - min p.off q.off⟩] := by
  rw [holdSpan, if_neg (Nat.not_lt.2 h), if_neg (Nat.not_lt.2 h')]
  rfl

/-- Samples replaced one after another are held as one span (R160). -/
theorem holdReplaced_extend (p n m : Nat) :
    holdReplaced (p + n) (List.replicate m true) [⟨p, n⟩] = [⟨p, n + m⟩] := by
  induction m generalizing n with
  | zero => rfl
  | succ m ih =>
    have hjoin : holdSpan ⟨p + n, 1⟩ [⟨p, n⟩] = [⟨p, n + 1⟩] := by
      rw [holdSpan_touching (show p ≤ p + n + 1 by omega) (show p + n ≤ p + n from le_refl _)]
      simp only [Span.stop, List.cons.injEq, Span.mk.injEq, and_true]
      omega
    rw [List.replicate_succ, holdReplaced, hjoin, Nat.add_assoc, ih, Nat.add_assoc, Nat.add_comm 1 m]

theorem holdReplaced_all (p n : Nat) (hn : 0 < n) : holdReplaced p (List.replicate n true) [] = [⟨p, n⟩] := by
  obtain ⟨m, rfl⟩ := Nat.exists_eq_add_of_le hn
  rw [Nat.add_comm, List.replicate_succ, holdReplaced]
  exact (holdReplaced_extend p 1 m).trans (by rw [Nat.add_comm])

/-- The latest error is captured in mode LAST (R157). -/
theorem captureAddr_last {mode : CaptureMode} (h : mode = .last) {held : Option Nat} {a : Nat} :
    captureAddr mode held a = some a := by
  rw [h]; rfl

/-- With no address held, either mode captures the error (R157). -/
theorem captureAddr_none {held : Option Nat} (h : held = none) {mode : CaptureMode} {a : Nat} :
    captureAddr mode held a = some a := by
  rw [h]; cases mode <;> rfl

/-! ### A drain read -/

theorem execDrainReadComplete_eq {s : State} {addr len pos : Nat} {live : Bool}
    (hg : s.port.granted = some (.drain addr len pos live)) (hin : addr + len ≤ 17179869184) :
    exec (.drainReadComplete []) s = .next
      (if live then s.drainTake addr len pos else s.countUnits addr len (unitsOf addr len)).freePort.settle := by
  show execDrainReadComplete [] s = _
  simp [execDrainReadComplete, hg, inCapture_of_le hin, State.upsets]

/-- The buffer with the bytes of a drain read for payload offset `pos` put in and one read fewer to make (R132). -/
def Replay.afterRead (r : Replay) (pos : Nat) (bytes : List Byte) : Replay :=
  { r with bytes := overwrite r.bytes (64 + pos - r.off) bytes, todo := r.todo.tail }

/-- The entry with the tally of a read (R165). -/
def CommitEntry.withTally (e : CommitEntry) (tally : List (Nat × Nat)) : CommitEntry :=
  { e with xfer := { e.xfer with tally := tally } }

/-- The state with a transfer read on, the tally of its entry `e`, and the retire mark that the tally brings a block
(R165). -/
def State.readOn (s : State) (e : CommitEntry) (r : Replay) (block : Nat) (tally : List (Nat × Nat)) : State :=
  (s.modLink fun l => { (l.modSending fun _ => e.withTally tally) with replay := some r }).modStream e.stream fun x =>
    { x with capture := if tallyReached block tally then markRetire block x.capture else x.capture }

/-- Everything a drain read does. -/
theorem drainTake_eq {s : State} {e : CommitEntry} {r : Replay} (hs : s.link.sending = some e)
    (hr : s.link.replay = some r) (addr len pos : Nat) :
    s.drainTake addr len pos =
      let w := e.body.width
      let block := addr / blockBytes
      let tally := joinTally block (s.mem.lostUnits addr len) e.xfer.tally
      let r' : Replay :=
        { r.afterRead pos (s.mem.readSamples addr len w (s.stream e.stream).cfg.fillValue) with
          held := holdReplaced (pos / w.bytes) (s.mem.replaced addr len w) r.held }
      let t := (s.readOn e r' block tally).countUnits addr len (unitsOf addr len)
      if r.todo.tail.isEmpty then t.finishBuild (e.withTally tally) r' else t := by
  have hmark (t : State) (block : Nat) (full : Bool) :
      (if full then t.modStream e.stream fun x => { x with capture := markRetire block x.capture } else t) =
        t.modStream e.stream fun x => { x with capture := if full then markRetire block x.capture else x.capture } := by
    cases full with
    | true => rfl
    | false => exact (State.setStream_self t e.stream).symm
  unfold State.drainTake
  rw [hs, hr]
  dsimp only
  rw [hmark]
  rfl

theorem readOn_stream_self (s : State) (e : CommitEntry) (r : Replay) (block : Nat) (tally : List (Nat × Nat)) :
    (s.readOn e r block tally).stream e.stream = { s.stream e.stream with
      capture := if tallyReached block tally then markRetire block (s.stream e.stream).capture
        else (s.stream e.stream).capture } := State.modStream_stream_self ..

theorem readOn_stream_other (s : State) (e : CommitEntry) (r : Replay) (block : Nat) (tally : List (Nat × Nat))
    {j : StreamId} (h : j ≠ e.stream) : (s.readOn e r block tally).stream j = s.stream j :=
  State.modStream_stream_other (s.modLink _) _ h

/-- Nothing in the tally marks no block. -/
theorem readOn_nil {s : State} {e : CommitEntry} (hs : s.link.sending = some e) (htally : e.xfer.tally = [])
    (r : Replay) (block : Nat) : s.readOn e r block [] = s.modLink fun l => { l with replay := some r } := by
  have he : e.withTally [] = e := by rw [CommitEntry.withTally, ← htally]
  have hlink : s.modLink (fun l => { (l.modSending fun _ => e.withTally []) with replay := some r }) =
      s.modLink fun l => { l with replay := some r } := by
    rw [he, State.modLink, modSending_self hs]; rfl
  rw [State.readOn, hlink]
  exact State.setStream_self _ e.stream

/-- What a drain read of clean words leaves of the state. -/
theorem drainRead_clean {s : State} {addr len pos : Nat} {e : CommitEntry} {r : Replay}
    (h : s.mem.cleanOver addr len) (hs : s.link.sending = some e) (hr : s.link.replay = some r)
    (htally : e.xfer.tally = []) (hw : e.body.width.bytes ∣ len) (harm : s.integ.replay.arming = none)
    (hranges : r.ranges = none) :
    ∃ p, (s.drainTake addr len pos).freePort.settle =
      let r' := r.afterRead pos (s.mem.bytesOver addr len)
      { s with port := p, link := { s.link with
        replay := some (if r.todo.tail.isEmpty then e.finish r' else r') } } := by
  have he : e.withTally [] = e := by rw [CommitEntry.withTally, ← htally]
  have htake : s.drainTake addr len pos = s.modLink fun l => { l with
      replay := some (if r.todo.tail.isEmpty then e.finish (r.afterRead pos (s.mem.bytesOver addr len))
        else r.afterRead pos (s.mem.bytesOver addr len)) } := by
    have hcount (t : State) (ht : t.mem = s.mem) : t.countUnits addr len (unitsOf addr len) = t :=
      countUnits_of_clean (ht ▸ h)
    rw [drainTake_eq hs hr]
    simp only [h.lostUnits, h.readSamples hw, h.replaced, holdReplaced_clean, joinTally, List.foldl_nil, htally, he,
      readOn_nil hs htally]
    rw [hcount _ (State.modLink_mem s _)]
    split
    · simp [State.finishBuild, Replay.afterRead, hranges, harm, State.modLink]
    · rfl
  rw [htake]
  exact settle_after_read hs rfl

/-- What a drain read of an uncorrectable unit, not the transfer's last, leaves of the state (R160, R165). -/
theorem drainRead_lost {s : State} {addr pos : Nat} {e : CommitEntry} {r : Replay} (ha : addr % 64 = 0)
    (hlost : s.mem.unitOutcome addr 64 (addr / 64) = .uncorrectable) (hs : s.link.sending = some e)
    (hr : s.link.replay = some r) (htodo : r.todo.tail ≠ []) (hheld : r.held = []) :
    let w := e.body.width
    let r' : Replay :=
      { r.afterRead pos (List.replicate (64 / w.bytes) (leBytes w.bytes (s.stream e.stream).cfg.fillValue)).flatten with
        held := [⟨pos / w.bytes, 64 / w.bytes⟩] }
    ∃ p, (s.drainTake addr 64 pos).freePort.settle =
      { (s.readOn e r' (addr / blockBytes) (joinTally (addr / blockBytes) [addr / 64] e.xfer.tally)).countUncorrectable
        .capture addr with port := p } := by
  intro w r'
  have htake : s.drainTake addr 64 pos = (s.readOn e r' (addr / blockBytes)
      (joinTally (addr / blockBytes) [addr / 64] e.xfer.tally)).countUncorrectable .capture addr := by
    have hw : 0 < 64 / e.body.width.bytes := by cases e.body.width <;> decide
    have hlost' : s.mem.lostUnits addr 64 = [addr / 64] := by rw [lostUnits_unit ha, if_pos hlost]
    have hempty : r.todo.tail.isEmpty = false := by simpa using htodo
    have hcount (t : State) (ht : t.mem = s.mem) :
        t.countUnits addr 64 (unitsOf addr 64) = t.countUncorrectable .capture addr := countUnits_lost ha (ht ▸ hlost)
    rw [drainTake_eq hs hr]
    simp only [hlost', readSamples_unit ha (.inl hlost), replaced_unit ha (.inl hlost), hheld,
      holdReplaced_all _ _ hw, hempty, Bool.false_eq_true, if_false]
    exact hcount _ rfl
  rw [htake]
  exact settle_after_read (e := e.withTally _) (modSending_sending hs (sending_isSending hs :)) rfl

/-- Settles O35: the discarded reads, the read of clean words, and the read of an uncorrectable unit. -/
theorem drainReads : Obligations.DrainReads := by
  refine ⟨fun s => ⟨fun us hg => ?_, fun a n q hg hin => ⟨fun hclean => ?_, fun hn ha hlost => ?_⟩,
    fun addr len pos e r d rest hg hin hclean hs htally hr harm htodo hready hranges hbytes hlo hhi hpay hsize hend
      hw => ?_⟩, ?_⟩
  · show execDrainReadComplete us s = _
    unfold execDrainReadComplete
    split
    · next a n q l hgr => exact absurd hgr (hg a n q l)
    · rfl
  · rw [execDrainReadComplete_eq hg hin, if_neg (by decide), countUnits_of_clean hclean]
    rfl
  · subst hn
    rw [execDrainReadComplete_eq hg hin, if_neg (by decide), countUnits_lost ha hlost]
    rfl
  · obtain ⟨p, hp⟩ := drainRead_clean (pos := pos) hclean hs hr htally hw harm hranges
    rw [execDrainReadComplete_eq hg hin, if_pos rfl, hp]
    have hi : 64 + pos - r.off + len ≤ r.bytes.length := by omega
    have hread (j : Nat) (hj : j < len) :
        (r.afterRead pos (s.mem.bytesOver addr len)).bytes[64 + pos - r.off + j]? = some (s.mem.byteAt (addr + j)) := by
      refine (overwrite_getElem? (by omega) (by simpa using hj)).trans ?_
      simp [Memory.bytesOver, hj]
    have hrest : r.todo.tail = rest := by rw [htodo]; rfl
    have hpayload (j : Nat) (hj : j < len) :
        (e.sealedBytes (r.afterRead pos (s.mem.bytesOver addr len)))[64 + pos - r.off + j]? =
          some (s.mem.byteAt (addr + j)) := by
      rw [sealedBytes_payload ?_ hsize ?_, hread j hj]
      · exact (overwrite_length (by simpa using hi)).trans hbytes
      · show (decide (64 ≤ r.off + _) && decide (r.off + _ < _)) = true
        rw [Bool.and_eq_true, decide_eq_true_iff, decide_eq_true_iff]
        omega
    refine ⟨_, _, rfl, rfl, ?_, ?_, ?_, fun hne => ?_, fun hnil => ?_, fun j hj => ?_, rfl, rfl, rfl, rfl, rfl⟩
    · split <;> rfl
    · split <;> rfl
    · split <;> rfl
    · rw [hrest, if_neg (by simpa using hne)]
      exact ⟨hready, hrest⟩
    · have hdone : r.todo.tail.isEmpty = true := by rw [hrest, hnil]; rfl
      rw [if_pos hdone]
      refine ⟨rfl, ?_⟩
      show e.sealedBytes (r.afterRead pos (s.mem.bytesOver addr len)) = _
      simp only [Replay.afterRead, overwrite, Memory.bytesOver_length]
      rfl
    · split
      · exact hpayload j hj
      · exact hread j hj
  · intro addr pos e r d rest s w hg ha hin hlost hs hr htodo hne hheld hlo hhi x block tally full marked
    obtain ⟨p, hp⟩ := drainRead_lost (pos := pos) ha hlost hs hr (by simpa [htodo] using hne) hheld
    rw [execDrainReadComplete_eq hg hin, if_pos rfl, hp]
    have htally : joinTally (addr / blockBytes) [addr / 64] e.xfer.tally = tally := by
      simp only [joinTally, List.foldl_cons, List.foldl_nil, List.contains_iff_mem]
      rfl
    have hfull : tallyReached (addr / blockBytes) tally = true ↔ full := by
      simp only [tallyReached, decide_eq_true_iff]
      rfl
    rw [htally]
    refine ⟨_, _, _, rfl, rfl, rfl, ?_, modSending_sending hs (sending_isSending hs :), rfl, ?_,
      fun j hj => ?_, rfl, fun hmode => ?_, rfl⟩
    · have hlen : (List.replicate (64 / w.bytes) (leBytes w.bytes x.cfg.fillValue)).flatten.length = 64 := by
        cases hw : w <;> simp [Width.bytes]
      exact slice_overwrite (by omega) hlen
    · refine (readOn_stream_self s e _ (addr / blockBytes) tally).trans ?_
      by_cases hf : full
      · rw [if_pos (hfull.2 hf), if_pos hf]; rfl
      · rw [if_neg (mt hfull.1 hf), if_neg hf]
    · exact readOn_stream_other s e _ (addr / blockBytes) tally hj
    · rcases hmode with hm | hm
      · exact captureAddr_last hm
      · exact captureAddr_none hm

end Sys2Proof.Machine
end

section
/-! SUPPORT. The preview reader and the reply of a PREVIEW (R19, R23, R24, R159, R161, R168). -/

namespace Sys2Proof.Machine

/-! ### What `settle` leaves of the counts -/

section Settle

variable (s : State)

/-- The end of a build may disarm REPLAY, and changes nothing else of the monitor (R173). -/
theorem finishBuild_counts (e : CommitEntry) (r : Replay) :
    (s.finishBuild e r).integ.capture = s.integ.capture ∧ (s.finishBuild e r).integ.staging = s.integ.staging ∧
      (s.finishBuild e r).notices.device.memory = s.notices.device.memory := by
  obtain ⟨r', h | h⟩ := finishBuild_eq s e r <;> rw [h] <;> exact ⟨rfl, rfl, rfl⟩

theorem settle_counts : s.settle.integ.capture = s.integ.capture ∧ s.settle.integ.staging = s.integ.staging ∧
    s.settle.notices.device.memory = s.notices.device.memory := by
  rw [State.settle, portGrant_integ, portGrant_notices]
  obtain h | ⟨e, -, -, -, h | h⟩ := startBuild_cases (s.modLink Link.selectSending) <;> rw [h]
  · exact ⟨rfl, rfl, rfl⟩
  · exact finishBuild_counts _ e e.freshReplay
  · exact ⟨rfl, rfl, rfl⟩

@[simp] theorem settle_capture : s.settle.integ.capture = s.integ.capture := (settle_counts s).1

@[simp] theorem settle_staging : s.settle.integ.staging = s.integ.staging := (settle_counts s).2.1

@[simp] theorem settle_memory : s.settle.notices.device.memory = s.notices.device.memory := (settle_counts s).2.2

end Settle

/-! ### The reply of a PREVIEW (R24) -/

/-- The pins of a PREVIEW removed from its stream (R24). -/
def State.unpinned (s : State) (p : Preview) : State :=
  s.setStream p.stream { s.stream p.stream with capture := (s.stream p.stream).capture.map fun e =>
    if e.block ∈ p.pinned then { e with pins := e.pins - 1 } else e }

theorem unpinBlocks_eq (blocks : List Nat) (l : List Entry) :
    unpinBlocks blocks l = l.map fun e => if e.block ∈ blocks then { e with pins := e.pins - 1 } else e := by
  simp [unpinBlocks]

theorem pinBlocks_eq (blocks : List Nat) (l : List Entry) :
    pinBlocks blocks l = l.map fun e => if e.block ∈ blocks then { e with pins := e.pins + 1 } else e := by
  simp [pinBlocks]

/-- Everything the reply of a PREVIEW does: pins removed, the release scan, and the reply built. -/
theorem previewReply_eq (s : State) (p : Preview) :
    s.previewReply p = { (s.unpinned p).releaseScan p.stream false with
      preview := none, port := s.port.orphanPreview, ctl := s.ctl.reply kindPreview p.tag .ok p.fields } := by
  simp only [State.previewReply, releaseScan_eq, State.unpinned, ← unpinBlocks_eq]
  rfl

/-- A reply built into a reservation, in the terms of the statements. -/
theorem reply_replied (s : State) (kind tag : Byte) (st : Status) (fields : List Byte) :
    s.ctl.reply kind tag st fields = (s.replied kind tag (BitVec.ofNat 8 st.code) fields).ctl := rfl

theorem fields_eq (p : Preview) : p.fields =
    [BitVec.ofNat 8 p.stream.num, BitVec.ofNat 8 p.k, BitVec.ofNat 8 p.width.code, 0#8] ++
      leBytes 6 p.first ++ zeros 2 ++ leBytes 2 (p.data.length / p.width.bytes) ++ leBytes 2 p.replaced ++ zeros 12 ++
      p.data := by
  simp [Preview.fields, byteField, leBytes, slot8, zeros]

/-! ### Samples read from staging (R168) -/

/-- Consecutive slices of one length are the start of the list. -/
theorem flatMap_slices {bs : List Byte} {w n : Nat} (h : n * w ≤ bs.length) :
    ((List.range n).flatMap fun q => slice bs (q * w) w) = bs.take (n * w) := by
  induction n with
  | zero => simp
  | succ n ih =>
    have hn : n * w ≤ bs.length := Nat.le_trans (Nat.mul_le_mul_right w n.le_succ) h
    rw [List.range_succ, List.flatMap_append, ih hn, Nat.succ_mul, List.take_add]
    simp [slice]

section OneBuffer

variable {w : Writer} (hone : w.awaiting = [])
include hone

/-- With one staging buffer a sample is in it, at the offset above the fill offset (R33, R168). -/
theorem stageSample_one {rel : Nat} (hrel : rel < w.fillBuf.count) (width : Width) (fill : Nat) :
    w.stageSample width fill rel = if w.fillBuf.wordOk (rel / 8) then (slice w.fillBuf.data rel width.bytes, none)
      else (fillBytes width fill, some (rel / 8 * 8)) := by
  simp [Writer.stageSample, Writer.stages, hone, locateStage, hrel]

/-- What a staging read of one buffer delivers: each sample, or the fill value for one of a word in error, and the
addresses of those words (R168). -/
theorem stageRead_one {off n : Nat} {width : Width} (hoff : w.fillOffset ≤ off)
    (hend : off + n * width.bytes ≤ w.fillOffset + w.fillBuf.count) (block fill : Nat) :
    let place (q : Nat) := off + q * width.bytes - w.fillOffset
    let lost := (List.range n).filter fun q => !w.fillBuf.wordOk (place q / 8)
    w.stageRead block width fill off n =
      ((List.range n).flatMap fun q =>
          if w.fillBuf.wordOk (place q / 8) then slice w.fillBuf.data (place q) width.bytes else fillBytes width fill,
        lost.length, (lost.map fun q => block * blockBytes + w.fillOffset + place q / 8 * 8).dedup) := by
  intro place lost
  have hgot : ((List.range n).map fun i => w.stageSample width fill (off + i * width.bytes - w.fillOffset)) =
      (List.range n).map fun q => if w.fillBuf.wordOk (place q / 8)
        then (slice w.fillBuf.data (place q) width.bytes, none)
        else (fillBytes width fill, some (place q / 8 * 8)) := by
    refine List.map_congr_left fun q hq => stageSample_one hone ?_ width fill
    have hq : (q + 1) * width.bytes ≤ n * width.bytes := Nat.mul_le_mul_right _ (List.mem_range.1 hq)
    have := width_bytes_pos width
    rw [Nat.succ_mul] at hq
    omega
  have hbad : ((List.range n).map fun q => if w.fillBuf.wordOk (place q / 8)
      then (slice w.fillBuf.data (place q) width.bytes, (none : Option Nat))
      else (fillBytes width fill, some (place q / 8 * 8))).filterMap (·.2) = lost.map fun q => place q / 8 * 8 := by
    simp only [lost]
    induction List.range n with
    | nil => rfl
    | cons q qs ih => by_cases hok : w.fillBuf.wordOk (place q / 8) = true <;> simp_all
  simp only [Writer.stageRead, hgot, hbad, List.length_map, List.map_map, Function.comp_def]
  refine Prod.ext ?_ rfl
  simp only [List.flatMap_def, List.map_map]
  congr 2
  funext q
  by_cases hok : w.fillBuf.wordOk (place q / 8) = true <;> simp [hok]

/-- A staging read of sound words is the start of the buffer, with nothing replaced (R168). -/
theorem stageRead_sound {n : Nat} {width : Width} (hend : n * width.bytes ≤ w.fillBuf.count)
    (hlen : w.fillBuf.count ≤ w.fillBuf.data.length) (hok : ∀ v, w.fillBuf.wordOk v = true) (block fill : Nat) :
    w.stageRead block width fill w.fillOffset n = (w.fillBuf.data.take (n * width.bytes), 0, []) := by
  rw [stageRead_one hone (Nat.le_refl _) (by omega) block fill]
  simp only [hok, if_true, Nat.add_sub_cancel_left, flatMap_slices (Nat.le_trans hend hlen)]
  simp

end OneBuffer

/-! ### The preview reader (R23) -/

/-- With no part of the span left the PREVIEW replies. -/
theorem previewRun_done {s : State} {p : Preview} (hp : s.preview = some p) (hsegs : p.segs = []) :
    s.previewRun = s.previewReply p := by
  simp [State.previewRun, State.previewAdvance, hp, hsegs]

/-- Where the next sample is in capture memory the reader waits for the port. -/
theorem previewRun_waits {s : State} {p : Preview} {b j n : Nat} {rest : List Seg} (hp : s.preview = some p)
    (hsegs : p.segs = .held b j n :: rest) (hn : n ≠ 0) (hm : 0 < (s.stream p.stream).inMemory b j n) :
    s.previewRun = s := by
  simp [State.previewRun, State.previewAdvance, hp, hsegs, hn, hm]

/-- The last samples of a span are read from staging where they stand there (R168). -/
theorem previewRun_staged {s : State} {p : Preview} {b j n : Nat} (hp : s.preview = some p)
    (hsegs : p.segs = [.held b j n]) (hn : n ≠ 0) (hm : (s.stream p.stream).inMemory b j n = 0) :
    let x := s.stream p.stream
    let r := x.writer.stageRead b p.width x.cfg.fillValue (j * p.width.bytes) n
    let p' := { p with segs := [], data := p.data ++ r.1, replaced := p.replaced + r.2.1 }
    s.previewRun = (({ s with preview := some p' }).countStaging r.2.2).previewReply p' := by
  intro x r p'
  obtain ⟨g, d, hcount⟩ := countStaging_eq { s with preview := some p' } r.2.2
  have hlast : (({ s with preview := some p' }).countStaging r.2.2).previewAdvance 1 =
      (({ s with preview := some p' }).countStaging r.2.2).previewReply p' := by
    rw [hcount]; rfl
  rw [← hlast]
  simp [State.previewRun, State.previewAdvance, hp, hsegs, hn, hm, x, r, p']

/-- A preview read takes the samples it delivers and the reader goes on. -/
theorem previewTake_eq {s : State} {p : Preview} (hp : s.preview = some p) (addr len : Nat) :
    s.previewTake addr len =
      (({ s with preview := some { p with
          segs := Seg.advance (len / p.width.bytes) p.segs,
          data := p.data ++ s.mem.readSamples addr len p.width (s.stream p.stream).cfg.fillValue,
          replaced := p.replaced + ((s.mem.replaced addr len p.width).filter id).length } }).countUnits addr len
        (unitsOf addr len)).previewRun := by
  simp [State.previewTake, hp]

/-- Clean words add their bytes and nothing replaced. -/
theorem previewTake_clean {s : State} {p : Preview} (hp : s.preview = some p) {addr m : Nat}
    (h : s.mem.cleanOver addr (m * p.width.bytes)) :
    s.previewTake addr (m * p.width.bytes) = State.previewRun { s with preview := some { p with
      segs := Seg.advance m p.segs, data := p.data ++ s.mem.bytesOver addr (m * p.width.bytes) } } := by
  have hm : m * p.width.bytes / p.width.bytes = m := Nat.mul_div_cancel m (width_bytes_pos _)
  rw [previewTake_eq hp, h.readSamples (Nat.dvd_mul_left ..), h.replaced, hm]
  simp only [List.filter_replicate, id, Bool.false_eq_true, if_false, List.length_nil, Nat.add_zero]
  exact congrArg _ (countUnits_of_clean h)

theorem execPreviewReadComplete_eq {s : State} {addr len : Nat} {live : Bool}
    (hg : s.port.granted = some (.preview addr len live)) (hin : addr + len ≤ 17179869184) :
    exec (.previewReadComplete []) s = .next (if live then s.freePort.previewTake addr len
      else s.freePort.countUnits addr len (unitsOf addr len)).settle := by
  show execPreviewReadComplete [] s = _
  simp [execPreviewReadComplete, hg, inCapture_of_le hin, State.upsets]

/-- A whole span read: the PREVIEW's reply, in the terms of the statements. -/
theorem previewReply_settle (s u : State) (p : Preview) (hstreams : u.streams = s.streams)
    (hctl : u.ctl = s.ctl) (hmem : u.mem = s.mem) :
    let t := (u.previewReply p).settle
    t.preview = none ∧ t.mem = s.mem ∧ t.streams = ((s.unpinned p).releaseScan p.stream false).streams ∧
      t.integ.capture = u.integ.capture ∧ t.integ.staging = u.integ.staging ∧
      (u.notices = s.notices →
        t.notices.device.memory = ((s.unpinned p).releaseScan p.stream false).notices.device.memory) ∧
      t.ctl = (s.replied 0x0C#8 p.tag 0#8 p.fields).ctl := by
  have hs (i : StreamId) : u.stream i = s.stream i := congrArg (·.get i) hstreams
  simp only [settle_preview, settle_mem, settle_streams, settle_capture, settle_staging, settle_memory, settle_ctl,
    previewReply_eq, releaseScan_eq, State.unpinned, hs, hctl, reply_replied]
  refine ⟨trivial, hmem, ?_, rfl, rfl, fun hn => ?_, rfl⟩
  · simp [hstreams]
  · simp [hn]

/-! ### The statement -/

/-- A PREVIEW with more of its span read (R23). -/
def Preview.withRead (p : Preview) (segs : List Seg) (bytes : List Byte) (lost : Nat) : Preview :=
  { p with segs := segs, data := p.data ++ bytes, replaced := p.replaced + lost }

/-- The state in which the preview reader goes on after a read. -/
def State.reading (s : State) (p : Preview) : State := { s.freePort with preview := some p }

@[simp] theorem State.reading_stream (s : State) (p : Preview) (i : StreamId) : (s.reading p).stream i = s.stream i :=
    rfl

section

variable (p : Preview) (segs : List Seg) (bytes : List Byte) (lost : Nat)

@[simp] theorem Preview.withRead_stream : (p.withRead segs bytes lost).stream = p.stream := rfl

@[simp] theorem Preview.withRead_width : (p.withRead segs bytes lost).width = p.width := rfl

end

section LiveRead

variable {s : State} {p : Preview} {addr b j n : Nat} (hp : s.preview = some p) (hsegs : p.segs = [.held b j n])
include hp hsegs

/-- A live read of clean words (R23). -/
theorem previewRead_clean {m : Nat} (hg : s.port.granted = some (.preview addr (m * p.width.bytes) true))
    (hin : addr + m * p.width.bytes ≤ 17179869184) (h : s.mem.cleanOver addr (m * p.width.bytes)) :
    exec (.previewReadComplete []) s = .next (s.reading (p.withRead
      (if m < n then [.held b (j + m) (n - m)] else [])
      (s.mem.bytesOver addr (m * p.width.bytes)) 0)).previewRun.settle := by
  rw [execPreviewReadComplete_eq hg hin, if_pos rfl, previewTake_clean (s := s.freePort) hp h, hsegs]
  rfl

/-- The read of the last samples of a span completes its PREVIEW (R24). -/
theorem previewRead_whole (hg : s.port.granted = some (.preview addr (n * p.width.bytes) true))
    (hin : addr + n * p.width.bytes ≤ 17179869184) (h : s.mem.cleanOver addr (n * p.width.bytes)) :
    let p' := p.withRead [] (s.mem.bytesOver addr (n * p.width.bytes)) 0
    exec (.previewReadComplete []) s = .next ((s.reading p').previewReply p').settle := by
  intro p'
  have hrun : (s.reading p').previewRun = (s.reading p').previewReply p' := previewRun_done rfl rfl
  rw [previewRead_clean hp hsegs hg hin h, if_neg (Nat.lt_irrefl n), hrun]

/-- A read that leaves samples in capture memory keeps the PREVIEW waiting for the port (R23). -/
theorem previewRead_part {m : Nat} (hg : s.port.granted = some (.preview addr (m * p.width.bytes) true))
    (hin : addr + m * p.width.bytes ≤ 17179869184) (h : s.mem.cleanOver addr (m * p.width.bytes)) (hm : m < n)
    (hfill : (s.stream p.stream).writer.filling ≠ some b) :
    exec (.previewReadComplete []) s = .next (s.reading
      (p.withRead [.held b (j + m) (n - m)] (s.mem.bytesOver addr (m * p.width.bytes)) 0)).settle := by
  have hleft : 0 < n - m := Nat.sub_pos_of_lt hm
  have hmem : 0 < (s.stream p.stream).inMemory b (j + m) (n - m) := hleft.trans_eq (if_neg hfill).symm
  rw [previewRead_clean hp hsegs hg hin h, if_pos hm,
    previewRun_waits (s := s.reading _) (p := p.withRead _ _ _) rfl rfl hleft.ne' hmem]

/-- Samples left in staging are read at once, and the PREVIEW is complete (R23, R168). -/
theorem previewRead_staged {m : Nat} (hg : s.port.granted = some (.preview addr (m * p.width.bytes) true))
    (hin : addr + m * p.width.bytes ≤ 17179869184) (h : s.mem.cleanOver addr (m * p.width.bytes)) (hm : m < n)
    (hw : (s.stream p.stream).cfg.width = p.width) (hfill : (s.stream p.stream).writer.filling = some b)
    (hone : (s.stream p.stream).writer.awaiting = [])
    (hoff : (s.stream p.stream).writer.fillOffset = (j + m) * p.width.bytes)
    (hcount : (n - m) * p.width.bytes ≤ (s.stream p.stream).writer.fillBuf.count)
    (hlen : (s.stream p.stream).writer.fillBuf.count ≤ (s.stream p.stream).writer.fillBuf.data.length)
    (hok : ∀ v, (s.stream p.stream).writer.fillBuf.wordOk v = true) :
    let p' := p.withRead [] (s.mem.bytesOver addr (m * p.width.bytes) ++
      (s.stream p.stream).writer.fillBuf.data.take ((n - m) * p.width.bytes)) 0
    exec (.previewReadComplete []) s = .next ((s.reading p').previewReply p').settle := by
  have hmem : (s.stream p.stream).inMemory b (j + m) (n - m) = 0 := by
    rw [Stream.inMemory, if_pos hfill, hoff, hw, Nat.mul_div_cancel _ (width_bytes_pos _)]
    omega
  have hread := stageRead_sound hone hcount hlen hok b (s.stream p.stream).cfg.fillValue
  rw [hoff] at hread
  have hrun := previewRun_staged (s := s.reading _) (p := p.withRead [.held b (j + m) (n - m)]
    (s.mem.bytesOver addr (m * p.width.bytes)) 0) rfl rfl (Nat.sub_pos_of_lt hm).ne' hmem
  simp only [State.reading_stream, Preview.withRead_stream, Preview.withRead_width, hread] at hrun
  rw [previewRead_clean hp hsegs hg hin h, if_pos hm, hrun]
  simp [State.countStaging, State.reading, Preview.withRead]

end LiveRead

/-- The samples of an unusable unit that ends the span are the fill value and replaced, the unit counted if it is
uncorrectable (R159, R161). -/
theorem previewRead_lost {s : State} {p : Preview} {addr b j n : Nat}
    (hg : s.port.granted = some (.preview addr 64 true)) (hin : addr + 64 ≤ 17179869184) (ha : addr % 64 = 0)
    (hp : s.preview = some p) (hsegs : p.segs = [.held b j n]) (hn : 64 = n * p.width.bytes)
    (hbad : s.mem.unitOutcome addr 64 (addr / 64) = .uncorrectable ∨ s.mem.unitOutcome addr 64 (addr / 64) = .poison) :
    let p' := p.withRead [] (List.replicate n (leBytes p.width.bytes (s.stream p.stream).cfg.fillValue)).flatten n
    exec (.previewReadComplete []) s =
      .next ((if s.mem.unitOutcome addr 64 (addr / 64) = .uncorrectable
        then (s.reading p').countUncorrectable .capture addr else s.reading p').previewReply p').settle := by
  intro p'
  have hm : 64 / p.width.bytes = n := by rw [hn, Nat.mul_div_cancel _ (width_bytes_pos _)]
  have htook : s.freePort.previewTake addr 64 = ((s.reading p').countUnits addr 64 (unitsOf addr 64)).previewRun := by
    rw [previewTake_eq (s := s.freePort) hp]
    change State.previewRun (State.countUnits { s.freePort with preview := some { p with
      segs := _, data := p.data ++ s.mem.readSamples addr 64 p.width (s.stream p.stream).cfg.fillValue,
      replaced := p.replaced + ((s.mem.replaced addr 64 p.width).filter id).length } } _ _ _) = _
    rw [hm, hsegs, readSamples_unit ha hbad, replaced_unit ha hbad, hm]
    simp [Seg.advance, State.reading, p', Preview.withRead]
  have hcount : (s.reading p').countUnits addr 64 (unitsOf addr 64) =
      if s.mem.unitOutcome addr 64 (addr / 64) = .uncorrectable
        then (s.reading p').countUncorrectable .capture addr else s.reading p' := by
    have hmem : (s.reading p').mem = s.mem := rfl
    rw [countUnits_unit ha, hmem]
    rcases hbad with h | h <;> simp [h]
  rw [execPreviewReadComplete_eq hg hin, if_pos rfl, htook, hcount, previewRun_done (p := p') ?_ rfl]
  split <;> rfl

/-- Settles O36: each read is followed to where the preview reader stops, at the port or at the reply. -/
theorem previewReadsComplete : Obligations.PreviewReadsComplete := by
  refine fun s => ⟨fun us hg => ?_, fun a n hg hin => ⟨fun hclean => ?_, fun hn ha hlost => ?_⟩,
    fun addr len p b j n hg hin hclean hp hsegs => ⟨fun hlen => ?_, fun m hlen hm hfill => ?_,
      fun m hlen hm hw hfill hone hoff hcount hdata hpar => ?_⟩,
    fun addr p b j n hg hin ha hp hsegs hn hbad => ?_⟩
  · show execPreviewReadComplete us s = _
    unfold execPreviewReadComplete
    split
    · next a n l hgr => exact absurd hgr (hg a n l)
    · rfl
  · rw [execPreviewReadComplete_eq hg hin, if_neg (by decide), countUnits_of_clean (s := s.freePort) hclean]
    rfl
  · subst hn
    rw [execPreviewReadComplete_eq hg hin, if_neg (by decide), countUnits_lost (s := s.freePort) ha hlost]
    rfl
  · subst hlen
    obtain ⟨h1, h2, h3, -, -, h4, h5⟩ := previewReply_settle s (s.reading _)
      (p.withRead [] (s.mem.bytesOver addr (n * p.width.bytes)) 0) rfl rfl rfl
    refine ⟨_, previewRead_whole hp hsegs hg hin hclean, h1, h2, h3, h4 rfl, h5.trans ?_⟩
    rw [fields_eq]
    simp [Preview.withRead, Memory.bytesOver]
  · subst hlen
    refine ⟨_, previewRead_part hp hsegs hg hin hclean hm hfill, ?_⟩
    simp [State.reading, State.freePort, Preview.withRead, Memory.bytesOver]
  · subst hlen
    have hok (v : Nat) : (s.stream p.stream).writer.fillBuf.wordOk v = true := by simp [StageBuf.wordOk, hpar v]
    obtain ⟨h1, -, h3, -, h4, -, h5⟩ := previewReply_settle s (s.reading _)
      (p.withRead [] (s.mem.bytesOver addr (m * p.width.bytes) ++
        (s.stream p.stream).writer.fillBuf.data.take ((n - m) * p.width.bytes)) 0) rfl rfl rfl
    refine ⟨_, previewRead_staged hp hsegs hg hin hclean hm hw hfill hone hoff hcount hdata hok, h1, h4, h3,
      h5.trans ?_⟩
    have htotal : m * p.width.bytes + (n - m) * p.width.bytes = n * p.width.bytes := by
      rw [← Nat.add_mul, Nat.add_sub_cancel' hm.le]
    rw [fields_eq]
    simp [Preview.withRead, Memory.bytesOver, Nat.min_eq_left (Nat.le_trans hcount hdata), htotal]
  · have hdata : (List.replicate n (leBytes p.width.bytes (s.stream p.stream).cfg.fillValue)).flatten.length = 64 := by
      simp [← hn]
    obtain ⟨h1, h2, -, h3, -, -, h5⟩ := previewReply_settle s
      (if s.mem.unitOutcome addr 64 (addr / 64) = .uncorrectable
        then (s.reading _).countUncorrectable .capture addr else s.reading _)
      (p.withRead [] (List.replicate n (leBytes p.width.bytes (s.stream p.stream).cfg.fillValue)).flatten n)
      (by split <;> rfl) (by split <;> rfl) (by split <;> rfl)
    refine ⟨_, previewRead_lost hg hin ha hp hsegs hn hbad, h1, h2, ?_, h5.trans ?_⟩
    · rw [h3]
      split <;> rfl
    · rw [fields_eq]
      simp [Preview.withRead, hdata]

end Sys2Proof.Machine
end

section
/-! SUPPORT. The PREVIEW request: its refusals, its span and the start of its reader (R20 to R24, R168, R206, R208). -/

namespace Sys2Proof.Machine

/-! ### The request frame -/

/-- A field that stands whole in a body is read back. -/
theorem fieldAt_append {w : Nat} (n off : Nat) (x : BitVec w) (pre post : List Byte) (hoff : pre.length = off)
    (h : 2 ^ w ≤ 256 ^ n) : fieldAt w (pre ++ (fieldBytes n x ++ post)) off n = x := by
  rw [fieldAt, fieldBytes, slice_append _ _ _ _ _ hoff (leBytes_length ..)]
  exact ofNat_leNat_leBytes n x h

/-- The frame of a PREVIEW decodes to the PREVIEW (section 11.3). -/
theorem decodeFrame_preview (tag b sel : Byte) (maxBytes : BitVec 16) (index : BitVec 48) :
    decodeFrame (requestFrame tag (.preview b sel maxBytes index)) = .request (.preview b sel maxBytes index) := by
  let body := [b, sel] ++ (fieldBytes 2 maxBytes ++ (fieldBytes 6 index ++ zeros 2))
  have hbody : requestFrame tag (.preview b sel maxBytes index) = ⟨kindPreview, tag, body⟩ := by
    simp [requestFrame, requestKind, requestBody, body]
  have hlen : body.length = 12 := by simp [body, fieldBytes]
  have hmax : fieldAt 16 body 2 2 = maxBytes := fieldAt_append 2 2 maxBytes _ _ rfl (by decide)
  have hindex : fieldAt 48 body 4 6 = index := by
    have := fieldAt_append 6 4 index ([b, sel] ++ fieldBytes 2 maxBytes) (zeros 2) (by simp [fieldBytes]) (by decide)
    simpa only [body, List.append_assoc] using this
  show (decodeFrame (requestFrame tag (.preview b sel maxBytes index))) = _
  rw [hbody]
  show (if body.length = 12 then
    Decoded.request (.preview b sel (fieldAt 16 body 2 2) (fieldAt 48 body 4 6)) else .badLength) = _
  rw [if_pos hlen, hmax, hindex]

/-- A PREVIEW that can be taken at once is taken and run. -/
theorem exec_preview {s : State} (h : s.takesAtOnce) (tag b sel : Byte) (maxBytes : BitVec 16) (index : BitVec 48) :
    exec (.preview tag b sel maxBytes index) s =
      .next ((s.takeFrame []).previewRequest tag b sel maxBytes index) := by
  show Host.Outcome.next (s.submit (requestFrame tag (.preview b sel maxBytes index))) = _
  rw [submit_of_takesAtOnce h, State.runFrame, decodeFrame_preview]
  rfl

theorem streamOf_num {b : Byte} {i : StreamId} (h : b.toNat = i.num) : streamOf b = some i := by
  rw [streamOf, h]; cases i <;> rfl

theorem streamOf_none {b : Byte} (h : 3 < b.toNat) : streamOf b = none := by
  obtain ⟨n, hn⟩ : ∃ n, b.toNat = n + 4 := ⟨b.toNat - 4, by omega⟩
  rw [streamOf, hn]; rfl

theorem active_iff {x : Stream} : x.active = true ↔ x.phase = .running ∨ x.phase = .closing := by
  simp [Stream.active]

/-! ### Refusals (R20, R206) -/

/-- A request taken at once and refused changes nothing but its reply. -/
theorem refuse_of_taken {s : State} (h : s.takesAtOnce) (tag : Byte) (st : Status) :
    (s.takeFrame []).refuse kindPreview tag st = s.answered 0x0C#8 tag (BitVec.ofNat 8 st.code) [] :=
  reply_of_taken h rfl _ _ _ _

/-! ### Acceptance (R21 to R23) -/

/-- The PREVIEW that a span starts. -/
def SpanPlan.preview (plan : SpanPlan) (x : Stream) (i : StreamId) (tag : Byte) : Preview where
  stream := i
  tag := tag
  k := plan.k
  width := x.cfg.width
  first := plan.first
  segs := plan.segs
  data := []
  replaced := 0
  pinned := Seg.blocks plan.segs

/-- The state of an accepted PREVIEW before its reader starts: the entries it meets are pinned (R23). -/
def State.previewing (s : State) (p : Preview) : State :=
  { s.modStream p.stream fun x => { x with capture := pinBlocks p.pinned x.capture } with preview := some p }

theorem previewStart_eq (s : State) (i : StreamId) (tag : Byte) (plan : SpanPlan) :
    s.previewStart i tag plan = (s.previewing (plan.preview (s.stream i) i tag)).previewRun.settle := rfl

theorem previewing_stream (s : State) (p : Preview) : (s.previewing p).stream p.stream =
    { s.stream p.stream with capture := pinBlocks p.pinned (s.stream p.stream).capture } :=
  Quad.get_set_self ..

theorem previewing_stream_other (s : State) (p : Preview) {j : StreamId} (h : j ≠ p.stream) :
    (s.previewing p).stream j = s.stream j := Quad.get_set_other _ _ h

theorem unpinBlocks_pinBlocks (blocks : List Nat) (l : List Entry) : unpinBlocks blocks (pinBlocks blocks l) = l := by
  rw [unpinBlocks_eq, pinBlocks_eq, List.map_map]
  refine (List.map_congr_left fun e _ => ?_).trans (List.map_id l)
  by_cases h : e.block ∈ blocks <;> simp [h]

/-- Pins set and removed at once leave the streams as they were. -/
theorem unpinned_previewing {s u : State} {p q : Preview} (hu : u.streams = (s.previewing p).streams)
    (hstream : q.stream = p.stream) (hpins : q.pinned = p.pinned) : (u.unpinned q).streams = s.streams := by
  have hx : u.stream p.stream = (s.previewing p).stream p.stream := congrArg (·.get p.stream) hu
  rw [State.unpinned, ← unpinBlocks_eq, hstream, hpins, hx, previewing_stream, unpinBlocks_pinBlocks,
    State.setStream_streams, hu]
  exact (Quad.set_set ..).trans (Quad.set_get ..)

/-- A reply at once leaves the streams as the release scan does, and is the request's answer (R14, R24). -/
theorem previewReply_at_once {s u : State} {p q : Preview} (h : s.takesAtOnce)
    (hstreams : u.streams = ((s.takeFrame []).previewing p).streams) (hctl : u.ctl = (s.takeFrame []).ctl)
    (hmem : u.mem = s.mem) (hstream : q.stream = p.stream) (hpins : q.pinned = p.pinned) :
    let t := (u.previewReply q).settle
    t.preview = none ∧ t.mem = s.mem ∧ t.streams = (s.releaseScan p.stream false).streams ∧
      t.integ.staging = u.integ.staging ∧
      t.notices.device.memory =
        (u.notices.raiseMemory ((s.stream p.stream).scanMarked false)).device.memory ∧
      t.ctl = (s.answered 0x0C#8 q.tag 0#8 q.fields).ctl := by
  have hback : (u.unpinned q).streams = s.streams := unpinned_previewing (s := s.takeFrame []) hstreams hstream hpins
  have hx : (u.unpinned q).stream p.stream = s.stream p.stream := congrArg (·.get p.stream) hback
  obtain ⟨h1, h2, h3, -, h4, h5, h6⟩ := previewReply_settle u u q rfl rfl rfl
  refine ⟨h1, h2.trans hmem, h3.trans ?_, h4, (h5 rfl).trans ?_, h6.trans ?_⟩
  · rw [releaseScan_eq, releaseScan_eq, hstream, hx, hback]
  · rw [releaseScan_eq, hstream, hx]
    rfl
  · show u.ctl.reply kindPreview q.tag .ok q.fields = _
    rw [hctl]
    exact congrArg State.ctl (reply_of_taken (t := s.takeFrame []) h rfl kindPreview q.tag .ok q.fields)

/-- The order of the checks of a PREVIEW of a stream that exists (R20). -/
theorem exec_preview_of_stream {s : State} (h : s.takesAtOnce) {b : Byte} {i : StreamId} (hb : b.toNat = i.num)
    {maxBytes : BitVec 16} {n : Nat} (hn : min maxBytes.toNat 4064 / (s.stream i).cfg.width.bytes = n) (tag sel : Byte)
    (index : BitVec 48) : exec (.preview tag b sel maxBytes index) s = .next (
      let r := s.takeFrame []
      let x := s.stream i
      if 1 < sel.toNat then r.refuse kindPreview tag .range
      else if n = 0 then r.refuse kindPreview tag .range
      else if ¬ (x.phase = .running ∨ x.phase = .closing) then r.refuse kindPreview tag .state
      else if s.preview ≠ none then r.refuse kindPreview tag .busy
      else if sel = 0#8 then r.previewStart i tag (x.newestPlan n)
      else if x.writer.index ≤ index.toNat then r.refuse kindPreview tag .range
      else if index.toNat < x.oldestHeld then r.reply kindPreview tag .gone (x.goneFields i)
      else r.previewStart i tag (x.fromPlan index.toNat n)) := by
  have hact : ((!(s.stream i).active) = true) = ¬ ((s.stream i).phase = .running ∨ (s.stream i).phase = .closing) := by
    rw [Bool.not_eq_true', ← active_iff, Bool.not_eq_true]
  have hbusy : (s.preview.isSome = true) = (s.preview ≠ none) := propext Option.isSome_iff_ne_none
  subst hn
  rw [exec_preview h, State.previewRequest, streamOf_num hb]
  simp only [State.takeFrame_stream, State.takeFrame_preview, hact, hbusy]
  rfl

section Accepted

variable {s : State} (h : s.takesAtOnce) {b : Byte} {i : StreamId} (hb : b.toNat = i.num)
  (hact : (s.stream i).phase = .running ∨ (s.stream i).phase = .closing) (hpre : s.preview = none)
  {maxBytes : BitVec 16} {n : Nat} (hn : min maxBytes.toNat 4064 / (s.stream i).cfg.width.bytes = n) (hpos : n ≠ 0)
include h hb hact hpre hn hpos

theorem exec_preview_newest (tag : Byte) (index : BitVec 48) :
    exec (.preview tag b 0#8 maxBytes index) s =
      .next ((s.takeFrame []).previewStart i tag ((s.stream i).newestPlan n)) := by
  rw [exec_preview_of_stream h hb hn]
  simp [hpos, hact, hpre]

theorem exec_preview_from (tag : Byte) {index : BitVec 48} (hlt : index.toNat < (s.stream i).writer.index)
    (hold : (s.stream i).oldestHeld ≤ index.toNat) :
    exec (.preview tag b 1#8 maxBytes index) s =
      .next ((s.takeFrame []).previewStart i tag ((s.stream i).fromPlan index.toNat n)) := by
  rw [exec_preview_of_stream h hb hn]
  simp [hpos, hact, hpre, Nat.not_le.2 hlt, Nat.not_lt.2 hold]

end Accepted

theorem takeFrame_ctl_of_takesAtOnce {s : State} (h : s.takesAtOnce) :
    (s.takeFrame []).ctl = { s.ctl with reserved := s.ctl.reserved + 1 } := by
  obtain ⟨hin, -, -⟩ := h
  rw [State.takeFrame_ctl, ← hin]

/-- A span whose first samples are in capture memory waits for the port, its blocks pinned (R23). -/
theorem previewStart_waits {s : State} (h : s.takesAtOnce) {i : StreamId} (tag : Byte) {plan : SpanPlan}
    {blk j m : Nat} {rest : List Seg}
    (hsegs : plan.segs = .held blk j m :: rest) (hm : m ≠ 0) (hfill : (s.stream i).writer.filling ≠ some blk) :
    let t := (s.takeFrame []).previewStart i tag plan
    t.preview = some (plan.preview (s.stream i) i tag) ∧
      t.stream i = { s.stream i with capture := pinBlocks (Seg.blocks plan.segs) (s.stream i).capture } ∧
      (∀ l, l ≠ i → t.stream l = s.stream l) ∧ t.mem = s.mem ∧
      t.ctl = { s.ctl with reserved := s.ctl.reserved + 1 } := by
  intro t
  let p := plan.preview (s.stream i) i tag
  let u := (s.takeFrame []).previewing p
  have hu : u.stream i = { s.stream i with capture := pinBlocks (Seg.blocks plan.segs) (s.stream i).capture } :=
    previewing_stream (s.takeFrame []) p
  have hmem : 0 < (u.stream i).inMemory blk j m := by
    rw [hu]
    exact (Nat.pos_of_ne_zero hm).trans_eq (if_neg hfill).symm
  have ht : t = u.settle := congrArg State.settle (previewRun_waits (s := u) (p := p) rfl hsegs hm hmem)
  rw [ht]
  exact ⟨settle_preview u, (settle_stream u i).trans hu,
    fun l hl => (settle_stream u l).trans (previewing_stream_other (s.takeFrame []) p hl), settle_mem u,
    (settle_ctl u).trans (takeFrame_ctl_of_takesAtOnce h)⟩

/-- A span without a part replies at once (R24). -/
theorem previewStart_empty {s : State} (h : s.takesAtOnce) {i : StreamId} (tag : Byte) {plan : SpanPlan}
    (hsegs : plan.segs = []) :
    let t := (s.takeFrame []).previewStart i tag plan
    t.preview = none ∧ t.mem = s.mem ∧ t.streams = (s.releaseScan i false).streams ∧
      t.ctl = (s.answered 0x0C#8 tag 0#8 ([BitVec.ofNat 8 i.num, BitVec.ofNat 8 plan.k,
        BitVec.ofNat 8 (s.stream i).cfg.width.code, 0#8] ++ leBytes 6 plan.first ++ zeros 18)).ctl := by
  obtain ⟨h1, h2, h3, -, -, h4⟩ := previewReply_at_once (u := (s.takeFrame []).previewing
    (plan.preview (s.stream i) i tag)) (p := plan.preview (s.stream i) i tag) (q := plan.preview (s.stream i) i tag)
    h rfl rfl rfl rfl rfl
  rw [previewStart_eq, previewRun_done (p := plan.preview ((s.takeFrame []).stream i) i tag) rfl hsegs]
  refine ⟨h1, h2, h3, h4.trans ?_⟩
  rw [fields_eq]
  simp [SpanPlan.preview, leBytes, zeros]

/-! ### Spans (R21, R22) -/

theorem covers_iff {e : Entry} {i : Nat} :
    e.covers i = true ↔ e.first - gapLen e.gap ≤ i ∧ i < e.first + e.kept * 2 ^ e.k := by
  rw [Entry.covers, Bool.and_eq_true, decide_eq_true_iff, decide_eq_true_iff]
  rfl

/-- The blocks a span pins are those of its nonempty parts (R23). -/
theorem blocks_eq_filterMap (segs : List Seg) : Seg.blocks segs = segs.filterMap fun g => match g with
    | .held c _ l => if l = 0 then none else some c
    | .copied _ _ _ => none := by
  induction segs with
  | nil => rfl
  | cons g segs ih =>
    cases g with
    | held c j l => by_cases hl : l = 0 <;> simp [Seg.blocks, hl, ih]
    | copied bs r lost => simpa [Seg.blocks] using ih

theorem newestPlan_nil {x : Stream} (h : x.capture = []) (n : Nat) :
    x.newestPlan n = ⟨[], x.writer.index, x.writer.k⟩ := by
  simp [Stream.newestPlan, h, newestSegs]

/-- The newest samples asked for are all in the tail entry (R21). -/
theorem newestPlan_last {x : Stream} {older : List Entry} {e : Entry} {n : Nat} (h : x.capture = older ++ [e])
    (hn : n ≤ e.kept) :
    x.newestPlan n = ⟨[.held e.block (e.kept - n) n], e.first + (e.kept - n) * 2 ^ e.k, e.k⟩ := by
  simp [Stream.newestPlan, h, newestSegs, Nat.min_eq_left hn, Stream.tail]

theorem fromCovering_at {i : Nat} {older newer : List Entry} {e : Entry} (hold : ∀ g ∈ older, g.covers i = false)
    (he : e.covers i = true) : fromCovering i (older ++ e :: newer) = e :: newer := by
  induction older with
  | nil => simp [fromCovering, he]
  | cons g older ih =>
    obtain ⟨hg, hold⟩ := List.forall_mem_cons.1 hold
    simpa [fromCovering, hg] using ih hold

theorem fromCovering_none {i : Nat} {l : List Entry} (h : ∀ g ∈ l, g.covers i = false) : fromCovering i l = [] := by
  induction l with
  | nil => rfl
  | cons g l ih =>
    obtain ⟨hg, hl⟩ := List.forall_mem_cons.1 h
    simpa [fromCovering, hg] using ih hl

/-- The place of an index in the entry whose coverage holds it; an index in the gap takes the first sample (R22). -/
theorem place_of_index (i first k : Nat) :
    (i - first) / 2 ^ k = if i < first then 0 else (i - first) / 2 ^ k := by
  split
  · next h => rw [Nat.sub_eq_zero_of_le h.le, Nat.zero_div]
  · rfl

theorem fromPlan_at {x : Stream} {i n : Nat} {older newer : List Entry} {e : Entry}
    (h : x.capture = older ++ e :: newer) (hold : ∀ g ∈ older, g.covers i = false) (he : e.covers i = true) :
    let j := if i < e.first then 0 else (i - e.first) / 2 ^ e.k
    x.fromPlan i n = ⟨.held e.block j (min n (e.kept - j)) :: forwardSegs e.k newer (n - min n (e.kept - j)),
      e.first + j * 2 ^ e.k, e.k⟩ := by
  rw [← place_of_index, Stream.fromPlan, h, fromCovering_at hold he]

theorem fromPlan_none {x : Stream} {i : Nat} (h : ∀ g ∈ x.capture, g.covers i = false) (n : Nat) :
    x.fromPlan i n = ⟨[], i, 0⟩ := by
  rw [Stream.fromPlan, fromCovering_none h]

theorem forwardSegs_zero (k : Nat) (l : List Entry) : forwardSegs k l 0 = [] := by
  cases l <;> simp [forwardSegs]

/-- With the index held to be at or above the head entry, no earlier one is the oldest (R20). -/
theorem oldestHeld_le {x : Stream} {i : Nat} (hne : x.capture ≠ [])
    (hold : ∀ e rest, x.capture = e :: rest → e.first ≤ i) : x.oldestHeld ≤ i := by
  obtain ⟨e, rest, hcap⟩ := List.exists_cons_of_ne_nil hne
  rw [Stream.oldestHeld, hcap]
  exact hold e rest hcap

theorem blocks_of_one (blk j : Nat) {n : Nat} (h : n ≠ 0) : Seg.blocks [.held blk j n] = [blk] := by
  simp [Seg.blocks, h]

/-- Pinning the block of one entry leaves the others. -/
theorem pinBlocks_one {older newer : List Entry} {e : Entry} (h : ∀ g ∈ older ++ newer, g.block ≠ e.block) :
    pinBlocks [e.block] (older ++ e :: newer) = older ++ { e with pins := e.pins + 1 } :: newer := by
  have hother (l : List Entry) (hl : ∀ g ∈ l, g ∈ older ++ newer) :
      (l.map fun g => if g.block ∈ [e.block] then { g with pins := g.pins + 1 } else g) = l :=
    (List.map_congr_left fun g hg => if_neg (by simpa using h g (hl g hg))).trans (List.map_id l)
  rw [pinBlocks_eq, List.map_append, List.map_cons, hother older fun g hg => List.mem_append_left _ hg,
    hother newer fun g hg => List.mem_append_right _ hg, if_pos (List.mem_singleton.2 rfl)]

/-- With no entry there is nothing to release. -/
theorem releaseScan_nil {s : State} {i : StreamId} (h : (s.stream i).capture = []) : s.releaseScan i false = s := by
  have hx : (s.stream i).scanned false = s.stream i := by
    have hself : ({ s.stream i with capture := [] } : Stream) = s.stream i := by rw [← h]
    rw [Stream.scanned, h]
    exact hself
  have hmarked : (s.stream i).scanMarked false = 0 := by rw [Stream.scanMarked, h]; rfl
  rw [releaseScan_eq, hx, hmarked]
  exact State.setStream_self s i

/-! ### The samples of a span -/

@[simp] theorem samples_length (e : Entry) : e.samples.length = e.kept := by simp [Entry.samples]

/-- Consecutive samples of an entry are those of a part of a span. -/
theorem samples_part (e : Entry) {j m : Nat} (h : j + m ≤ e.kept) :
    ((e.samples.drop j).take m).map (fun p => (p.1, p.2.1)) = (Seg.held e.block j m).samples := by
  have hrange : ((List.range e.kept).drop j).take m = (List.range m).map (j + ·) := by
    refine List.ext_getElem (by simp; omega) fun q _ _ => ?_
    simp
  simp only [Entry.samples, ← List.map_drop, ← List.map_take, hrange, List.map_map]
  rfl

theorem samples_drop_head (e : Entry) {j : Nat} (h : j < e.kept) :
    (e.samples.drop j).head?.map (·.2.2) = some (e.first + j * 2 ^ e.k) := by
  simp [Entry.samples, ← List.map_drop, List.head?_drop, h]

/-- The parts of a span that goes on through the entries that continue it (R22). -/
theorem forwardSegs_samples (k : Nat) (rest : List Entry) (n : Nat) :
    (forwardSegs k rest n).flatMap Seg.samples =
      ((((rest.takeWhile fun d => decide (d.gap = none ∧ d.k = k)).flatMap Entry.samples)).take n).map
        fun p => (p.1, p.2.1) := by
  induction rest generalizing n with
  | nil => simp [forwardSegs]
  | cons e rest ih =>
    rw [forwardSegs, List.takeWhile_cons]
    by_cases hgo : e.gap = none ∧ e.k = k
    · by_cases hn : n = 0
      · simp [hn]
      · have hpart := samples_part e (j := 0) (m := min n e.kept) (by omega)
        have htake : e.samples.take n = e.samples.take (min n e.kept) := by
          rw [List.take_eq_take_min, samples_length]
        have hleft : n - e.samples.length = n - min n e.kept := by rw [samples_length]; omega
        simp only [hn, hgo, decide_true, if_true, Option.isSome_none, ne_eq, not_true, decide_false, Bool.or_self,
          Bool.false_eq_true, if_false, and_self, List.flatMap_cons, ih, List.take_append, List.map_append,
          hleft, htake,
          ← hpart, List.drop_zero]
    · have hstop : (decide (n = 0) || e.gap.isSome || decide (e.k ≠ k)) = true := by
        by_cases hgap : e.gap = none <;> simp_all [Option.isSome_iff_ne_none]
      rw [if_pos hstop, if_neg (by simpa using hgo)]
      simp

/-- A FROM_INDEX span holds the samples from its place to the next gap or change of k (R22). -/
theorem fromPlan_samples {x : Stream} {i : Nat} {older newer : List Entry} {e : Entry}
    (h : x.capture = older ++ e :: newer) (hold : ∀ g ∈ older, g.covers i = false) (he : e.covers i = true) (n : Nat) :
    let j := if i < e.first then 0 else (i - e.first) / 2 ^ e.k
    let chain := e :: newer.takeWhile fun d => decide (d.gap = none ∧ d.k = e.k)
    (x.fromPlan i n).segs.flatMap Seg.samples =
      (((chain.flatMap Entry.samples).drop j).take n).map fun p => (p.1, p.2.1) := by
  intro j chain
  have hj : j ≤ e.kept := by
    simp only [j]
    split
    · exact Nat.zero_le _
    · obtain ⟨-, hi⟩ := covers_iff.1 he
      exact Nat.div_le_of_le_mul (by rw [Nat.mul_comm]; omega)
  have hpart := samples_part e (j := j) (m := min n (e.kept - j)) (by omega)
  have hlen : (e.samples.drop j).length = e.kept - j := by simp
  have htake : (e.samples.drop j).take n = (e.samples.drop j).take (min n (e.kept - j)) := by
    rw [List.take_eq_take_min, hlen]
  have hleft : n - (e.kept - j) = n - min n (e.kept - j) := by omega
  have hzero : j - e.samples.length = 0 := by rw [samples_length]; omega
  rw [fromPlan_at h hold he]
  simp only [List.flatMap_cons, forwardSegs_samples, chain, List.drop_append, List.take_append, List.map_append, hlen,
    hleft, hzero, List.drop_zero, htake]
  exact congrArg (· ++ _) hpart.symm

/-- A NEWEST span ends at the entry that holds all samples still asked for, or that continues no entry (R21). -/
theorem newestSegs_stop {a : Entry} {older : List Entry} {n : Nat}
    (h : n ≤ a.kept ∨ ∀ d ∈ older.head?, ¬ d.continues a) : newestSegs (a :: older) n =
      some ([.held a.block (a.kept - min n a.kept) (min n a.kept)], a.first + (a.kept - min n a.kept) * 2 ^ a.k) := by
  unfold newestSegs
  refine if_neg fun hgo => ?_
  rw [Bool.and_eq_true, Bool.and_eq_true, decide_eq_true_iff] at hgo
  obtain ⟨⟨hmore, hgap⟩, hk⟩ := hgo
  rcases h with h | h
  · omega
  · cases older with
    | nil => exact absurd hk Bool.false_ne_true
    | cons o t => exact h o rfl ⟨Option.isNone_iff_eq_none.1 hgap, (of_decide_eq_true hk).symm⟩

/-- A NEWEST span that needs more samples goes on through the entry its first one continues (R21). -/
theorem newestSegs_go {a o : Entry} {t segs} {n f : Nat} (hmore : a.kept < n) (hgo : o.continues a)
    (h : newestSegs (o :: t) (n - a.kept) = some (segs, f)) :
    newestSegs (a :: o :: t) n = some (segs ++ [.held a.block 0 a.kept], f) := by
  obtain ⟨hgap, hk⟩ := hgo
  have hm : min n a.kept = a.kept := Nat.min_eq_right hmore.le
  unfold newestSegs
  simp [hm, hmore, hgap, hk, h]

/-- Walking from the tail, a NEWEST span takes the last samples of the entries that continue one another (R21). The
list is newest first: `l` the entries of the chain, `r` those before it. -/
theorem newestSegs_samples {l r : List Entry} {n : Nat} (hl : l ≠ [])
    (hchain : l.IsChain fun newer older => older.continues newer)
    (hend : ∀ d ∈ r.head?, ∀ e ∈ l.getLast?, ¬ d.continues e) (hkept : ∀ d ∈ l, 0 < d.kept) (hn : 0 < n) :
    let all := l.reverse.flatMap Entry.samples
    let span := all.drop (all.length - n)
    ∃ segs f, newestSegs (l ++ r) n = some (segs, f) ∧
      segs.flatMap Seg.samples = span.map (fun p => (p.1, p.2.1)) ∧ span.head?.map (·.2.2) = some f := by
  induction l generalizing n with
  | nil => exact absurd rfl hl
  | cons a l ih =>
    obtain ⟨ha, hkept⟩ := List.forall_mem_cons.1 hkept
    intro all span
    let before := l.reverse.flatMap Entry.samples
    have hall : all = before ++ a.samples := by simp [all, before]
    have hlen : all.length = before.length + a.kept := by rw [hall, List.length_append, samples_length]
    -- the span is within this entry: the entry holds all that is asked for, or there is no sample before it
    have hwithin (hspan : span = a.samples.drop (a.kept - min n a.kept))
        (hstop : n ≤ a.kept ∨ ∀ d ∈ (l ++ r).head?, ¬ d.continues a) :
        ∃ segs f, newestSegs (a :: l ++ r) n = some (segs, f) ∧
          segs.flatMap Seg.samples = span.map (fun p => (p.1, p.2.1)) ∧ span.head?.map (·.2.2) = some f := by
      refine ⟨_, _, newestSegs_stop hstop, ?_, ?_⟩
      · have hpart := samples_part a (j := a.kept - min n a.kept) (m := min n a.kept) (by omega)
        rw [List.take_of_length_le (by simp; omega)] at hpart
        rw [hspan, hpart]
        exact List.flatMap_singleton ..
      · rw [hspan, samples_drop_head a (by omega)]
    by_cases hmore : n ≤ a.kept
    · refine hwithin ?_ (.inl hmore)
      simp only [span, hlen]
      rw [hall, List.drop_append, List.drop_eq_nil_of_le (by omega), List.nil_append, Nat.min_eq_left hmore]
      congr 1
      omega
    · cases l with
      | nil =>
        refine hwithin ?_ (.inr fun d hd => hend d hd a rfl)
        have hb : before = [] := rfl
        simp only [span, hlen]
        rw [hall, hb, List.nil_append]
        congr 1
        simp only [List.length_nil]
        omega
      | cons o t =>
        obtain ⟨hgo, hchain⟩ := List.isChain_cons_cons.1 hchain
        obtain ⟨segs, f, hsegs, hsamples, hfirst⟩ := ih (List.cons_ne_nil o t) hchain
          (fun d hd e he => hend d hd e he) hkept (n := n - a.kept) (by omega)
        have hspan : span = before.drop (before.length - (n - a.kept)) ++ a.samples := by
          simp only [span, hlen]
          rw [hall, List.drop_append]
          congr 1
          · congr 1
            omega
          · rw [Nat.sub_eq_zero_of_le (by omega), List.drop_zero]
        refine ⟨_, f, newestSegs_go (by omega) hgo hsegs, ?_, ?_⟩
        · have hwhole := samples_part a (j := 0) (m := a.kept) (by omega)
          rw [List.drop_zero, List.take_of_length_le (samples_length a).le] at hwhole
          rw [List.flatMap_append, hsamples, hspan, List.map_append, hwhole, List.flatMap_singleton]
        · obtain ⟨y, hy, hyf⟩ := Option.map_eq_some_iff.1 hfirst
          rw [hspan, List.head?_append, hy, Option.some_or, Option.map_some, hyf]

/-- A NEWEST span holds the last samples of the entries that end the list without a gap or a change of k (R21). -/
theorem newestPlan_samples {x : Stream} {before chain : List Entry} {e : Entry} {n : Nat}
    (h : x.capture = before ++ e :: chain) (hchain : (e :: chain).IsChain Entry.continues)
    (hend : ∀ d ∈ before.getLast?, ¬ d.continues e) (hkept : ∀ d ∈ e :: chain, 0 < d.kept) (hn : 0 < n) :
    let all := (e :: chain).flatMap Entry.samples
    let span := all.drop (all.length - n)
    (x.newestPlan n).segs.flatMap Seg.samples = span.map (fun p => (p.1, p.2.1)) ∧
      (x.newestPlan n).k = e.k ∧ span.head?.map (·.2.2) = some (x.newestPlan n).first := by
  obtain ⟨segs, f, hsegs, hsamples, hfirst⟩ := newestSegs_samples (l := (e :: chain).reverse) (r := before.reverse)
    (n := n) (by simp) (List.isChain_reverse.2 hchain) (by simpa using hend)
    (fun d hd => hkept d (List.mem_reverse.1 hd))
    hn
  rw [List.reverse_reverse] at hsamples hfirst
  have hrev : x.capture.reverse = (e :: chain).reverse ++ before.reverse := by rw [h, List.reverse_append]
  have hk : (x.tail.map (·.k)).getD x.writer.k = e.k := by
    have hlast (d : Entry) (l : List Entry) (hc : (d :: l).IsChain Entry.continues) :
        ∃ y, (d :: l).getLast? = some y ∧ y.k = d.k := by
      induction l generalizing d with
      | nil => exact ⟨d, rfl, rfl⟩
      | cons o t ih =>
        obtain ⟨⟨-, hok⟩, hc⟩ := List.isChain_cons_cons.1 hc
        obtain ⟨y, hy, hyk⟩ := ih o hc
        exact ⟨y, by rw [List.getLast?_cons_cons, hy], hyk.trans hok⟩
    obtain ⟨y, hy, hyk⟩ := hlast e chain hchain
    simp [Stream.tail, h, List.getLast?_append, hy, hyk]
  rw [Stream.newestPlan, hrev, hsegs]
  exact ⟨hsamples, hk, hfirst⟩

/-! ### A span read from staging at once (R168) -/

/-- Each staged word in error is counted, the counts saturating (R157, R168). -/
theorem countStaging_counts {s : State} (hcount : s.integ.staging.uncorrectable ≤ 255)
    (hmem : s.notices.device.memory ≤ 65535) (addrs : List Nat) :
    (s.countStaging addrs).integ.staging.uncorrectable =
        min 255 (s.integ.staging.uncorrectable + addrs.length) ∧
      (s.countStaging addrs).notices.device.memory = min 65535 (s.notices.device.memory + addrs.length) := by
  induction addrs generalizing s with
  | nil => exact ⟨(Nat.min_eq_right hcount).symm, (Nat.min_eq_right hmem).symm⟩
  | cons a addrs ih =>
    let t := s.countUncorrectable .staging a
    have h1 : t.integ.staging.uncorrectable = min 255 (s.integ.staging.uncorrectable + 1) := rfl
    have h2 : t.notices.device.memory = min 65535 (s.notices.device.memory + 1) := rfl
    obtain ⟨h3, h4⟩ := ih (s := t) (by omega) (by omega)
    rw [h1] at h3
    rw [h2] at h4
    refine ⟨h3.trans ?_, h4.trans ?_⟩ <;> rw [List.length_cons] <;> omega

/-- A span of one part that is all in staging is read at once, and the PREVIEW replies (R23, R24). -/
theorem previewStart_staged {s : State} (h : s.takesAtOnce) {i : StreamId} (tag : Byte) {plan : SpanPlan}
    {blk j n : Nat} (hsegs : plan.segs = [.held blk j n]) (hn : n ≠ 0) (hmem : (s.stream i).inMemory blk j n = 0)
    {r : List Byte × Nat × List Nat} (hr : (s.stream i).writer.stageRead blk (s.stream i).cfg.width
      (s.stream i).cfg.fillValue (j * (s.stream i).cfg.width.bytes) n = r)
    (hcount : s.integ.staging.uncorrectable ≤ 255) (hraise : s.notices.device.memory ≤ 65535) :
    let t := (s.takeFrame []).previewStart i tag plan
    t.preview = none ∧ t.mem = s.mem ∧ t.streams = (s.releaseScan i false).streams ∧
      t.integ.staging.uncorrectable = min 255 (s.integ.staging.uncorrectable + r.2.2.length) ∧
      t.notices.device.memory = min 65535 ((s.releaseScan i false).notices.device.memory + r.2.2.length) ∧
      t.ctl = (s.answered 0x0C#8 tag 0#8 ([BitVec.ofNat 8 i.num, BitVec.ofNat 8 plan.k,
        BitVec.ofNat 8 (s.stream i).cfg.width.code, 0#8] ++ leBytes 6 plan.first ++ zeros 2 ++
        leBytes 2 (r.1.length / (s.stream i).cfg.width.bytes) ++ leBytes 2 r.2.1 ++ zeros 12 ++ r.1)).ctl := by
  intro t
  let p := plan.preview (s.stream i) i tag
  let q := p.withRead [] r.1 r.2.1
  let v := { (s.takeFrame []).previewing p with preview := some q }
  have hx : ((s.takeFrame []).previewing p).stream i = { s.stream i with
      capture := pinBlocks p.pinned (s.stream i).capture } := previewing_stream (s.takeFrame []) p
  have hrun : ((s.takeFrame []).previewing p).previewRun = (v.countStaging r.2.2).previewReply q := by
    have hstaged := previewRun_staged (s := (s.takeFrame []).previewing p) (p := p) rfl hsegs hn
      (by rw [show p.stream = i from rfl, hx]; exact hmem)
    rw [show p.stream = i from rfl, hx] at hstaged
    rw [hstaged, show p.width = (s.stream i).cfg.width from rfl]
    simp only [hr]
    rfl
  obtain ⟨hunc, hdev⟩ := countStaging_counts (s := v) hcount hraise r.2.2
  obtain ⟨g, d, hu⟩ := countStaging_eq v r.2.2
  obtain ⟨h1, h2, h3, h4, h5, h6⟩ := previewReply_at_once (u := v.countStaging r.2.2) (p := p) (q := q) h
    (by rw [hu]) (by rw [hu]; rfl) (by rw [hu]; rfl) rfl rfl
  have ht : t = ((v.countStaging r.2.2).previewReply q).settle := congrArg State.settle hrun
  rw [ht]
  refine ⟨h1, h2, h3, (congrArg _ h4).trans hunc, h5.trans ?_, h6.trans ?_⟩
  · have hle : (v.countStaging r.2.2).notices.device.memory ≤ 65535 := by omega
    rw [raiseMemory_eq hle, releaseScan_eq, raiseMemory_eq hraise, hdev]
    show min 65535 (min 65535 (s.notices.device.memory + r.2.2.length) + (s.stream i).scanMarked false) =
      min 65535 (min 65535 (s.notices.device.memory + (s.stream i).scanMarked false) + r.2.2.length)
    omega
  · rw [fields_eq]
    simp [q, p, Preview.withRead, SpanPlan.preview]

theorem wordOk_not (buf : StageBuf) (v : Nat) :
    (!buf.wordOk v) = (parityOf (slice buf.data (v * 8) 8) != buf.parity.getD v false) := by
  rw [StageBuf.wordOk, Nat.mul_comm]; rfl

/-- The samples a buffer delivers, whole or replaced, are as many bytes as asked for (R168). -/
theorem staged_length {buf : List Byte} {n : Nat} {width : Width} {place : Nat → Nat} {ok : Nat → Bool} {fill : Nat}
    (h : ∀ q < n, place q + width.bytes ≤ buf.length) :
    ((List.range n).flatMap fun q => if ok q then slice buf (place q) width.bytes else fillBytes width fill).length =
      n * width.bytes := by
  rw [List.length_flatMap, List.map_congr_left (g := fun _ => width.bytes) fun q hq => ?_]
  · simp
  · have := h q (List.mem_range.1 hq)
    split <;> simp [slice, fillBytes]
    omega

/-- A staging read of the last `n` of `kept` samples, all in one buffer: what it delivers, and one address for each
word in error (R23, R168). -/
theorem stageRead_tail {w : Writer} (hone : w.awaiting = []) {kept n : Nat} {width : Width} (hkept : n ≤ kept)
    (hoff : w.fillOffset ≤ (kept - n) * width.bytes) (hend : w.fillOffset + w.fillBuf.count = kept * width.bytes)
    (hdata : w.fillBuf.count ≤ w.fillBuf.data.length) (block fill : Nat) :
    let place (q : Nat) : Nat := (kept - n + q) * width.bytes - w.fillOffset
    let bad (q : Nat) : Bool :=
      parityOf (slice w.fillBuf.data (place q / 8 * 8) 8) != w.fillBuf.parity.getD (place q / 8) false
    let lost := (List.range n).filter bad
    let bytes := (List.range n).flatMap fun q =>
      if bad q then leBytes width.bytes fill else slice w.fillBuf.data (place q) width.bytes
    ∃ addrs, w.stageRead block width fill ((kept - n) * width.bytes) n = (bytes, lost.length, addrs) ∧
      addrs.length = (lost.map fun q => place q / 8).dedup.length ∧ bytes.length = n * width.bytes := by
  intro place bad lost bytes
  have htotal : (kept - n) * width.bytes + n * width.bytes = kept * width.bytes := by
    rw [← Nat.add_mul, Nat.sub_add_cancel hkept]
  have hplace (q : Nat) : (kept - n) * width.bytes + q * width.bytes - w.fillOffset = place q := by
    rw [← Nat.add_mul]
  have hbytes : ((List.range n).flatMap fun q => if w.fillBuf.wordOk (place q / 8)
      then slice w.fillBuf.data (place q) width.bytes else fillBytes width fill) = bytes := by
    refine congrArg (List.flatMap · _) (funext fun q => ?_)
    have hbad : (!w.fillBuf.wordOk (place q / 8)) = bad q := wordOk_not ..
    rw [← hbad]
    cases w.fillBuf.wordOk (place q / 8) <;> rfl
  refine ⟨(lost.map fun q => block * blockBytes + w.fillOffset + place q / 8 * 8).dedup,
    (stageRead_one hone hoff (by omega) block fill).trans ?_, ?_, ?_⟩
  · simp only [hplace, hbytes, wordOk_not]
    rfl
  · have hinj : Function.Injective fun v => block * blockBytes + w.fillOffset + v * 8 :=
      fun u v huv => by simpa using huv
    rw [← List.length_map (as := (lost.map fun q => place q / 8).dedup), ← List.dedup_map_of_injective hinj,
      List.map_map]
    rfl
  · rw [← hbytes]
    refine staged_length fun q hq => ?_
    have hq : (q + 1) * width.bytes ≤ n * width.bytes := Nat.mul_le_mul_right _ hq
    have := hplace q
    rw [Nat.succ_mul] at hq
    omega

/-- A PREVIEW that does not apply is refused with the first status that does (R20, R206, R208). -/
theorem previewRefusals {s : State} (h : s.takesAtOnce) {b : Byte} {i : StreamId} (hb : b.toNat = i.num)
    (tag sel : Byte) (maxBytes : BitVec 16) (index : BitVec 48) :
    let x := s.stream i
    let n := min maxBytes.toNat 4064 / x.cfg.width.bytes
    let oldest := match x.capture with | [] => x.writer.index | e :: _ => e.first
    (1 < sel.toNat ∨ n = 0 →
      exec (.preview tag b sel maxBytes index) s = .next (s.answered 0x0C#8 tag 3#8 [])) ∧
    (sel.toNat ≤ 1 → n ≠ 0 →
      (x.phase ≠ .running → x.phase ≠ .closing →
        exec (.preview tag b sel maxBytes index) s = .next (s.answered 0x0C#8 tag 2#8 [])) ∧
      (x.phase = .running ∨ x.phase = .closing →
        (s.preview ≠ none →
          exec (.preview tag b sel maxBytes index) s = .next (s.answered 0x0C#8 tag 1#8 [])) ∧
        (s.preview = none → sel = 1#8 → x.writer.index ≤ index.toNat →
          exec (.preview tag b sel maxBytes index) s = .next (s.answered 0x0C#8 tag 3#8 [])) ∧
        (s.preview = none → sel = 1#8 → index.toNat < x.writer.index → index.toNat < oldest →
          exec (.preview tag b sel maxBytes index) s = .next (s.answered 0x0C#8 tag 9#8
            ([BitVec.ofNat 8 i.num, 0#8, BitVec.ofNat 8 x.cfg.width.code, 0#8] ++
             leBytes 6 oldest ++ zeros 18))))) := by
  intro x n oldest
  rw [exec_preview_of_stream h hb (n := n) rfl]
  refine ⟨fun hrange => ?_, fun hsel hn => ⟨fun hrun hclose => ?_,
    fun hact => ⟨fun hbusy => ?_, fun hfree hfrom hlate => ?_,
    fun hfree hfrom hlt hgone => ?_⟩⟩⟩
  · rcases hrange with hsel | hn
    · simpa [hsel, Status.code] using refuse_of_taken h tag .range
    · simpa [hn, Status.code] using refuse_of_taken h tag .range
  · simpa [Nat.not_lt.2 hsel, hn, show (s.stream i).phase ≠ .running from hrun,
      show (s.stream i).phase ≠ .closing from hclose, Status.code] using refuse_of_taken h tag .state
  · simpa [Nat.not_lt.2 hsel, hn, hact, hbusy, x, Status.code] using refuse_of_taken h tag .busy
  · subst hfrom
    simpa [hn, hact, hfree, hlate, x, Status.code] using refuse_of_taken h tag .range
  · subst hfrom
    have hfields : x.goneFields i = [BitVec.ofNat 8 i.num, 0#8, BitVec.ofNat 8 x.cfg.width.code, 0#8] ++
        leBytes 6 x.oldestHeld ++ zeros 18 := by
      simp [Stream.goneFields, byteField, leBytes, slot8, zeros]
    have hreply := reply_of_taken h (t := s.takeFrame []) rfl kindPreview tag .gone (x.goneFields i)
    rw [hfields] at hreply
    refine congrArg Host.Outcome.next (Eq.trans ?_ hreply)
    rw [← hfields]
    simp [hn, hact, hfree, Nat.not_le.2 hlt, show index.toNat < (s.stream i).oldestHeld from hgone, x]

/-- Settles O16: a PREVIEW is refused, answered at once, or starts its reader on the span its plan fixes. -/
theorem previews : Obligations.Previews := by
  refine ⟨fun tag b sel maxBytes index s h => ⟨fun hb => ?_, fun i hb => ?_⟩,
    fun tag b maxBytes index s i h hb hact hpre n hn hpos => ⟨fun hcap => ?_,
      fun older e hcap hkept hfill hother => ?_⟩,
    fun tag b maxBytes index s i h => ?_, fun tag b sel maxBytes index s i h => ?_,
    fun x n => ⟨fun before e chain hcap hchain hend hkept hn => newestPlan_samples hcap hchain hend hkept hn,
      fun index before e rest hcap => ?_⟩,
    fun tag b maxBytes index s i older e h => ?_⟩
  · rw [exec_preview h, State.previewRequest, streamOf_none hb]
    exact congrArg Host.Outcome.next (refuse_of_taken h tag .range)
  · exact previewRefusals h hb tag sel maxBytes index
  · obtain ⟨h1, h2, h3, h4⟩ := previewStart_empty h (i := i) tag (congrArg SpanPlan.segs (newestPlan_nil hcap n))
    refine ⟨_, exec_preview_newest h hb hact hpre hn hpos tag index, h1, h3.trans ?_, h2, h4.trans ?_⟩
    · exact congrArg State.streams (releaseScan_nil hcap)
    · rw [newestPlan_nil hcap]
  · have hplan := newestPlan_last hcap hkept
    obtain ⟨h1, h2, h3, h4, h5⟩ := previewStart_waits h tag (congrArg SpanPlan.segs hplan) hpos hfill
    refine ⟨_, exec_preview_newest h hb hact hpre hn hpos tag index, ?_, ?_, h3, h4, h5⟩
    · rw [h1, hplan]
      simp [SpanPlan.preview, Seg.blocks, hpos]
    · rw [h2, hplan, hcap, blocks_of_one _ _ hpos, pinBlocks_one (by simpa using hother)]
  · intro x n covers hb hact hpre hpos hlt hold
    refine ⟨?_, fun hcap hnone => ?_⟩
    · intro older e newer hcap hbefore he j hkept hfill hother
      have hold := oldestHeld_le (by simp [hcap]) hold
      have hbefore (g) (hg : g ∈ older) : g.covers index.toNat = false :=
        Bool.eq_false_iff.2 fun hc => hbefore g hg (covers_iff.1 hc)
      have hplan : x.fromPlan index.toNat n = ⟨[.held e.block j n], e.first + j * 2 ^ e.k, e.k⟩ := by
        rw [fromPlan_at hcap hbefore (covers_iff.2 he), Nat.min_eq_left (by omega), Nat.sub_self, forwardSegs_zero]
      obtain ⟨h1, h2, h3, h4, h5⟩ := previewStart_waits h tag (congrArg SpanPlan.segs hplan) hpos hfill
      refine ⟨_, exec_preview_from h hb hact hpre rfl hpos tag hlt hold, ?_, ?_, h3, h4, h5⟩
      · rw [h1, hplan]
        simp [SpanPlan.preview, Seg.blocks, hpos, x]
      · rw [h2, hplan, blocks_of_one _ _ hpos]
        show { x with capture := pinBlocks [e.block] x.capture } = _
        rw [hcap, pinBlocks_one hother]
    · have hold := oldestHeld_le hcap hold
      have hplan := fromPlan_none (x := x) (fun g hg => Bool.eq_false_iff.2 fun hc => hnone g hg (covers_iff.1 hc)) n
      obtain ⟨h1, h2, h3, h4⟩ := previewStart_empty h (i := i) tag (congrArg SpanPlan.segs hplan)
      refine ⟨_, exec_preview_from h hb hact hpre rfl hpos tag hlt hold, h1, h3, h2, h4.trans ?_⟩
      rw [hplan]
  · intro x n hb hact hpre hpos plan hplan blk j m rest hsegs hm hfill pinned
    obtain ⟨h1, h2, h3, h4, h5⟩ := previewStart_waits h tag hsegs hm hfill
    have hpinned : Seg.blocks plan.segs = pinned := blocks_eq_filterMap _
    have hexec : exec (.preview tag b sel maxBytes index) s = .next ((s.takeFrame []).previewStart i tag plan) := by
      rcases hplan with ⟨rfl, rfl⟩ | ⟨rfl, rfl, hlt, hold⟩
      · exact exec_preview_newest h hb hact hpre rfl hpos tag index
      · have hne : x.capture ≠ [] := fun hcap => by
          rw [fromPlan_none (by simp [hcap])] at hsegs
          exact List.cons_ne_nil _ _ hsegs.symm
        exact exec_preview_from h hb hact hpre rfl hpos tag hlt (oldestHeld_le hne hold)
    refine ⟨_, hexec, ?_, ?_, h3, h4, h5⟩
    · rw [h1, SpanPlan.preview, hpinned]
    · rw [h2, hpinned, pinBlocks_eq]
  · intro covers hbefore he j chain
    have hb (d) (hd : d ∈ before) : d.covers index = false :=
      Bool.eq_false_iff.2 fun hc => hbefore d hd (covers_iff.1 hc)
    have he := covers_iff.2 he
    refine ⟨fromPlan_samples hcap hb he n, ?_⟩
    rw [fromPlan_at hcap hb he]
    exact ⟨rfl, rfl⟩
  · intro x w n buf hb hact hpre hpos hcap hkept hfill hone hoff hend hdata hcount hraise
    obtain ⟨addrs, hread, haddrs, hbytes⟩ := stageRead_tail hone hkept hoff hend hdata e.block x.cfg.fillValue
    have hmem : x.inMemory e.block (e.kept - n) n = 0 := by
      have := (Nat.div_le_div_right hoff).trans_eq (Nat.mul_div_cancel _ (width_bytes_pos x.cfg.width))
      rw [Stream.inMemory, if_pos hfill]
      exact (congrArg _ (Nat.sub_eq_zero_of_le this)).trans (Nat.min_zero n)
    have hplan := newestPlan_last hcap hkept
    obtain ⟨h1, h2, h3, h4, h5, h6⟩ := previewStart_staged h tag (congrArg SpanPlan.segs hplan) hpos hmem hread hcount
      hraise
    intro place bad lost errors
    rw [haddrs] at h4 h5
    refine ⟨_, exec_preview_newest h hb hact hpre rfl hpos tag index, h1, h2, h3, h4, h5, h6.trans ?_⟩
    rw [hbytes, Nat.mul_div_cancel _ (width_bytes_pos _), hplan]

end Sys2Proof.Machine
end

section
/-! SUPPORT. Commit messages, the commit timer and the chain of leavings (R14, R140 to R145, R148, R151). -/

namespace Sys2Proof.Machine

/-! ### Placement failures (R151) -/

theorem awaits_iff {a : Nat} {e : CommitEntry} : e.awaits a = true ↔ e.st = .awaitCommit ∧ e.addr = some a := by
  simp [CommitEntry.awaits]

theorem isRecord_iff {i : StreamId} {seq : Nat} {e : CommitEntry} :
    e.isRecord i seq = true ↔ e.stream = i ∧ e.seq = seq := by
  simp [CommitEntry.isRecord]

theorem awaits_eq (a : Nat) : CommitEntry.awaits a = fun f => decide (f.st = .awaitCommit ∧ f.addr = some a) := by
  funext f
  rw [Bool.eq_iff_iff, awaits_iff, decide_eq_true_iff]

theorem isRecord_eq (i : StreamId) (seq : Nat) :
    CommitEntry.isRecord i seq = fun f => decide (f.stream = i ∧ f.seq = seq) := by
  funext f
  rw [Bool.eq_iff_iff, isRecord_iff, decide_eq_true_iff]

/-- The failure of an entry that awaits its commit (R116, R151, R153). -/
theorem failEntry_of_awaiting (s : State) (p : CommitEntry → Bool) {e : CommitEntry} {a : Nat}
    (hst : e.st = .awaitCommit)
    (haddr : e.addr = some a) (cause : FailCause) (code : Option Byte) :
    s.failEntry p e cause code = s.afterFailure p e a cause code := by
  have hs : ¬ e.st = .sending := by rw [hst]; decide
  simp only [State.failEntry, State.afterFailure, hs, if_false, haddr]
  by_cases hp : e.placements < 3
  · rw [if_pos hp, if_pos hp]
    rfl
  · rw [if_neg hp, if_neg hp]
    rfl

/-! ### The entries that leave (R145) -/

/-- The earliest entry of a stream stands first among the stream's entries. -/
theorem filter_of_firstOf {i : StreamId} {l : List CommitEntry} {e : CommitEntry}
    (h : (l.find? fun f => decide (f.stream = i)) = some e) :
    (l.filter fun f => decide (f.stream = i)) =
      e :: (removeFirst (fun f => decide (f.stream = i)) l).filter fun f => decide (f.stream = i) := by
  induction l with
  | nil => exact absurd h (by simp)
  | cons f l ih =>
    by_cases hf : f.stream = i
    · simp_all [removeFirst]
    · simp_all [removeFirst]

theorem leaving_of_none {i : StreamId} {l : List CommitEntry}
    (h : (l.find? fun f => decide (f.stream = i)) = none) : leaving i l = [] ∧ withoutLeaving i l = l := by
  have hnone := List.find?_eq_none.1 h
  constructor
  · rw [leaving, List.filter_eq_nil_iff.2 hnone]
    rfl
  · clear h
    induction l with
    | nil => rfl
    | cons f l ih =>
      obtain ⟨hf, hl⟩ := List.forall_mem_cons.1 hnone
      rw [withoutLeaving, if_neg (by simpa using hf), ih hl]

theorem leaving_of_committed {i : StreamId} {l : List CommitEntry} {e : CommitEntry}
    (h : (l.find? fun f => decide (f.stream = i)) = some e) (hst : e.st = .committed) :
    leaving i l = e :: leaving i (removeFirst (fun f => decide (f.stream = i)) l) ∧
      withoutLeaving i l = withoutLeaving i (removeFirst (fun f => decide (f.stream = i)) l) := by
  constructor
  · rw [leaving, filter_of_firstOf h, List.takeWhile_cons, if_pos (by simp [hst])]
    rfl
  · induction l with
    | nil => rfl
    | cons f l ih =>
      by_cases hf : f.stream = i
      · have hfe : f = e := by simpa [hf] using h
        subst hfe
        simp [withoutLeaving, removeFirst, hf, hst]
      · have hl := ih (by simpa [hf] using h)
        simp [withoutLeaving, removeFirst, hf, ← hl]

theorem leaving_of_waiting {i : StreamId} {l : List CommitEntry} {e : CommitEntry}
    (h : (l.find? fun f => decide (f.stream = i)) = some e) (hst : e.st ≠ .committed) :
    leaving i l = [] ∧ withoutLeaving i l = l := by
  constructor
  · rw [leaving, filter_of_firstOf h, List.takeWhile_cons, if_neg (by simpa using hst)]
  · induction l with
    | nil => rfl
    | cons f l ih =>
      by_cases hf : f.stream = i
      · have hfe : f = e := by simpa [hf] using h
        subst hfe
        simp [withoutLeaving, hf, hst]
      · rw [withoutLeaving, if_neg hf, ih (by simpa [hf] using h)]

theorem withoutLeaving_of_nil {i : StreamId} {l : List CommitEntry} (h : leaving i l = []) :
    withoutLeaving i l = l := by
  cases hf : l.find? fun f => decide (f.stream = i) with
  | none => exact (leaving_of_none hf).2
  | some e =>
    refine (leaving_of_waiting hf fun hst => ?_).2
    rw [(leaving_of_committed hf hst).1] at h
    exact List.cons_ne_nil _ _ h

theorem stream_of_mem_leaving {i : StreamId} {l : List CommitEntry} {e : CommitEntry} (h : e ∈ leaving i l) :
    e.stream = i := by
  obtain ⟨-, hi⟩ := List.mem_filter.1 ((List.takeWhile_sublist _).mem h)
  exact of_decide_eq_true hi

theorem leaving_length_le (i : StreamId) (l : List CommitEntry) : (leaving i l).length ≤ l.length :=
  (List.takeWhile_sublist _).length_le.trans (List.length_filter_le ..)

/-! ### One leaving (R145 steps 1 to 5) -/

/-- The entries of a list leave one after the other. -/
def State.leaveAll (s : State) (i : StreamId) (gone : List CommitEntry) : State :=
    gone.foldl (fun s e => s.leaveOne i e) s

/-- A stream made IDLE, before its PREVIEW replies and its capture list is emptied (R64, R72). -/
def State.idled (s : State) (i : StreamId) : State := (s.modStream i fun x => { x with phase := .idle }).raise i .run

/-- What a CLOSE that leaves does: a PREVIEW of the stream replies, and every entry is released (R17, R24). -/
theorem streamIdle_cases (s : State) (i : StreamId) :
    ((∀ p, s.preview = some p → p.stream ≠ i) ∧ s.streamIdle i = (s.idled i).releaseScan i true) ∨
    ∃ p, p.stream = i ∧ s.preview = some p ∧ s.streamIdle i = ((s.idled i).previewReply p).releaseScan i true := by
  have heq : s.streamIdle i = ((match (s.idled i).previewOf i with
      | none => s.idled i | some p => (s.idled i).previewReply p) : State).releaseScan i true := rfl
  have hpre : (s.idled i).preview = s.preview := rfl
  rw [heq, State.previewOf, hpre]
  cases hp : s.preview with
  | none => exact .inl ⟨fun p h => absurd h (by simp), rfl⟩
  | some p =>
    by_cases hi : p.stream = i
    · simp only [hi, if_true]
      exact .inr ⟨p, hi, rfl, rfl⟩
    · simp only [hi, if_false]
      exact .inl ⟨fun q h => Option.some.inj h ▸ hi, trivial⟩

/-- A release scan may raise MEMORY and works on the lists of its stream alone (R14, R15). -/
theorem releaseScan_keeps (s : State) (i : StreamId) (all : Bool) :
    (s.releaseScan i all).preview = s.preview ∧
      (∀ j c, (s.releaseScan i all).notices.streamCount j c = s.notices.streamCount j c) ∧
      ((s.releaseScan i all).stream i).commitIndex = (s.stream i).commitIndex ∧
      ((s.releaseScan i all).stream i).phase = (s.stream i).phase := by
  have hraise (k : Nat) (n : Notices) (j : StreamId) (c : StreamCat) :
      (n.raiseMemory k).streamCount j c = n.streamCount j c := by
    induction k generalizing n with
    | zero => rfl
    | succ k ih => exact ih (n.raiseDevice .memory)
  have hi : (s.releaseScan i all).stream i = (s.stream i).scanned all := by
    rw [releaseScan_eq]
    exact Quad.get_set_self ..
  rw [hi, releaseScan_eq]
  exact ⟨rfl, fun j c => hraise _ _ j c, rfl, rfl⟩

/-- The reply of a PREVIEW of stream `i` works on the lists of that stream and on the control link alone (R24). -/
theorem previewReply_keeps (s : State) (p : Preview) :
    (s.previewReply p).link = s.link ∧ (s.previewReply p).place = s.place ∧ (s.previewReply p).mem = s.mem ∧
      (s.previewReply p).preview = none ∧
      (∀ j c, (s.previewReply p).notices.streamCount j c = s.notices.streamCount j c) ∧
      ((s.previewReply p).stream p.stream).commitIndex = (s.stream p.stream).commitIndex ∧
      ((s.previewReply p).stream p.stream).phase = (s.stream p.stream).phase ∧
      ∀ j, j ≠ p.stream → (s.previewReply p).stream j = s.stream j := by
  obtain ⟨-, h1, h2, h3⟩ := releaseScan_keeps (s.unpinned p) p.stream false
  obtain ⟨h4, h5, -, h6, h7, -, -⟩ := releaseScan_frame (s.unpinned p) p.stream false
  have hi : (s.unpinned p).stream p.stream = { s.stream p.stream with
      capture := (s.stream p.stream).capture.map fun e =>
      if e.block ∈ p.pinned then { e with pins := e.pins - 1 } else e } := Quad.get_set_self ..
  rw [hi] at h2 h3
  rw [previewReply_eq]
  exact ⟨h7, h6, h5, rfl, h1, h2, h3, fun j hj => (h4 j hj).trans (Quad.get_set_other _ _ hj)⟩

/-- A stream that becomes IDLE touches its own stream, its PREVIEW and the notices (R17, R24, R64, R72). -/
theorem streamIdle_keeps (s : State) (i : StreamId) :
    (s.streamIdle i).link = s.link ∧ (s.streamIdle i).place = s.place ∧ (s.streamIdle i).mem = s.mem ∧
      (∀ p, (s.streamIdle i).preview = some p → p.stream ≠ i) ∧
      (s.streamIdle i).notices.streamCount i .run = min 65535 (s.notices.streamCount i .run + 1) ∧
      ((s.streamIdle i).stream i).commitIndex = (s.stream i).commitIndex ∧
      ((s.streamIdle i).stream i).phase = .idle ∧ ∀ j, j ≠ i → (s.streamIdle i).stream j = s.stream j := by
  have hi : (s.idled i).stream i = { s.stream i with phase := .idle } := Quad.get_set_self ..
  have hother (j) (hj : j ≠ i) : (s.idled i).stream j = s.stream j := Quad.get_set_other _ _ hj
  have hrun : (s.idled i).notices.streamCount i .run = min 65535 (s.notices.streamCount i .run + 1) :=
    (Notices.raiseStream_streamCount ..).trans (if_pos ⟨rfl, rfl⟩)
  obtain ⟨hno, heq⟩ | ⟨p, rfl, -, heq⟩ := streamIdle_cases s i
  · obtain ⟨h1, h2, h3, h4⟩ := releaseScan_keeps (s.idled i) i true
    obtain ⟨h5, h6, -, h7, h8, -, -⟩ := releaseScan_frame (s.idled i) i true
    rw [hi] at h3 h4
    rw [heq]
    exact ⟨h8, h7, h6, fun p hp => hno p (h1.symm.trans hp), (h2 ..).trans hrun, h3, h4,
      fun j hj => (h5 j hj).trans (hother j hj)⟩
  · obtain ⟨h1, h2, h3, h4⟩ := releaseScan_keeps ((s.idled p.stream).previewReply p) p.stream true
    obtain ⟨h5, h6, -, h7, h8, -, -⟩ := releaseScan_frame ((s.idled p.stream).previewReply p) p.stream true
    obtain ⟨g1, g2, g3, g4, g5, g6, g7, g8⟩ := previewReply_keeps (s.idled p.stream) p
    rw [hi] at g6 g7
    rw [heq]
    exact ⟨h8.trans g1, h7.trans g2, h6.trans g3, fun q hq => absurd ((h1.trans g4).symm.trans hq) (by simp),
      ((h2 ..).trans (g5 ..)).trans hrun, h3.trans g6, h4.trans g7,
      fun j hj => ((h5 j hj).trans (g8 j hj)).trans (hother j hj)⟩

/-- An entry taken off the commit list, its record counted and the release scan run: a leaving but for CLOSE (R145
steps 1 to 4). -/
def State.left (s : State) (i : StreamId) (e : CommitEntry) : State :=
  { s with
    place := { s.place with rateCounter := min 1099511627775 (s.place.rateCounter + e.size) },
    link := { s.link with
      commit := removeFirst (fun f => decide (f.stream = i)) s.link.commit, sync := s.link.sync.left i e.seq },
    streams := ((s.setStream i { s.stream i with commitIndex := e.covEnd }).releaseScan i false).streams,
    notices := ((s.setStream i { s.stream i with commitIndex := e.covEnd }).releaseScan i false).notices }

theorem leaveOne_eq (s : State) (i : StreamId) (e : CommitEntry) :
    s.leaveOne i e = if e.body.isClose then (s.left i e).streamIdle i else s.left i e := by
  simp only [State.leaveOne, State.left, releaseScan_eq]
  rfl

theorem leaveOne_keeps (s : State) (i : StreamId) (e : CommitEntry) :
    (s.leaveOne i e).link = { s.link with
      commit := removeFirst (fun f => decide (f.stream = i)) s.link.commit, sync := s.link.sync.left i e.seq } ∧
    (s.leaveOne i e).place = { s.place with rateCounter := min 1099511627775 (s.place.rateCounter + e.size) } ∧
    (s.leaveOne i e).mem = s.mem ∧ ((s.leaveOne i e).stream i).commitIndex = e.covEnd ∧
    ∀ j, j ≠ i → (s.leaveOne i e).stream j = s.stream j := by
  let u := s.setStream i { s.stream i with commitIndex := e.covEnd }
  obtain ⟨-, -, hindex, -⟩ := releaseScan_keeps u i false
  obtain ⟨hother, -, -, -, -, -, -⟩ := releaseScan_frame u i false
  have hleft : ((s.left i e).stream i).commitIndex = e.covEnd := by
    refine hindex.trans ?_
    rw [State.setStream_stream_self]
  have hothers (j) (hj : j ≠ i) : (s.left i e).stream j = s.stream j :=
    (hother j hj).trans (State.setStream_stream_other _ _ hj)
  rw [leaveOne_eq]
  split
  · obtain ⟨h1, h2, h3, -, -, h4, -, h5⟩ := streamIdle_keeps (s.left i e) i
    exact ⟨h1, h2, h3, h4.trans hleft, fun j hj => (h5 j hj).trans (hothers j hj)⟩
  · exact ⟨rfl, rfl, rfl, hleft, hothers⟩

/-- The chain of leavings is the leaving of the COMMITTED entries that stand first of their stream (R145 step 6). -/
theorem leaveChain_eq {i : StreamId} {fuel : Nat} {s : State} (h : (leaving i s.link.commit).length ≤ fuel) :
    s.leaveChain i fuel = s.leaveAll i (leaving i s.link.commit) ∧
      (s.leaveChain i fuel).link.commit = withoutLeaving i s.link.commit := by
  induction fuel generalizing s with
  | zero =>
    have hnil := List.length_eq_zero_iff.1 (Nat.le_zero.1 h)
    rw [hnil, withoutLeaving_of_nil hnil]
    exact ⟨rfl, rfl⟩
  | succ fuel ih =>
    rw [State.leaveChain]
    cases hf : s.link.firstOf i with
    | none =>
      obtain ⟨h1, h2⟩ := leaving_of_none hf
      rw [h1, h2]
      exact ⟨rfl, rfl⟩
    | some e =>
      by_cases hst : e.st = .committed
      · obtain ⟨h1, h2⟩ := leaving_of_committed hf hst
        have hcommit : (s.leaveOne i e).link.commit = removeFirst (fun f => decide (f.stream = i)) s.link.commit := by
          rw [(leaveOne_keeps s i e).1]
        rw [h1, List.length_cons, ← hcommit] at h
        obtain ⟨h3, h4⟩ := ih (Nat.le_of_succ_le_succ h)
        rw [h1, h2, ← hcommit, ← h4]
        simp only [hst, if_true]
        exact ⟨h3, trivial⟩
      · obtain ⟨h1, h2⟩ := leaving_of_waiting hf hst
        rw [h1, h2]
        simp only [hst, if_false]
        exact ⟨rfl, trivial⟩

/-! ### All the leavings (R145 step 6) -/

/-- The leavings of a list, but for what a CLOSE does. -/
def State.leftAll (s : State) (i : StreamId) (gone : List CommitEntry) : State := gone.foldl (fun s e => s.left i e) s

theorem leaveAll_of_quiet {i : StreamId} {gone : List CommitEntry} (h : ∀ f ∈ gone, f.body.isClose = false)
    (s : State) :
    s.leaveAll i gone = s.leftAll i gone := by
  induction gone generalizing s with
  | nil => rfl
  | cons e gone ih =>
    obtain ⟨he, hgone⟩ := List.forall_mem_cons.1 h
    have hone : s.leaveOne i e = s.left i e := by rw [leaveOne_eq, he]; rfl
    exact (congrArg (fun u : State => u.leaveAll i gone) hone).trans (ih hgone (s.left i e))

theorem leaveAll_of_close {i : StreamId} {init : List CommitEntry} {last : CommitEntry}
    (h : ∀ f ∈ init, f.body.isClose = false) (hlast : last.body.isClose = true) (s : State) :
    s.leaveAll i (init ++ [last]) = (s.leftAll i (init ++ [last])).streamIdle i := by
  have hinit := leaveAll_of_quiet (i := i) h s
  rw [State.leaveAll] at hinit
  rw [State.leaveAll, State.leftAll, List.foldl_append, List.foldl_append, hinit]
  exact (leaveOne_eq ..).trans (if_pos hlast)

theorem releaseScan_congr {s u : State} (hs : u.streams = s.streams) (hn : u.notices = s.notices) (i : StreamId)
    (all : Bool) : (u.releaseScan i all).streams = (s.releaseScan i all).streams ∧
      (u.releaseScan i all).notices = (s.releaseScan i all).notices := by
  have hx : u.stream i = s.stream i := congrArg (·.get i) hs
  rw [releaseScan_eq, releaseScan_eq, hx, hs, hn]
  exact ⟨rfl, rfl⟩

/-- Without a PREVIEW of the stream, becoming IDLE is the change of phase and the release of every entry (R17, R64). -/
theorem streamIdle_streams {s u : State} (hs : u.streams = s.streams) {i : StreamId}
    (hno : ∀ p, u.preview = some p → p.stream ≠ i) : (u.streamIdle i).streams =
      ((s.setStream i { s.stream i with phase := .idle }).releaseScan i true).streams := by
  have hx : u.stream i = s.stream i := congrArg (·.get i) hs
  obtain ⟨-, heq⟩ | ⟨p, hi, hp, -⟩ := streamIdle_cases u i
  · have hidle : (u.idled i).streams = (s.setStream i { s.stream i with phase := .idle }).streams := by
      rw [State.setStream_streams, ← hx, ← hs]
      rfl
    have hy : (u.idled i).stream i = (s.setStream i { s.stream i with phase := .idle }).stream i :=
      congrArg (·.get i) hidle
    rw [heq, releaseScan_eq, releaseScan_eq, hy, hidle]
  · exact absurd hi (hno p hp)

theorem left_congr {s u : State} (hs : u.streams = s.streams) (hn : u.notices = s.notices) (i : StreamId)
    (e : CommitEntry) :
    (u.left i e).streams = ((s.setStream i { s.stream i with commitIndex := e.covEnd }).releaseScan i false).streams ∧
    (u.left i e).notices =
      ((s.setStream i { s.stream i with commitIndex := e.covEnd }).releaseScan i false).notices := by
  have hx : u.stream i = s.stream i := congrArg (·.get i) hs
  exact releaseScan_congr (s := s.setStream i { s.stream i with commitIndex := e.covEnd })
    (u := u.setStream i { u.stream i with commitIndex := e.covEnd })
    (by rw [State.setStream_streams, State.setStream_streams, hx, hs]) hn i false

/-- The streams and the notices after the leavings are those of the release scans (R14, R145). -/
theorem leftAll_scans {s u : State} (hs : u.streams = s.streams) (hn : u.notices = s.notices) (i : StreamId)
    (gone : List CommitEntry) : (u.leftAll i gone).streams = (s.scansOf i gone).streams ∧
      (u.leftAll i gone).notices = (s.scansOf i gone).notices ∧ (u.leftAll i gone).preview = u.preview := by
  induction gone generalizing s u with
  | nil => exact ⟨hs, hn, rfl⟩
  | cons e gone ih =>
    obtain ⟨h1, h2⟩ := left_congr hs hn i e
    exact ih h1 h2

theorem scansOf_streamCount (s : State) (i : StreamId) (gone : List CommitEntry) (j : StreamId) (c : StreamCat) :
    (s.scansOf i gone).notices.streamCount j c = s.notices.streamCount j c := by
  induction gone generalizing s with
  | nil => rfl
  | cons e gone ih =>
    obtain ⟨-, h, -, -⟩ := releaseScan_keeps (s.setStream i { s.stream i with commitIndex := e.covEnd }) i false
    exact (ih _).trans (h j c)

/-- What the leavings do to the link, the rate counter, the commit index and the other streams (R118, R145, R148). -/
theorem leaveAll_keeps (s : State) {i : StreamId} {gone : List CommitEntry} (hgone : ∀ f ∈ gone, f.stream = i) :
    (s.leaveAll i gone).link = { s.link with
      commit := (s.leaveAll i gone).link.commit
      sync := { s.link.sync with noted := s.link.sync.noted.filter fun p =>
        !(gone.any fun f => decide (f.stream = p.1 ∧ f.seq = p.2)) } } ∧
    (gone = [] → (s.leaveAll i gone).place = s.place) ∧
    (gone ≠ [] → (s.leaveAll i gone).place.rateCounter =
      min 1099511627775 (s.place.rateCounter + (gone.map (·.size)).sum)) ∧
    (s.leaveAll i gone).mem = s.mem ∧
    ((s.leaveAll i gone).stream i).commitIndex =
      (match gone.getLast? with | none => (s.stream i).commitIndex | some f => f.covEnd) ∧
    ∀ j, j ≠ i → (s.leaveAll i gone).stream j = s.stream j := by
  induction gone generalizing s with
  | nil =>
    refine ⟨?_, fun _ => rfl, fun h => absurd rfl h, rfl, rfl, fun _ _ => rfl⟩
    have hnoted : (s.link.sync.noted.filter fun p => !(([] : List CommitEntry).any fun f =>
        decide (f.stream = p.1 ∧ f.seq = p.2))) = s.link.sync.noted := List.filter_eq_self.2 fun _ _ => rfl
    rw [hnoted]
    rfl
  | cons e gone ih =>
    obtain ⟨h1, h2, h3, h4, h5⟩ := leaveOne_keeps s i e
    obtain ⟨he, hgone⟩ := List.forall_mem_cons.1 hgone
    obtain ⟨g1, g2, g3, g4, g5, g6⟩ := ih (s.leaveOne i e) hgone
    rw [show s.leaveAll i (e :: gone) = (s.leaveOne i e).leaveAll i gone from rfl]
    refine ⟨?_, fun h => absurd h (List.cons_ne_nil e gone), fun _ => ?_, g4.trans h3, g5.trans ?_,
      fun j hj => (g6 j hj).trans (h5 j hj)⟩
    · have hnoted : ((s.link.sync.left i e.seq).noted.filter fun p =>
          !(gone.any fun f => decide (f.stream = p.1 ∧ f.seq = p.2))) =
          s.link.sync.noted.filter fun p => !((e :: gone).any fun f => decide (f.stream = p.1 ∧ f.seq = p.2)) := by
        rw [SyncCtx.left, List.filter_filter]
        refine List.filter_congr fun p _ => ?_
        simp [he, eq_comm, Bool.and_comm]
      rw [g1, h1, ← hnoted]
      rfl
    · have hone : (s.leaveOne i e).place.rateCounter = min 1099511627775 (s.place.rateCounter + e.size) := by rw [h2]
      cases gone with
      | nil => exact hone.trans (by simp)
      | cons f gone =>
        rw [g3 (List.cons_ne_nil f gone), hone]
        simp only [List.map_cons, List.sum_cons]
        omega
    · cases gone with
      | nil => exact h4
      | cons f gone =>
        have hlast : (f :: gone).getLast? = some ((f :: gone).getLast (List.cons_ne_nil f gone)) :=
          List.getLast?_eq_some_getLast _
        rw [List.getLast?_cons_cons, hlast]

theorem selectSending_commit (l : Link) (c : List CommitEntry) (y : SyncCtx) :
    (Link.selectSending { l with commit := c, sync := y }).commit =
      (Link.selectSending { l with commit := c }).commit := by
  unfold Link.selectSending
  have h1 : Link.isUp { l with commit := c, sync := y } = Link.isUp { l with commit := c } := rfl
  have h2 : Link.sending { l with commit := c, sync := y } = Link.sending { l with commit := c } := rfl
  rw [h1, h2]
  split <;> rfl

@[simp] theorem settle_sync (s : State) : s.settle.link.sync = s.link.sync := by
  have hsel : s.link.selectSending.sync = s.link.sync := by
    unfold Link.selectSending
    split <;> rfl
  rw [State.settle, portGrant_link]
  obtain h | ⟨e, -, -, -, h | h⟩ := startBuild_cases (s.modLink Link.selectSending) <;> rw [h]
  · exact hsel
  · obtain ⟨r', h | h⟩ := finishBuild_eq (s.modLink Link.selectSending) e e.freshReplay <;> rw [h] <;> exact hsel
  · exact hsel

/-! ### The statement -/

/-- A state with another commit list. -/
def State.withCommit (s : State) (list : List CommitEntry) : State := { s with link := { s.link with commit := list } }

theorem isUp_iff {l : Link} : l.isUp = true ↔ l.state = .up := by simp [Link.isUp]

section Message

variable {s : State} {a : Nat} (hup : s.link.state = .up)

/-- A message that no entry awaits is counted stale (R143). -/
theorem awaiting_none {l : Link} (h : ∀ e ∈ l.commit, ¬ (e.st = .awaitCommit ∧ e.addr = some a)) :
    l.awaiting a = none :=
  List.find?_eq_none.2 fun e he hw => h e he (awaits_iff.1 hw)

include hup

/-- COMMITTED marks its entry, and the leaving check runs for its stream (R140, R145). -/
theorem committed_at {before after : List CommitEntry} {e : CommitEntry} (hl : s.link.commit = before ++ e :: after)
    (he : e.st = .awaitCommit ∧ e.addr = some a) (hb : ∀ f ∈ before, ¬ (f.st = .awaitCommit ∧ f.addr = some a)) :
    s.committed a =
      ((s.withCommit (before ++ { e with st := .committed, timer := none } :: after)).leave e.stream).settle := by
  have he := awaits_iff.2 he
  have hb (f) (hf : f ∈ before) : f.awaits a = false := Bool.eq_false_iff.2 fun h => hb f hf (awaits_iff.1 h)
  have hmark : modifyFirst (CommitEntry.awaits a) (fun f => { f with st := .committed, timer := none }) s.link.commit =
      before ++ { e with st := .committed, timer := none } :: after := by rw [hl, modifyFirst_at he hb]
  have hfind : s.link.awaiting a = some e := by rw [Link.awaiting, hl, find?_at he hb]
  rw [State.committed, if_pos (isUp_iff.2 hup), hfind, ← hmark]
  rfl

theorem refused_at {before after : List CommitEntry} {e : CommitEntry} (hl : s.link.commit = before ++ e :: after)
    (he : e.st = .awaitCommit ∧ e.addr = some a) (hb : ∀ f ∈ before, ¬ (f.st = .awaitCommit ∧ f.addr = some a))
    (code : Byte) : s.refusedMessage a code =
      s.afterFailure (fun f => decide (f.st = .awaitCommit ∧ f.addr = some a)) e a .refused (some code) := by
  obtain ⟨hst, haddr⟩ := he
  have hfind : s.link.awaiting a = some e := by
    rw [Link.awaiting, hl, find?_at (awaits_iff.2 ⟨hst, haddr⟩) fun f hf => Bool.eq_false_iff.2 fun h =>
      hb f hf (awaits_iff.1 h)]
  rw [State.refusedMessage, if_pos (isUp_iff.2 hup), hfind, ← awaits_eq]
  exact failEntry_of_awaiting s _ hst haddr _ _

end Message

/-- The leavings, then the check of the SYNC context (R145, R148). -/
theorem leave_eq (s : State) (i : StreamId) : s.leave i =
    (s.leaveAll i (leaving i s.link.commit)).modLink fun l => { l with sync := l.sync.check } := by
  rw [State.leave, (leaveChain_eq (leaving_length_le i s.link.commit)).1]

theorem leaveAll_commit (s : State) (i : StreamId) :
    (s.leaveAll i (leaving i s.link.commit)).link.commit = withoutLeaving i s.link.commit := by
  obtain ⟨h1, h2⟩ := leaveChain_eq (leaving_length_le i s.link.commit)
  rw [← h1, h2]

/-- A COMMITTED entry behind another of its stream that is not waits for it (R145). -/
theorem leave_of_behind {s : State} {i : StreamId} {before after : List CommitEntry} {f : CommitEntry}
    (hl : s.link.commit = before ++ after) (hf : f ∈ before) (hfi : f.stream = i)
    (hwait : ∀ g ∈ before, g.stream = i → g.st ≠ .committed) (hsync : s.link.sync.phase ≠ .waitLeave) :
    s.leave i = s := by
  have hsome : (before.find? fun g => decide (g.stream = i)).isSome = true :=
    List.find?_isSome.2 ⟨f, hf, decide_eq_true hfi⟩
  obtain ⟨g, hg⟩ := Option.isSome_iff_exists.1 hsome
  have hfirst : (s.link.commit.find? fun g => decide (g.stream = i)) = some g := by
    rw [hl, List.find?_append, hg, Option.some_or]
  have hgwait : g.st ≠ .committed :=
    hwait g (List.mem_of_find?_eq_some hg) (of_decide_eq_true (List.find?_some hg :))
  have hcheck : s.link.sync.check = s.link.sync := if_neg fun h => hsync h.1
  rw [leave_eq, (leaving_of_waiting hfirst hgwait).1]
  show s.modLink (fun l => { l with sync := l.sync.check }) = s
  rw [State.modLink, hcheck]

/-- The entry a commit timer names (R142). -/
theorem record_at {l before after : List CommitEntry} {e : CommitEntry} {i : StreamId} {seq : Nat}
    (hl : l = before ++ e :: after) (he : e.stream = i ∧ e.seq = seq)
    (hb : ∀ f ∈ before, ¬ (f.stream = i ∧ f.seq = seq)) : l.find? (CommitEntry.isRecord i seq) = some e := by
  rw [hl, find?_at (isRecord_iff.2 he) fun f hf => Bool.eq_false_iff.2 fun h => hb f hf (isRecord_iff.1 h)]

/-- What a leaving check leaves of the link: the entries gone, and the SYNC that waits for none of the rest goes on
(R145, R148). -/
theorem leave_link (s : State) (i : StreamId) :
    let gone := leaving i s.link.commit
    let noted := s.link.sync.noted.filter fun p => !(gone.any fun f => decide (f.stream = p.1 ∧ f.seq = p.2))
    (s.leave i).link = { s.link with
      commit := withoutLeaving i s.link.commit
      sync := { s.link.sync with
        noted := noted
        phase := if s.link.sync.phase = .waitLeave ∧ noted = [] then .queryDue else s.link.sync.phase } } := by
  intro gone noted
  obtain ⟨hlink, -, -, -, -, -⟩ := leaveAll_keeps s (fun f hf => stream_of_mem_leaving (l := s.link.commit) hf)
  have hcommit := leaveAll_commit s i
  rw [hcommit] at hlink
  rw [leave_eq]
  show ({ (s.leaveAll i gone).link with sync := (s.leaveAll i gone).link.sync.check } : Link) = _
  rw [hlink, SyncCtx.check]
  by_cases hgo : s.link.sync.phase = .waitLeave ∧ noted = []
  · rw [if_pos hgo, if_pos hgo]
  · rw [if_neg hgo, if_neg hgo]

/-- Settles O51: the entry a message names, the leavings it starts, and what they move. -/
theorem commitMessagesAndTimeouts : Obligations.CommitMessagesAndTimeouts := by
  refine ⟨fun address code s => ⟨fun hdown => ?_, fun hup => ⟨fun hnone => ?_,
    fun before e after hl he hb => ⟨?_, fun f hf hfi hwait hsync => ?_, ?_⟩⟩⟩, fun i seq s => ⟨fun hnone => ?_,
    fun before e after hl he hb => ⟨fun hst => ?_, fun a hst htimer haddr => ?_⟩⟩⟩
  · have hdown : ¬ s.link.isUp = true := fun h => hdown (isUp_iff.1 h)
    exact ⟨congrArg Host.Outcome.next (if_neg hdown), congrArg Host.Outcome.next (if_neg hdown)⟩
  · have hwait := awaiting_none (l := s.link) hnone
    refine ⟨congrArg Host.Outcome.next ?_, congrArg Host.Outcome.next ?_⟩
    · rw [State.committed, if_pos (isUp_iff.2 hup), hwait]
      rfl
    · rw [State.refusedMessage, if_pos (isUp_iff.2 hup), hwait]
      rfl
  · exact congrArg Host.Outcome.next (refused_at hup hl he hb code)
  · refine congrArg Host.Outcome.next ((committed_at hup hl he hb).trans (congrArg State.settle ?_))
    exact leave_of_behind (s := s.withCommit _) rfl hf hfi hwait hsync
  · intro i list gone noted
    let u := s.withCommit list
    let v := u.leaveAll i gone
    have hlink : (u.leave i).link = { s.link with
        commit := withoutLeaving i list
        sync := { s.link.sync with
          noted := noted
          phase := if s.link.sync.phase = .waitLeave ∧ noted = [] then .queryDue else s.link.sync.phase } } :=
      leave_link u i
    obtain ⟨-, h2, h3, h4, h5, h6⟩ := leaveAll_keeps u (fun f hf => stream_of_mem_leaving (l := list) hf)
    have hleave : u.leave i = v.modLink fun l => { l with sync := l.sync.check } := leave_eq u i
    refine ⟨_, congrArg Host.Outcome.next (committed_at hup hl he hb), ?_, ?_, ?_, fun hne => ?_, fun hnil => ?_,
      fun j hj => ?_, ?_, fun hquiet => ?_, fun init last hgone hinit hlast => ?_⟩
    · rw [settle_commit, hlink, selectSending_commit]
    · rw [settle_sync, hlink]
    · rw [settle_stream, hleave]
      exact h5
    · rw [settle_place, hleave]
      exact h3 hne
    · rw [settle_place, hleave]
      exact h2 hnil
    · rw [settle_stream, hleave]
      exact h6 j hj
    · rw [settle_mem, hleave]
      exact h4
    · obtain ⟨g1, g2, g3⟩ := leftAll_scans (u := u) (s := s) rfl rfl i gone
      rw [← leaveAll_of_quiet hquiet u] at g1 g2 g3
      rw [settle_streams, settle_preview, settle_memory, hleave]
      exact ⟨g1, g3, congrArg (fun n : Notices => n.device.memory) g2⟩
    · obtain ⟨g1, g2, g3⟩ := leftAll_scans (u := u) (s := s) rfl rfl i gone
      have hv : v = (u.leftAll i gone).streamIdle i := by
        simp only [v, hgone]
        exact leaveAll_of_close hinit hlast u
      obtain ⟨-, -, -, k1, k2, -, k3, -⟩ := streamIdle_keeps (u.leftAll i gone) i
      rw [← hv] at k1 k2 k3
      rw [settle_stream, settle_streamCount, settle_preview, settle_streams, hleave]
      refine ⟨k3, k2.trans ?_, k1, fun hno => ?_⟩
      · rw [g2, scansOf_streamCount]
      · show v.streams = _
        rw [hv]
        exact streamIdle_streams g1 fun p hp => hno p (g3.symm.trans hp)
  · have hfind : s.link.commit.find? (CommitEntry.isRecord i seq) = none :=
      List.find?_eq_none.2 fun e he h => hnone e he (isRecord_iff.1 h)
    show Host.Outcome.next (s.commitTimeout i seq) = _
    rw [State.commitTimeout, hfind]
  · have hfind := record_at hl he hb
    show Host.Outcome.next (s.commitTimeout i seq) = _
    rw [State.commitTimeout, hfind]
    refine congrArg Host.Outcome.next (if_neg fun h => ?_)
    obtain ⟨hwait, htimer⟩ := h
    rcases hst with hst | hst
    · exact hst hwait
    · rw [hst] at htimer
      exact Bool.false_ne_true htimer
  · have hfind := record_at hl he hb
    show Host.Outcome.next (s.commitTimeout i seq) = _
    rw [State.commitTimeout, hfind, ← isRecord_eq, ← failEntry_of_awaiting s _ hst haddr]
    exact congrArg Host.Outcome.next (if_pos ⟨hst, Option.isSome_iff_ne_none.2 htimer⟩)

end Sys2Proof.Machine
end

section
/-! SUPPORT. The bounds of counts and lists, the range of k, the power-fail condition and the canonical form of capture
memory: every operation keeps each of them (R27, R39, R55, R78, R79, R108, R162, R164, R179, R193, R196). -/

namespace Sys2Proof.Machine

/-! ### What keeps the laws -/

/-- The part of `DecimationLaw` that speaks of one stream (R39). -/
def Stream.kInRange (x : Stream) : Prop :=
  (x.cfg.kmin ≤ x.cfg.kmax ∧ x.cfg.kmax ≤ 7) ∧
    (x.active = true → x.cfg.kmin ≤ x.writer.k ∧ x.writer.k ≤ x.cfg.kmax)

theorem decimationLaw_iff {s : State} : DecimationLaw s ↔ ∀ i, (s.stream i).kInRange :=
  ⟨fun h i => ⟨h.range i, h.held i⟩, fun h => ⟨fun i => (h i).1, fun i => (h i).2⟩⟩

/-- Stream `y` meets the bounds of a stream if `x` does, and holds its k within its range if `x` does (R27, R39,
R55). -/
structure Stream.KeepsLaws (x y : Stream) : Prop where
  bounds : StreamBounds x → StreamBounds y
  decimation : x.kInRange → y.kInRange

namespace Stream.KeepsLaws

variable {x y z : Stream}

theorem refl (x : Stream) : x.KeepsLaws x := ⟨id, id⟩

theorem trans (h : x.KeepsLaws y) (g : y.KeepsLaws z) : x.KeepsLaws z :=
  ⟨g.bounds ∘ h.bounds, g.decimation ∘ h.decimation⟩

/-- A change of the lists and contexts that no bound names. -/
theorem of_rest (hhold : y.hold = x.hold := by rfl) (hover : y.overrun = x.overrun := by rfl)
    (hmarkers : y.markers = x.markers := by rfl) (hlost : y.lost = x.lost := by rfl)
    (hdiscarded : y.cutter.discarded = x.cutter.discarded := by rfl) (hcfg : y.cfg = x.cfg := by rfl)
    (hphase : y.phase = x.phase := by rfl) (hk : y.writer.k = x.writer.k := by rfl) : x.KeepsLaws y := by
  refine ⟨fun ⟨h1, h2, h3, h4, h5⟩ => ⟨?_, ?_, ?_, ?_, ?_⟩, fun h => ?_⟩
  · rwa [hhold]
  · rwa [hover]
  · rwa [hmarkers]
  · rwa [hlost]
  · rwa [hdiscarded]
  · simpa only [Stream.kInRange, Stream.active, hcfg, hphase, hk] using h

end Stream.KeepsLaws

/-- Every entry of a commit list holds at most 8 damage spans (R162). -/
def spansBounded (list : List CommitEntry) : Prop := ∀ e ∈ list, e.xfer.spans.length ≤ 8

/-- Counts of the notice unit within 16 bits (R193). -/
def Notices.bounded (n : Notices) : Prop :=
  (∀ i, (n.streams.get i).bounded) ∧ ∀ c, n.device.get c ≤ 65535

/-- State `t` meets the bounds if `s` does, and likewise the range of k, the power-fail condition and the canonical
form of capture memory. -/
structure State.KeepsLaws (s t : State) : Prop where
  bounds : BoundsLaw s → BoundsLaw t
  decimation : DecimationLaw s → DecimationLaw t
  power : PowerLaw s → PowerLaw t
  mem : s.mem.wf = true → t.mem.wf = true

namespace State.KeepsLaws

variable {s t u : State}

theorem refl (s : State) : s.KeepsLaws s := ⟨id, id, id, id⟩

theorem trans (h : s.KeepsLaws t) (g : t.KeepsLaws u) : s.KeepsLaws u :=
  ⟨g.bounds ∘ h.bounds, g.decimation ∘ h.decimation, g.power ∘ h.power, g.mem ∘ h.mem⟩

theorem setStream {i : StreamId} {x : Stream} (h : (s.stream i).KeepsLaws x) : s.KeepsLaws (s.setStream i x) where
  bounds hs := by
    refine { hs with streams := fun j => ?_ }
    rw [State.setStream_stream]
    split
    · exact h.bounds (hs.streams i)
    · exact hs.streams j
  decimation hs := decimationLaw_iff.2 fun j => by
    rw [State.setStream_stream]
    split
    · exact h.decimation (decimationLaw_iff.1 hs i)
    · exact decimationLaw_iff.1 hs j
  power hs := { hs with }
  mem := id

theorem modStream {i : StreamId} {f : Stream → Stream} (h : (s.stream i).KeepsLaws (f (s.stream i))) :
    s.KeepsLaws (s.modStream i f) := setStream h

/-- A change of a writer context that leaves its k as it is. -/
theorem modWriter {i : StreamId} {f : Writer → Writer} (h : ∀ w, (f w).k = w.k := by intro w; rfl) :
    s.KeepsLaws (s.modWriter i f) := modStream (.of_rest (hk := h _))

/-- A change of the link controller that keeps its counts and the spans of its entries within their bounds. -/
theorem modLink {f : Link → Link} (hcounts : s.link.faultCount ≤ 65535 ∧ s.link.stale ≤ 65535 →
      (f s.link).faultCount ≤ 65535 ∧ (f s.link).stale ≤ 65535)
    (hspans : spansBounded s.link.commit → spansBounded (f s.link).commit) : s.KeepsLaws (s.modLink f) :=
  ⟨fun h => { h with link := hcounts h.link, spans := hspans h.spans }, fun h => { h with }, fun h => { h with }, id⟩

/-- A change of the control link that leaves its counts as they are. -/
theorem modCtl {f : Control → Control} (h : s.ctl.crcErrors ≤ 65535 ∧ s.ctl.framingErrors ≤ 65535 ∧
      s.ctl.shortDrops ≤ 65535 ∧ s.ctl.longDrops ≤ 65535 → (f s.ctl).crcErrors ≤ 65535 ∧
      (f s.ctl).framingErrors ≤ 65535 ∧ (f s.ctl).shortDrops ≤ 65535 ∧ (f s.ctl).longDrops ≤ 65535) :
    s.KeepsLaws (s.modCtl f) :=
  ⟨fun hs => { hs with control := h hs.control }, fun hs => { hs with }, fun hs => { hs with }, id⟩

theorem modMon {m : MemId} {f : MemMon → MemMon} (h : MonBounds (s.integ.get m) → MonBounds (f (s.integ.get m))) :
    s.KeepsLaws (s.modMon m f) where
  bounds hs := by
    refine { hs with memories := fun n => ?_ }
    by_cases hn : n = m
    · subst hn
      simpa [State.modMon] using h (hs.memories n)
    · simpa [State.modMon, Integrity.get_set_other _ _ hn] using hs.memories n
  decimation hs := { hs with }
  power hs := { hs with }
  mem := id

/-- A change of the notices that keeps their counts bounded and POWER enabled. -/
theorem notices {n : Notices} (h : s.notices.bounded → n.bounded)
    (hmask : s.notices.mask.getLsbD 10 = true → n.mask.getLsbD 10 = true) :
    s.KeepsLaws { s with notices := n } :=
  ⟨fun hs => { hs with notices := h hs.notices }, fun hs => { hs with }, fun hs => { hs with mask := hmask hs.mask },
    id⟩

/-- A raise saturates (R193, R194). -/
theorem raise (s : State) (i : StreamId) (c : StreamCat) : s.KeepsLaws (s.raise i c) := by
  refine notices (fun ⟨hn, hd⟩ => ⟨fun j d => ?_, hd⟩) id
  have hcount := Notices.raiseStream_streamCount s.notices i j c d
  rw [Notices.streamCount] at hcount
  rw [hcount]
  split
  · exact Nat.min_le_left ..
  · exact hn j d

theorem raiseDev (s : State) (c : DeviceCat) : s.KeepsLaws (s.raiseDev c) := by
  refine notices (fun ⟨hn, hd⟩ => ⟨hn, fun d => ?_⟩) id
  rw [Notices.raiseDevice_get]
  split
  · exact Nat.min_le_left ..
  · exact hd d

theorem writeMem {m : Memory} (h : s.mem.wf = true → m.wf = true) : s.KeepsLaws { s with mem := m } :=
  ⟨fun hs => { hs with }, fun hs => { hs with }, fun hs => { hs with }, h⟩

theorem setPort (s : State) (p : Port) : s.KeepsLaws { s with port := p } :=
  ⟨fun hs => { hs with }, fun hs => { hs with }, fun hs => { hs with }, id⟩

theorem setPreview (s : State) (p : Option Preview) : s.KeepsLaws { s with preview := p } :=
  ⟨fun hs => { hs with }, fun hs => { hs with }, fun hs => { hs with }, id⟩

theorem reply (s : State) (kind tag : Byte) (st : Status) (fields : List Byte) :
    s.KeepsLaws (s.reply kind tag st fields) := modCtl id

theorem refuse (s : State) (kind tag : Byte) (st : Status) : s.KeepsLaws (s.refuse kind tag st) := reply ..

/-- Changes made one after another keep the laws if each one does. -/
theorem foldl {α : Type} {f : State → α → State} (h : ∀ (s : State) (a : α), s.KeepsLaws (f s a)) (l : List α)
    (s : State) :
    s.KeepsLaws (l.foldl f s) := by
  induction l generalizing s with
  | nil => exact refl s
  | cons a l ih => exact (h s a).trans (ih _)

end State.KeepsLaws

/-! ### The integrity monitor, capture memory and the block manager (chapters 1 and 8) -/

theorem countCorrected_keepsLaws (s : State) (m : MemId) (a : Nat) : s.KeepsLaws (s.countCorrected m a) :=
  .modMon fun h => { h with corrected := Nat.min_le_left .. }

theorem countUncorrectable_keepsLaws (s : State) (m : MemId) (a : Nat) : s.KeepsLaws (s.countUncorrectable m a) :=
  .trans (.modMon fun h => { h with uncorrectable := Nat.min_le_left .. }) (.raiseDev ..)

theorem disarm_memory_keepsLaws (s : State) (m : MemId) : s.KeepsLaws (s.disarm m) :=
  .trans (.modMon fun h => { h with }) (.raiseDev ..)

theorem countUnits_keepsLaws (s : State) (addr len : Nat) (us : List Nat) : s.KeepsLaws (s.countUnits addr len us) := by
  induction us generalizing s with
  | nil => exact .refl s
  | cons u us ih =>
    unfold State.countUnits
    split
    · exact (countUncorrectable_keepsLaws ..).trans (ih _)
    · exact (countCorrected_keepsLaws ..).trans (ih _)
    · exact ih s

theorem countStaging_keepsLaws (s : State) (addrs : List Nat) : s.KeepsLaws (s.countStaging addrs) :=
  .foldl (fun s a => countUncorrectable_keepsLaws s .staging a) addrs s

/-- A flush writes whole words, counts its poison units and may take the armed flip of CAPTURE (R167, R173). -/
theorem writeFlush_keepsLaws (s : State) (b : StageBuf) (addr : Nat) : s.KeepsLaws (s.writeFlush b addr) := by
  unfold State.writeFlush
  dsimp only
  refine .trans ?_ (.foldl (fun s (p : Nat × Nat) => countUncorrectable_keepsLaws s .staging p.2) _ _)
  have hwrite := State.KeepsLaws.writeMem (s := s) fun h => writeFlushWords_wf b addr
    ((b.poisonUnits addr).map (·.1)) s.integ.capture.arming s.mem h 0 (List.range b.words)
  split
  · exact hwrite.trans (disarm_memory_keepsLaws ..)
  · exact hwrite

theorem upset_keepsLaws (s : State) (u : Upset) : s.KeepsLaws (s.upset u) := by
  cases u with
  | capture w b => exact .writeMem fun h => Memory.flip_wf h w b
  | staging i slot check pos =>
    unfold State.upset
    refine .modWriter fun w => ?_
    unfold Writer.modSlot
    split <;> rfl
  | replay check pos => unfold State.upset; exact .modLink id id

theorem upsets_keepsLaws (s : State) (us : List Upset) : s.KeepsLaws (s.upsets us) := .foldl upset_keepsLaws us s

theorem take_keepsLaws {s t : State} {i : StreamId} {first k : Nat} {gap : Option Gap}
    (h : s.take i first k gap = some t) : s.KeepsLaws t := by
  obtain ⟨b, rest, hs, rfl⟩ := take_some h
  dsimp only
  split
  · exact .trans (.setStream .of_rest) (.raise ..)
  · exact .setStream .of_rest

theorem victimTake_keepsLaws {s t : State} {i : StreamId} {first k : Nat} (h : s.victimTake i first k = some t) :
    s.KeepsLaws t := by
  unfold State.victimTake at h
  split at h
  · nomatch h
  · obtain rfl := Option.some.inj h
    exact .trans (.modStream .of_rest) (.raise ..)

theorem releaseScan_keepsLaws (s : State) (i : StreamId) (all : Bool) : s.KeepsLaws (s.releaseScan i all) := by
  unfold State.releaseScan
  refine .trans (.setStream .of_rest) (.foldl (fun s e => ?_) _ _)
  unfold State.releaseBlock
  split
  · exact .trans (.modStream .of_rest) (.raiseDev ..)
  · exact .modStream .of_rest

/-! ### What follows at once, and the preview reader (chapter 1) -/

theorem modifyFirst_spans {p : CommitEntry → Bool} {f : CommitEntry → CommitEntry} {list : List CommitEntry}
    (hf : ∀ e ∈ list, e.xfer.spans.length ≤ 8 → (f e).xfer.spans.length ≤ 8) (h : spansBounded list) :
    spansBounded (modifyFirst p f list) := by
  induction list with
  | nil => exact h
  | cons e list ih =>
    obtain ⟨he, hl⟩ := List.forall_mem_cons.1 h
    rw [modifyFirst]
    split
    · exact List.forall_mem_cons.2 ⟨hf e List.mem_cons_self he, hl⟩
    · exact List.forall_mem_cons.2 ⟨he, ih (fun g hg => hf g (List.mem_cons_of_mem _ hg)) hl⟩

theorem map_spans {f : CommitEntry → CommitEntry} {list : List CommitEntry}
    (hf : ∀ e ∈ list, e.xfer.spans.length ≤ 8 → (f e).xfer.spans.length ≤ 8) (h : spansBounded list) :
    spansBounded (list.map f) := by
  intro e he
  obtain ⟨g, hg, rfl⟩ := List.mem_map.1 he
  exact hf g hg (h g hg)

theorem mem_of_sending {l : Link} {e : CommitEntry} (h : l.sending = some e) : e ∈ l.commit :=
  List.mem_of_find?_eq_some h

theorem finishBuild_keepsLaws (s : State) (e : CommitEntry) (r : Replay) : s.KeepsLaws (s.finishBuild e r) := by
  obtain ⟨r', h | h⟩ := finishBuild_eq s e r <;> rw [h]
  · exact .modLink id id
  · exact .trans (.modLink id id) (disarm_memory_keepsLaws ..)

theorem portGrant_keepsLaws (s : State) : s.KeepsLaws s.portGrant := by
  obtain ⟨p, h⟩ := portGrant_eq s
  rw [h]
  exact .setPort s p

theorem freePort_keepsLaws (s : State) : s.KeepsLaws s.freePort := .setPort ..

theorem settle_keepsLaws (s : State) : s.KeepsLaws s.settle := by
  have hselect : s.KeepsLaws (s.modLink Link.selectSending) := by
    unfold Link.selectSending
    refine .modLink (fun h => ?_) fun h => ?_
    · split <;> exact h
    · split
      · exact modifyFirst_spans (fun _ _ h => h) h
      · exact h
  refine (hselect.trans ?_).trans (portGrant_keepsLaws _)
  obtain h | ⟨e, -, -, -, h | h⟩ := startBuild_cases (s.modLink Link.selectSending) <;> rw [h]
  · exact .refl _
  · exact finishBuild_keepsLaws ..
  · exact .modLink id id

namespace State.KeepsLaws

theorem settle {s t : State} (h : s.KeepsLaws t) : s.KeepsLaws t.settle := h.trans (settle_keepsLaws t)

end State.KeepsLaws

theorem previewReply_keepsLaws (s : State) (p : Preview) : s.KeepsLaws (s.previewReply p) := by
  unfold State.previewReply
  have hgone : s.KeepsLaws { s with preview := none, port := s.port.orphanPreview } :=
    .trans (.setPreview s none) (.setPort _ s.port.orphanPreview)
  exact .trans (.trans (hgone.trans (.modStream .of_rest)) (releaseScan_keepsLaws ..)) (.reply ..)

theorem previewAdvance_keepsLaws (fuel : Nat) (s : State) : s.KeepsLaws (s.previewAdvance fuel) := by
  have hread (s : State) (p : Preview) (addrs : List Nat) :
      s.KeepsLaws (({ s with preview := some p } : State).countStaging addrs) :=
    .trans (.setPreview s p) (countStaging_keepsLaws ..)
  induction fuel generalizing s with
  | zero => exact .refl s
  | succ fuel ih =>
    unfold State.previewAdvance
    split
    · exact .refl s
    · split
      · exact previewReply_keepsLaws ..
      · exact (hread ..).trans (ih _)
      · dsimp only
        split
        · exact .trans (.setPreview s _) (ih _)
        · split
          · exact .refl s
          · exact (hread ..).trans (ih _)

theorem previewRun_keepsLaws (s : State) : s.KeepsLaws s.previewRun := by
  unfold State.previewRun
  split
  · exact .refl s
  · exact previewAdvance_keepsLaws ..

theorem previewTake_keepsLaws (s : State) (addr len : Nat) : s.KeepsLaws (s.previewTake addr len) := by
  unfold State.previewTake
  split
  · exact .refl s
  · exact .trans (.trans (.setPreview s _) (countUnits_keepsLaws ..)) (previewRun_keepsLaws _)

theorem previewSnap_keepsLaws (s : State) (i : StreamId) : s.KeepsLaws (s.previewSnap i) := by
  obtain h | ⟨p, segs, -, -, h⟩ := previewSnap_cases s i <;> rw [h]
  · exact .refl s
  · exact .setPreview ..

theorem drainTake_keepsLaws (s : State) (addr len pos : Nat) : s.KeepsLaws (s.drainTake addr len pos) := by
  unfold State.drainTake
  split
  · next e r he hr =>
    dsimp only
    have hread (tally : List (Nat × Nat)) (r' : Replay) : s.KeepsLaws (s.modLink fun l =>
        { (l.modSending fun _ => { e with xfer := { e.xfer with tally := tally } }) with replay := some r' }) :=
      .modLink id fun h => modifyFirst_spans (fun _ _ _ => h e (mem_of_sending he)) h
    have hmark (t : State) (c : Bool) : t.KeepsLaws (if c then t.modStream e.stream fun x =>
        { x with capture := markRetire (addr / blockBytes) x.capture } else t) := by
      split
      · exact .modStream .of_rest
      · exact .refl t
    split
    · exact (((hread _ _).trans (hmark _ _)).trans (countUnits_keepsLaws ..)).trans (finishBuild_keepsLaws ..)
    · exact ((hread _ _).trans (hmark _ _)).trans (countUnits_keepsLaws ..)
  · exact .refl s

/-! ### The capture writer, lanes and AUX lines (chapters 2 and 3) -/

/-- A marker is entered in a queue with room, or counted lost (R53, R55). -/
theorem latchMarker_keepsLaws (s : State) (i : StreamId) (index : Nat) (src : MarkSource) :
    s.KeepsLaws (s.latchMarker i index src) := by
  unfold State.latchMarker
  dsimp only
  split
  · split
    · next hroom =>
      refine .setStream ⟨fun h => { h with markers := ?_, lost := Nat.zero_le _ }, id⟩
      rw [List.length_append]
      exact hroom
    · refine .trans ?_ (.raise ..)
      exact .setStream ⟨fun h => { h with lost := Nat.min_le_left .. }, id⟩
  · exact .refl s

/-- Entering RUNNING sets k to kmin (R69). -/
theorem enterRunning_keepsLaws (x : Stream) : x.KeepsLaws x.enterRunning where
  bounds h := { h with markers := Nat.zero_le _, lost := Nat.zero_le _, discarded := Nat.zero_le _ }
  decimation h := ⟨h.1, fun _ => ⟨le_refl _, h.1.1⟩⟩

theorem startRun_keepsLaws (s : State) (i : StreamId) : s.KeepsLaws (s.startRun i) :=
  .trans (.modStream (enterRunning_keepsLaws _)) (.raise ..)

/-- A beat is held while there is room, or counted as overrun (R27). -/
theorem holdBeat_keepsLaws (x : Stream) (b : HeldBeat) : x.KeepsLaws (x.holdBeat b) := by
  unfold Stream.holdBeat
  split
  · next hroom =>
    refine ⟨fun h => { h with hold := ?_ }, id⟩
    rw [List.length_append]
    exact hroom
  · exact ⟨fun h => { h with overrun := Nat.min_le_left .. }, id⟩

theorem beatArrival_keepsLaws (s : State) (i : StreamId) (beat : List Byte) (mark : Option Nat) :
    s.KeepsLaws (s.beatArrival i beat mark) := by
  unfold State.beatArrival
  dsimp only
  split
  · exact .refl s
  · exact .refl s
  · split
    · exact (startRun_keepsLaws s i).trans (.modStream (holdBeat_keepsLaws ..))
    · exact .refl s
  · exact .modStream (holdBeat_keepsLaws ..)
  · split
    · exact .refl s
    · exact .modStream (holdBeat_keepsLaws ..)

theorem beatTake_keepsLaws (s : State) (i : StreamId) : s.KeepsLaws (s.beatTake i) := by
  unfold State.beatTake
  dsimp only
  split
  · exact .refl s
  · next b rest hhold =>
    split
    · refine .setStream ⟨fun h => { h with hold := ?_ }, id⟩
      exact (Nat.le_succ _).trans (by simpa [hhold] using h.hold)
    · exact .refl s

theorem swapIfFull_k (w : Writer) : w.swapIfFull.k = w.k := by unfold Writer.swapIfFull; split <;> rfl

theorem stageKept_keepsLaws (s : State) (i : StreamId) (bytes : List Byte) : s.KeepsLaws (s.stageKept i bytes) := by
  have hflip : s.KeepsLaws (s.takeStagingFlip i) := by
    unfold State.takeStagingFlip
    split
    · exact disarm_memory_keepsLaws ..
    · exact .refl s
  exact hflip.trans (.modStream (.of_rest (hk := swapIfFull_k _)))

theorem finishStop_keepsLaws (x : Stream) : x.KeepsLaws x.finishStop :=
  ⟨fun h => { h with hold := Nat.zero_le _ }, id⟩

theorem makeSeal_keepsLaws (x : Stream) : x.KeepsLaws x.makeSeal := by
  unfold Stream.makeSeal
  dsimp only
  split
  · exact .trans .of_rest (finishStop_keepsLaws _)
  · exact .of_rest

theorem startSeal_keepsLaws (s : State) (i : StreamId) : s.KeepsLaws (s.startSeal i) := by
  unfold State.startSeal
  dsimp only
  have hseal : s.KeepsLaws (s.modWriter i fun w =>
      if 0 < w.endWrite.fillBuf.count then { w.endWrite with mode := .sealing, ageRunning := false }.swap
      else { w.endWrite with mode := .sealing, ageRunning := false }) :=
    .modWriter fun w => by split <;> rfl
  split
  · exact hseal.trans (.modStream (makeSeal_keepsLaws _))
  · exact hseal

theorem stopWriter_keepsLaws (s : State) (i : StreamId) : s.KeepsLaws (s.stopWriter i) := by
  unfold State.stopWriter
  split
  · exact startSeal_keepsLaws s i
  · exact .refl s
  · exact .refl s
  · exact .modStream (finishStop_keepsLaws _)

/-- A stop request takes a stream of a run to CLOSING, where its k is still held (R39, R43). -/
theorem requestStop_keepsLaws {s : State} {i : StreamId} (hrun : (s.stream i).active = true) (reason : CloseReason) :
    s.KeepsLaws (s.requestStop i reason) := by
  unfold State.requestStop
  dsimp only
  split
  · exact .refl s
  · have hasked : s.KeepsLaws (s.setStream i { s.stream i with
        phase := .closing, closeReason := reason,
        writer := { (s.stream i).writer with stop := some ⟨(s.stream i).writer.stopIndex, reason⟩ } }) :=
      .setStream ⟨fun h => { h with }, fun h => ⟨h.1, fun _ => h.2 hrun⟩⟩
    split
    · exact hasked.trans (stopWriter_keepsLaws ..)
    · exact hasked

theorem holdBlock_keepsLaws (s : State) (i : StreamId) : s.KeepsLaws (s.modStream i Stream.holdBlock) :=
  .modStream .of_rest

theorem enterDropping_keepsLaws (s : State) (i : StreamId) : s.KeepsLaws (s.enterDropping i) :=
  .trans .modWriter (.raise ..)

theorem getBlock_keepsLaws (s : State) (i : StreamId) : s.KeepsLaws (s.getBlock i).1 := by
  unfold State.getBlock
  dsimp only
  split
  · next s1 h => exact (take_keepsLaws h).trans (holdBlock_keepsLaws ..)
  · split
    · split
      · next s1 h => exact (victimTake_keepsLaws h).trans (holdBlock_keepsLaws ..)
      · exact enterDropping_keepsLaws s i
    · exact enterDropping_keepsLaws s i

/-- The decimation step of a boundary stays between kmin and kmax (R38). -/
theorem decimate_range {x : Stream} (h : x.cfg.kmin ≤ x.writer.k ∧ x.writer.k ≤ x.cfg.kmax) :
    x.cfg.kmin ≤ x.decimate ∧ x.decimate ≤ x.cfg.kmax := by
  unfold Stream.decimate
  split
  · split
    · omega
    · split <;> omega
  · exact h

theorem decimateAt_keepsLaws (s : State) (i : StreamId) : s.KeepsLaws (s.decimateAt i) := by
  unfold State.decimateAt
  dsimp only
  split
  · exact .refl s
  · have hstep : s.KeepsLaws ((s.modWriter i fun w => { w with k := (s.stream i).decimate }).raise i .decimation) :=
      .trans (.modStream ⟨fun h => { h with }, fun h => ⟨h.1, fun hrun => decimate_range (h.2 hrun)⟩⟩) (.raise ..)
    split
    · exact hstep.trans (startSeal_keepsLaws ..)
    · exact hstep

theorem resume_keepsLaws (s : State) (i : StreamId) : s.KeepsLaws (s.resume i) := by
  unfold State.resume
  dsimp only
  split
  · split
    · next s1 h => exact (take_keepsLaws h).trans (holdBlock_keepsLaws ..)
    · exact .refl s
  · exact .refl s

theorem boundary_keepsLaws (s : State) (i : StreamId) : s.KeepsLaws (s.boundary i) := by
  unfold State.boundary
  split
  · exact .trans .modWriter ((decimateAt_keepsLaws _ i).trans (resume_keepsLaws _ i))
  · exact .refl s

theorem placeSample_keepsLaws (s : State) (i : StreamId) : s.KeepsLaws (s.placeSample i) := by
  unfold State.placeSample
  dsimp only
  split
  · split
    · exact stageKept_keepsLaws ..
    · split
      · exact (getBlock_keepsLaws s i).trans (stageKept_keepsLaws ..)
      · exact getBlock_keepsLaws s i
  · exact .refl s

theorem enterLaneMark_keepsLaws (s : State) (i : StreamId) : s.KeepsLaws (s.enterLaneMark i) := by
  unfold State.enterLaneMark
  dsimp only
  split
  · exact (latchMarker_keepsLaws ..).trans (.modStream .of_rest)
  · exact .refl s

theorem advance_keepsLaws (s : State) (i : StreamId) : s.KeepsLaws (s.advance i) := by
  unfold State.advance
  refine .modStream (.of_rest (hk := ?_))
  dsimp only
  split <;> rfl

theorem lengthStop_keepsLaws (s : State) (i : StreamId) : s.KeepsLaws (s.lengthStop i) := by
  unfold State.lengthStop
  dsimp only
  split
  · next h =>
    obtain ⟨⟨-, hphase⟩, -⟩ : (_ ∧ (s.stream i).phase = .running) ∧ _ := by simpa using h
    exact .trans (.raise s i .run) (requestStop_keepsLaws (s := s.raise i .run) (active_iff.2 (.inl hphase)) .length)
  · exact .refl s

theorem finishSample_keepsLaws (s : State) (i : StreamId) : s.KeepsLaws (s.finishSample i) := by
  have hseal (t : State) : t.KeepsLaws (if (t.stream i).blockFull then t.startSeal i else t) := by
    split
    · exact startSeal_keepsLaws ..
    · exact .refl t
  have hstop (t : State) : t.KeepsLaws (if (t.stream i).writer.stopReached then t.stopWriter i else t) := by
    split
    · exact stopWriter_keepsLaws ..
    · exact .refl t
  unfold State.finishSample
  split
  · exact .refl s
  · have hmoved := ((placeSample_keepsLaws s i).trans (enterLaneMark_keepsLaws _ i)).trans (advance_keepsLaws _ i)
    exact ((hmoved.trans (hseal _)).trans (lengthStop_keepsLaws _ i)).trans (hstop _)

theorem sampleProcess_keepsLaws (s : State) (i : StreamId) : s.KeepsLaws (s.sampleProcess i) := by
  unfold State.sampleProcess
  dsimp only
  split
  · split
    · exact ((boundary_keepsLaws s i).trans (finishSample_keepsLaws _ i)).settle
    · exact (boundary_keepsLaws s i).settle
  · exact .refl s

theorem flushAgeExpiry_keepsLaws (s : State) (i : StreamId) : s.KeepsLaws (s.flushAgeExpiry i) := by
  unfold State.flushAgeExpiry
  dsimp only
  split
  · exact (startSeal_keepsLaws s i).settle
  · exact .refl s

theorem afterFlush_keepsLaws (s : State) (i : StreamId) : s.KeepsLaws (s.afterFlush i) := by
  unfold State.afterFlush
  dsimp only
  have hseal : s.KeepsLaws (s.modStream i Stream.makeSeal) := .modStream (makeSeal_keepsLaws _)
  split
  · split
    · exact hseal.trans (finishSample_keepsLaws ..)
    · exact hseal
  · exact .refl s

theorem flushDone_keepsLaws (s : State) (i : StreamId) (addr : Nat) (orphan : Option StageBuf) :
    s.KeepsLaws (s.flushDone i addr orphan) := by
  unfold State.flushDone
  have hwrite (b : StageBuf) : s.KeepsLaws (s.writeFlush b addr).freePort :=
    (writeFlush_keepsLaws ..).trans (freePort_keepsLaws _)
  have hflushed (t : State) : t.KeepsLaws (t.modWriter i Writer.flushed) :=
    .modWriter fun w => by unfold Writer.flushed; split <;> rfl
  split
  · exact (hwrite _).settle
  · split
    · exact (freePort_keepsLaws s).settle
    · exact (((hwrite _).trans (hflushed _)).trans (afterFlush_keepsLaws _ i)).settle

theorem auxEdge_keepsLaws (s : State) (line : AuxLine) (rising : Bool) : s.KeepsLaws (s.auxEdge line rising) := by
  unfold State.auxEdge
  split
  · refine .foldl (fun s i => ?_) _ s
    unfold State.auxStream
    dsimp only
    split
    · exact startRun_keepsLaws s i
    · split
      · exact latchMarker_keepsLaws ..
      · exact .refl s
  · exact .refl s

/-! ### Run control (chapter 4) -/

/-- A stream outside a run needs no k (R39). -/
theorem kInRange_of_not_active {y : Stream} (h : y.cfg.kmin ≤ y.cfg.kmax ∧ y.cfg.kmax ≤ 7) (hy : y.active = false) :
    y.kInRange := ⟨h, fun ha => by rw [hy] at ha; nomatch ha⟩

theorem disarm_keepsLaws (s : State) (i : StreamId) : s.KeepsLaws (s.modStream i Stream.disarm) :=
  .modStream ⟨fun h => { h with }, fun h => kInRange_of_not_active h.1 rfl⟩

theorem powerFailStream_keepsLaws (s : State) (i : StreamId) : s.KeepsLaws (s.powerFailStream i) := by
  unfold State.powerFailStream
  split
  · next hphase =>
    exact .trans (.raise s i .run) (requestStop_keepsLaws (s := s.raise i .run) (active_iff.2 (.inl hphase)) _)
  · exact .trans (disarm_keepsLaws s i) (.raise ..)
  · exact .refl s

theorem pfailAssert_keepsLaws (s : State) : s.KeepsLaws s.pfailAssert := by
  unfold State.pfailAssert
  split
  · exact .refl s
  · have hline : s.KeepsLaws { s with pfail := true, powerFail := true } :=
      ⟨fun h => { h with }, fun h => { h with }, fun h => { h with condition := rfl }, id⟩
    exact .settle (.trans (hline.trans (.foldl powerFailStream_keepsLaws StreamId.all _)) (.raiseDev ..))

theorem pfailDeassert_keepsLaws (s : State) : s.KeepsLaws s.pfailDeassert := by
  unfold State.pfailDeassert
  split
  · have hline : s.KeepsLaws { s with
        pfail := false, powerFail := false, notices := { s.notices with mask := powerBit } } :=
      ⟨fun h => { h with }, fun h => { h with }, fun _ => ⟨rfl, (by decide : powerBit.getLsbD 10 = true)⟩, id⟩
    exact hline.trans (.raiseDev ..)
  · exact .refl s

/-- An abort empties the lists it bounds and keeps k; the stream was in its run (R46, R74). -/
theorem aborted_keepsLaws {x : Stream} (hrun : x.active = true) : x.KeepsLaws x.aborted where
  bounds h := { h with
    hold := Nat.zero_le _, markers := Nat.zero_le _, lost := Nat.zero_le _, discarded := Nat.min_le_left .. }
  decimation h := ⟨h.1, fun _ => h.2 hrun⟩

theorem replaceTotals_discarded (c : Cutter) (stuck : List CommitEntry) :
    (stuck.foldl (fun c e => c.replaceTotals e.body) c).discarded = c.discarded := by
  induction stuck generalizing c with
  | nil => rfl
  | cons e stuck ih =>
    rw [List.foldl_cons, ih]
    unfold Cutter.replaceTotals
    split <;> rfl

theorem replaceStuck_keepsLaws (s : State) (i : StreamId) : s.KeepsLaws (s.replaceStuck i) := by
  unfold State.replaceStuck
  dsimp only
  refine .trans (.modLink id fun h => map_spans (fun e _ he => ?_) h)
    (.modStream (.of_rest (hdiscarded := replaceTotals_discarded ..)))
  split
  · exact he
  · exact he

theorem abortRun_keepsLaws {s : State} {i : StreamId} (hrun : (s.stream i).active = true) :
    s.KeepsLaws (s.abortRun i) := by
  unfold State.abortRun
  dsimp only
  have hstream : (s.previewSnap i).stream i = s.stream i := congrArg (·.get i) (previewSnap_streams s i)
  have habort := ((previewSnap_keepsLaws s i).trans
    (.setPort _ ((s.previewSnap i).port.orphanFlush i ((s.previewSnap i).stream i).writer))).trans
    (.modStream (i := i) (f := Stream.aborted) (aborted_keepsLaws (x := (s.previewSnap i).stream i) (hstream ▸ hrun)))
  split
  · exact habort.trans (replaceStuck_keepsLaws ..)
  · exact habort

theorem runStart_keepsLaws (s : State) (tag : Byte) (f : StartFields) : s.KeepsLaws (s.runStart tag f) := by
  have hsetup (x : Stream) (m : StartMode) : x.KeepsLaws (x.setupRun m f) :=
    ⟨fun h => { h with overrun := Nat.zero_le _ }, fun h => kInRange_of_not_active h.1 rfl⟩
  unfold State.runStart
  split
  · exact .refuse ..
  · dsimp only
    split
    · exact .refuse ..
    · split
      · exact .refuse ..
      · split
        · exact .refuse ..
        · split
          · exact .refuse ..
          · refine .trans (.setStream ?_) (.reply ..)
            split
            · exact (hsetup ..).trans (enterRunning_keepsLaws _)
            · exact hsetup ..

theorem runStop_keepsLaws (s : State) (tag stream : Byte) : s.KeepsLaws (s.runStop tag stream) := by
  unfold State.runStop
  split
  · exact .refuse ..
  · split
    · exact (disarm_keepsLaws ..).trans (.reply ..)
    · next hphase => exact (requestStop_keepsLaws (active_iff.2 (.inl hphase)) _).settle.trans (.reply ..)
    · exact .refuse ..

theorem runAbort_keepsLaws (s : State) (tag stream : Byte) : s.KeepsLaws (s.runAbort tag stream) := by
  unfold State.runAbort
  split
  · exact .refuse ..
  · dsimp only
    split
    · exact (disarm_keepsLaws ..).trans (.reply ..)
    · next hphase => exact (abortRun_keepsLaws (active_iff.2 (.inl hphase))).settle.trans (.reply ..)
    · next hphase => exact (abortRun_keepsLaws (active_iff.2 (.inr hphase))).settle.trans (.reply ..)
    · exact .refuse ..

/-- An accepted configuration has kmin ≤ kmax ≤ 7 (R65 order 4). -/
theorem setupConfig_range {f : SetupFields} {c : StreamCfg} (h : setupConfig f = some c) :
    c.kmin ≤ c.kmax ∧ c.kmax ≤ 7 := by
  unfold setupConfig at h
  split at h
  · split at h
    · next hok =>
      obtain ⟨-, -, -, -, -, hmax, hmin, -⟩ := hok
      obtain rfl := Option.some.inj h
      exact ⟨hmin, hmax⟩
    · nomatch h
  · nomatch h

theorem streamSetup_keepsLaws (s : State) (tag : Byte) (f : SetupFields) : s.KeepsLaws (s.streamSetup tag f) := by
  unfold State.streamSetup
  split
  · exact .refuse ..
  · dsimp only
    split
    · exact .refuse ..
    · split
      · refine .trans (.setStream ?_) (.reply ..)
        exact ⟨fun h => { h with }, fun _ => kInRange_of_not_active ⟨Nat.zero_le _, Nat.zero_le _⟩ rfl⟩
      · split
        · exact .refuse ..
        · next c hc =>
          split
          · exact .refuse ..
          · refine .trans (.setStream ?_) (.reply ..)
            exact ⟨fun h => { h with }, fun _ => kInRange_of_not_active (setupConfig_range hc) rfl⟩

/-! ### The placement unit (chapter 6) -/

theorem evalLow_keepsLaws (s : State) : s.KeepsLaws s.evalLow := by
  have hlow (b : Bool) : s.KeepsLaws (s.modPlace fun p => { p with low := b }) :=
    ⟨fun h => { h with }, fun h => { h with }, fun h => { h with }, id⟩
  unfold State.evalLow
  dsimp only
  split
  · exact (hlow _).trans (.raiseDev ..)
  · exact hlow _

theorem gateEnd_keepsLaws (s : State) : s.KeepsLaws s.gateEnd := by
  refine .trans ?_ (evalLow_keepsLaws _)
  exact ⟨fun h => { h with rates := ⟨Nat.zero_le _, h.rates.1⟩ }, fun h => { h with }, fun h => { h with }, id⟩

/-- A change of the windows that lists no more of them. -/
theorem windows_keepsLaws (s : State) {ws : List Window} (h : ws.length ≤ s.place.windows.length) :
    s.KeepsLaws (s.modPlace fun p => { p with windows := ws }) :=
  ⟨fun hs => { hs with windows := h.trans hs.windows }, fun hs => { hs with }, fun hs => { hs with }, id⟩

theorem retireMisfit_length_le (size : Nat) (ws : List Window) : (retireMisfit size ws).1.length ≤ ws.length := by
  obtain h | ⟨w, rest, rfl, -, h⟩ := retireMisfit_cases size ws <;> rw [h]
  exact Nat.le_succ _

theorem serveWindow_length_le {size a : Nat} {ws ws' : List Window} (h : serveWindow size ws = some (a, ws')) :
    ws'.length ≤ ws.length := by
  obtain ⟨w, rest, rfl, -, -, ⟨rfl, -⟩ | ⟨rfl, -⟩⟩ := serveWindow_some h
  · exact Nat.le_succ _
  · exact le_refl _

/-- A placement request lists no more windows and counts what it abandons (R111, R112). -/
theorem placeRequest_keepsLaws (s : State) (size : Nat) : s.KeepsLaws (s.placeRequest size).1 := by
  have hretire : s.KeepsLaws (s.modPlace fun p =>
      { p with
        windows := (retireMisfit size s.place.windows).1,
        abandoned := satAdd 281474976710655 p.abandoned (retireMisfit size s.place.windows).2 }) :=
    ⟨fun h => { h with
        windows := (retireMisfit_length_le ..).trans h.windows, abandoned := Nat.min_le_left .. },
      fun h => { h with }, fun h => { h with }, id⟩
  have hstarved (t : State) : t.KeepsLaws (t.modPlace fun p => { p with starved := true }) :=
    ⟨fun h => { h with }, fun h => { h with }, fun h => { h with }, id⟩
  unfold State.placeRequest
  dsimp only
  split
  · next a ws hserve =>
    exact (hretire.trans (windows_keepsLaws _ (serveWindow_length_le hserve))).trans (evalLow_keepsLaws _)
  · refine .trans (hretire.trans ?_) (evalLow_keepsLaws _)
    split
    · exact hstarved _
    · exact (hstarved _).trans (.raiseDev ..)

theorem deadSpan_keepsLaws (s : State) (a n : Nat) : s.KeepsLaws (s.deadSpan a n) :=
  ⟨fun h => { h with dead := Nat.min_le_left .. }, fun h => { h with }, fun h => { h with }, id⟩

theorem countRate_keepsLaws (s : State) (n : Nat) : s.KeepsLaws (s.countRate n) :=
  ⟨fun h => { h with rates := ⟨Nat.min_le_left .., h.rates.2⟩ }, fun h => { h with }, fun h => { h with }, id⟩

theorem windowGrant_keepsLaws (s : State) (tag : Byte) (a n : BitVec 48) : s.KeepsLaws (s.windowGrant tag a n) := by
  unfold State.windowGrant
  split
  · exact .refuse ..
  · split
    · exact .refuse ..
    · split
      · exact .refuse ..
      · next hroom =>
        refine .trans (.trans ?_ (evalLow_keepsLaws _)) (.reply ..)
        refine ⟨fun h => { h with windows := ?_ }, fun h => { h with }, fun h => { h with }, id⟩
        exact (List.length_append ..).trans_le (Nat.lt_of_not_le hroom)

/-! ### The cutter (chapter 5) -/

/-- A cut takes a marker away, or adds the lost count to the discarded one, which saturates (R55, R101). -/
theorem cutOf_keepsLaws (x : Stream) (n : NextRecord) (seq : Nat) :
    x.KeepsLaws { (x.cutOf n).after with cutter := { (x.cutOf n).after.cutter with nextSeq := seq } } := by
  cases n with
  | markNext m =>
    refine ⟨fun h => { h with markers := ?_ }, id⟩
    exact (List.length_tail ▸ Nat.sub_le ..).trans h.markers
  | closeNext => exact ⟨fun h => { h with lost := Nat.zero_le _, discarded := Nat.min_le_left .. }, id⟩
  | openNext | tailNext g | gapNext e | dataNext p => exact .of_rest

theorem cutRecord_keepsLaws (s : State) (i : StreamId) (n : NextRecord) : s.KeepsLaws (s.cutRecord i n) := by
  have hplace := placeRequest_keepsLaws s ((s.stream i).cutOf n).body.size
  have hstreams := placeRequest_streams s ((s.stream i).cutOf n).body.size
  unfold State.cutRecord
  dsimp only
  generalize s.placeRequest _ = r at hplace hstreams
  split
  · exact hplace
  · refine .settle (.trans (hplace.trans (.modLink id fun h => ?_)) (.setStream ?_))
    · exact List.forall_mem_append.2 ⟨h, List.forall_mem_singleton.2 (Nat.zero_le _)⟩
    · rw [State.modLink_stream, show r.1.stream i = s.stream i from congrArg (·.get i) hstreams]
      exact cutOf_keepsLaws ..

theorem cut_keepsLaws (s : State) : s.KeepsLaws s.cut := by
  unfold State.cut
  split
  · split
    · exact .refl s
    · split
      · exact .refl s
      · exact cutRecord_keepsLaws ..
  · exact .refl s

theorem rePlace_keepsLaws (s : State) : s.KeepsLaws s.rePlace := by
  unfold State.rePlace
  split
  · exact .refl s
  · split
    · exact .refl s
    · next e he =>
      dsimp only
      have hplace := placeRequest_keepsLaws s e.size
      split
      · exact hplace
      · exact .settle (hplace.trans (.modLink id (modifyFirst_spans fun _ _ _ => Nat.zero_le _)))

/-! ### The archive link (chapter 7) -/

/-- At most 8 damage spans are held, whatever is added to them (R162). -/
theorem addSpans_length_le (held spans : List Span) (overflow : Bool) (h : spans.length ≤ 8) :
    (addSpans held spans overflow).1.length ≤ 8 := by
  have hadd (p : Span) (spans : List Span) (overflow : Bool) (h : spans.length ≤ 8) :
      (addSpan p spans overflow).1.length ≤ 8 := by
    have hlast (f : Span → Span) : (modifyLast f spans).length = spans.length := by
      simpa using congrArg List.length (modifyLast_map (f := f) (g := fun _ => ()) (fun _ => rfl) spans)
    unfold addSpan
    split
    · exact Nat.le_of_ble_eq_true rfl
    · split
      · rwa [hlast]
      · split
        · next hlt => rw [List.length_append]; exact hlt
        · rwa [hlast]
  have fold (acc : List Span × Bool) (hacc : acc.1.length ≤ 8) :
      (held.foldl (fun acc p => addSpan p acc.1 acc.2) acc).1.length ≤ 8 := by
    induction held generalizing acc with
    | nil => exact hacc
    | cons p held ih => exact ih _ (hadd p acc.1 acc.2 hacc)
  exact fold (spans, overflow) h

theorem afterAccept_spans {e : CommitEntry} (r : Replay) (bytes : List Byte) (timeout : Nat)
    (h : e.xfer.spans.length ≤ 8) : (e.afterAccept r bytes timeout).xfer.spans.length ≤ 8 := by
  unfold CommitEntry.afterAccept
  dsimp only
  split <;> exact addSpans_length_le _ _ _ h

theorem raiseArchiveFaults_keepsLaws (s : State) : s.KeepsLaws s.raiseArchiveFaults := by
  refine .foldl (fun t i => ?_) _ s
  split
  · exact .raise ..
  · exact .refl t

/-- An entry returned to READY starts its transfer again, without spans (R127). -/
theorem abandonLink_keepsLaws (s : State) : s.KeepsLaws s.abandonLink := by
  refine .trans (.setPort s s.port.orphanDrain) (.modLink (f := fun l => { l with
    outstanding := none, commit := l.commit.map CommitEntry.returned, replay := none, sync := l.sync.requeue }) id
    (map_spans fun e _ he => ?_))
  unfold CommitEntry.returned
  split
  · exact Nat.zero_le _
  · exact he

theorem linkFault_keepsLaws (s : State) (cause : LinkFault) : s.KeepsLaws (s.linkFault cause) := by
  unfold State.linkFault
  split
  · refine .trans ((abandonLink_keepsLaws s).trans ?_) (raiseArchiveFaults_keepsLaws _)
    exact .modLink (fun h => ⟨Nat.min_le_left .., h.2⟩) id
  · exact .refl s

theorem linkEnable_keepsLaws (s : State) : s.KeepsLaws s.linkEnable := by
  unfold State.linkEnable
  split
  · exact .modLink id id
  · exact .refl s

theorem linkDisable_keepsLaws (s : State) : s.KeepsLaws s.linkDisable := by
  unfold State.linkDisable
  split
  · exact .refl s
  · exact .trans ((abandonLink_keepsLaws s).trans (.modLink id id)) (raiseArchiveFaults_keepsLaws _)

/-- A failed entry starts its transfer again; its range becomes a dead span (R151). -/
theorem failEntry_keepsLaws (s : State) (p : CommitEntry → Bool) (e : CommitEntry) (cause : FailCause)
    (code : Option Byte) : s.KeepsLaws (s.failEntry p e cause code) := by
  have hfail : s.KeepsLaws (s.modLink fun l =>
      { l with commit := modifyFirst p (fun f => f.failed cause code) l.commit }) :=
    .modLink id (modifyFirst_spans fun _ _ _ => Nat.zero_le _)
  have hbuffer (t : State) : t.KeepsLaws (if e.st = .sending then
      { t with port := t.port.orphanDrain, link := { t.link with replay := none } } else t) := by
    split
    · exact .trans (.setPort t t.port.orphanDrain) (.modLink (f := fun l => { l with replay := none }) id id)
    · exact .refl t
  have hdead (t : State) : t.KeepsLaws (match e.addr with | none => t | some a => t.deadSpan a e.size) := by
    split
    · exact .refl t
    · exact deadSpan_keepsLaws ..
  have hstuck (t : State) : t.KeepsLaws (if e.placements < 3 then t
      else (t.modStream e.stream fun x => { x with drain := .blocked }).raise e.stream .archiveFault) := by
    split
    · exact .refl t
    · exact .trans (.modStream .of_rest) (.raise ..)
  exact ((hfail.trans (hbuffer _)).trans (hdead _)).trans (hstuck _)

theorem trySend_keepsLaws (s : State) : s.KeepsLaws s.trySend := by
  obtain h | ⟨e, r, -, -, -, -, ⟨-, h⟩ | ⟨-, h⟩⟩ := trySend_cases s <;> rw [h]
  · exact .refl s
  · exact .modLink id id
  · refine .trans ?_ (portGrant_keepsLaws _)
    have hcount := State.KeepsLaws.foldl (fun s (g : Nat) =>
      countUncorrectable_keepsLaws s .replay (e.addr.getD 0 + r.off + 64 * g)) r.badRanges s
    unfold State.rebuild
    dsimp only
    split
    · exact hcount.trans (finishBuild_keepsLaws ..)
    · exact hcount.trans (.modLink id id)

theorem freeSlot_keepsLaws (s : State) : s.KeepsLaws (s.modLink Link.freeSlot) := .modLink id id

theorem accept_keepsLaws (s : State) : s.KeepsLaws s.accept := by
  obtain h | h | ⟨e, r, he, -, h⟩ := accept_cases s <;> rw [h]
  · exact .refl s
  · exact freeSlot_keepsLaws s
  · exact .settle (.modLink id fun hs => modifyFirst_spans (fun _ _ _ =>
      afterAccept_spans _ _ _ (hs e (mem_of_sending he))) hs)

/-- A change of the SENDING entry that keeps its spans. -/
theorem modSending_keepsLaws (s : State) {f : CommitEntry → CommitEntry} {g : Link → Link}
    (hf : ∀ e, (f e).xfer.spans = e.xfer.spans) (hg : (g s.link).commit = (s.link.modSending f).commit)
    (hcounts : (g s.link).faultCount = s.link.faultCount ∧ (g s.link).stale = s.link.stale) :
    s.KeepsLaws (s.modLink g) :=
  .modLink (fun h => by rwa [hcounts.1, hcounts.2]) fun h => by
    rw [hg]
    exact modifyFirst_spans (fun e _ he => by rwa [hf]) h

theorem retry_keepsLaws (s : State) (us : List Upset) : s.KeepsLaws (s.retry us) := by
  unfold State.retry
  split
  · dsimp only
    split
    · exact freeSlot_keepsLaws s
    · split
      · refine .trans (.trans ((freeSlot_keepsLaws s).trans ?_) (upsets_keepsLaws _ us)) (trySend_keepsLaws _)
        exact modSending_keepsLaws _ (f := fun f => { f with xfer := { f.xfer with retry := f.xfer.retry + 1 } })
          (fun _ => rfl) rfl ⟨rfl, rfl⟩
      · exact ((freeSlot_keepsLaws s).trans (failEntry_keepsLaws ..)).settle
  · exact .refl s

theorem narrow_keepsLaws (s : State) : s.KeepsLaws s.narrow := by
  unfold State.narrow
  split
  · dsimp only
    split
    · split
      · exact .settle ((freeSlot_keepsLaws s).trans (modSending_keepsLaws _
          (f := fun f => { f with xfer := { f.xfer with narrow := true, retry := 0 } }) (fun _ => rfl) rfl ⟨rfl, rfl⟩))
      · exact ((freeSlot_keepsLaws s).trans (failEntry_keepsLaws ..)).settle
    · exact freeSlot_keepsLaws s
  · exact .refl s

theorem refuseWrite_keepsLaws (s : State) (code : Byte) : s.KeepsLaws (s.refuseWrite code) := by
  unfold State.refuseWrite
  split
  · dsimp only
    split
    · exact freeSlot_keepsLaws s
    · exact ((freeSlot_keepsLaws s).trans (failEntry_keepsLaws ..)).settle
  · exact .refl s

theorem removeFirst_spans (p : CommitEntry → Bool) {list : List CommitEntry} (h : spansBounded list) :
    spansBounded (removeFirst p list) := by
  induction list with
  | nil => exact h
  | cons e list ih =>
    obtain ⟨he, hl⟩ := List.forall_mem_cons.1 h
    rw [removeFirst]
    split
    · exact hl
    · exact List.forall_mem_cons.2 ⟨he, ih hl⟩

theorem streamIdle_keepsLaws (s : State) (i : StreamId) : s.KeepsLaws (s.streamIdle i) := by
  have hidle : s.KeepsLaws ((s.modStream i fun x => { x with phase := .idle }).raise i .run) :=
    .trans (.modStream ⟨fun h => { h with }, fun h => kInRange_of_not_active h.1 rfl⟩) (.raise ..)
  unfold State.streamIdle
  dsimp only
  split
  · exact hidle.trans (releaseScan_keepsLaws ..)
  · exact (hidle.trans (previewReply_keepsLaws ..)).trans (releaseScan_keepsLaws ..)

theorem leaveOne_keepsLaws (s : State) (i : StreamId) (e : CommitEntry) : s.KeepsLaws (s.leaveOne i e) := by
  have hgone : s.KeepsLaws (s.modLink fun l =>
      { l with commit := removeFirst (fun f => decide (f.stream = i)) l.commit, sync := l.sync.left i e.seq }) :=
    .modLink id (removeFirst_spans _)
  have hcounted := ((hgone.trans (.modStream (i := i) (f := fun x => { x with commitIndex := e.covEnd })
    .of_rest)).trans (countRate_keepsLaws _ e.size)).trans (releaseScan_keepsLaws _ i false)
  unfold State.leaveOne
  dsimp only
  split
  · exact hcounted.trans (streamIdle_keepsLaws ..)
  · exact hcounted

theorem leave_keepsLaws (s : State) (i : StreamId) : s.KeepsLaws (s.leave i) := by
  have hchain (fuel : Nat) (s : State) : s.KeepsLaws (s.leaveChain i fuel) := by
    induction fuel generalizing s with
    | zero => exact .refl s
    | succ fuel ih =>
      unfold State.leaveChain
      split
      · exact .refl s
      · split
        · exact (leaveOne_keepsLaws s i _).trans (ih _)
        · exact .refl s
  exact (hchain ..).trans (.modLink id id)

theorem staleMessage_keepsLaws (s : State) : s.KeepsLaws (s.modLink Link.staleMessage) :=
  .modLink (fun h => ⟨h.1, Nat.min_le_left ..⟩) id

theorem committed_keepsLaws (s : State) (a : Nat) : s.KeepsLaws (s.committed a) := by
  unfold State.committed
  split
  · split
    · exact staleMessage_keepsLaws s
    · refine .settle (.trans (.modLink id fun h => modifyFirst_spans ?_ h) (leave_keepsLaws ..))
      exact fun _ _ he => he
  · exact .refl s

theorem refusedMessage_keepsLaws (s : State) (a : Nat) (code : Byte) : s.KeepsLaws (s.refusedMessage a code) := by
  unfold State.refusedMessage
  split
  · split
    · exact staleMessage_keepsLaws s
    · exact failEntry_keepsLaws ..
  · exact .refl s

theorem commitTimeout_keepsLaws (s : State) (i : StreamId) (seq : Nat) : s.KeepsLaws (s.commitTimeout i seq) := by
  unfold State.commitTimeout
  split
  · exact .refl s
  · split
    · exact failEntry_keepsLaws ..
    · exact .refl s

theorem syncReply_keepsLaws (s : State) (st : Status) (waiting : Nat) : s.KeepsLaws (s.syncReply st waiting) :=
  .trans (.reply ..) (.modLink id id)

theorem durable_keepsLaws (s : State) : s.KeepsLaws s.durable := by
  unfold State.durable
  split
  · dsimp only
    split
    · exact (freeSlot_keepsLaws s).trans (syncReply_keepsLaws ..)
    · exact freeSlot_keepsLaws s
  · exact .refl s

theorem notYet_keepsLaws (s : State) : s.KeepsLaws s.notYet := by
  unfold State.notYet
  split
  · dsimp only
    split
    · exact (freeSlot_keepsLaws s).trans (.modLink id id)
    · exact freeSlot_keepsLaws s
  · exact .refl s

theorem syncTimeout_keepsLaws (s : State) : s.KeepsLaws s.syncTimeout := by
  unfold State.syncTimeout
  split
  · exact .refl s
  · exact syncReply_keepsLaws ..

theorem responseTimeout_keepsLaws (s : State) : s.KeepsLaws s.responseTimeout := by
  unfold State.responseTimeout
  split
  · exact linkFault_keepsLaws ..
  · exact .refl s

theorem trainingReply_keepsLaws (s : State) : s.KeepsLaws s.trainingReply := by
  unfold State.trainingReply
  split
  · exact .settle (.modLink id id)
  · exact .refl s

theorem durableQuerySend_keepsLaws (s : State) : s.KeepsLaws s.durableQuerySend := by
  unfold State.durableQuerySend
  split
  · exact .modLink id id
  · exact .refl s

theorem pollWaitEnd_keepsLaws (s : State) : s.KeepsLaws s.pollWaitEnd := by
  unfold State.pollWaitEnd
  split
  · exact .modLink id id
  · exact .refl s

theorem faultWaitEnd_keepsLaws (s : State) : s.KeepsLaws s.faultWaitEnd := by
  unfold State.faultWaitEnd
  split
  · exact .modLink id id
  · exact .refl s

theorem attemptEnd_keepsLaws (s : State) : s.KeepsLaws s.attemptEnd := by
  unfold State.attemptEnd
  split
  · exact .modLink id id
  · exact .refl s

theorem restEnd_keepsLaws (s : State) : s.KeepsLaws s.restEnd := by
  unfold State.restEnd
  split
  · exact .modLink id id
  · exact .refl s

/-! ### Requests (chapters 1 and 6 to 10) -/

theorem drainResume_keepsLaws (s : State) (tag stream : Byte) : s.KeepsLaws (s.drainResume tag stream) := by
  unfold State.drainResume
  split
  · exact .refuse ..
  · split
    · refine .trans (.trans (.modLink id fun h => map_spans (fun e _ he => ?_) h) (.modStream .of_rest)) (.reply ..)
      split
      · exact he
      · exact he
    · exact .refuse ..

theorem markNow_keepsLaws (s : State) (tag stream : Byte) : s.KeepsLaws (s.markNow tag stream) := by
  unfold State.markNow
  split
  · exact .refuse ..
  · dsimp only
    split
    · exact (latchMarker_keepsLaws ..).trans (.reply ..)
    · exact .refuse ..

theorem auxRoute_keepsLaws (s : State) (tag line edge mask : Byte) : s.KeepsLaws (s.auxRoute tag line edge mask) := by
  have hroutes (r : Routes) : s.KeepsLaws { s with routes := r } :=
    ⟨fun h => { h with }, fun h => { h with }, fun h => { h with }, id⟩
  unfold State.auxRoute
  split
  · exact (hroutes _).trans (.reply ..)
  · exact .refuse ..

theorem linkControl_keepsLaws (s : State) (tag a : Byte) : s.KeepsLaws (s.linkControl tag a) := by
  unfold State.linkControl
  split
  · exact (linkEnable_keepsLaws s).trans (.reply ..)
  · split
    · exact (linkDisable_keepsLaws s).trans (.reply ..)
    · exact .refuse ..

theorem syncRequest_keepsLaws (s : State) (tag m : Byte) : s.KeepsLaws (s.syncRequest tag m) := by
  unfold State.syncRequest
  split
  · exact .refuse ..
  · split
    · exact .refuse ..
    · exact .modLink id id

theorem previewStart_keepsLaws (s : State) (i : StreamId) (tag : Byte) (plan : SpanPlan) :
    s.KeepsLaws (s.previewStart i tag plan) := by
  unfold State.previewStart
  exact .settle (.trans (.trans (.modStream .of_rest) (.setPreview _ _)) (previewRun_keepsLaws _))

theorem previewRequest_keepsLaws (s : State) (tag stream sel : Byte) (maxBytes : BitVec 16) (index : BitVec 48) :
    s.KeepsLaws (s.previewRequest tag stream sel maxBytes index) := by
  unfold State.previewRequest
  split
  · exact .refuse ..
  · dsimp only
    split
    · exact .refuse ..
    · split
      · exact .refuse ..
      · split
        · exact .refuse ..
        · split
          · exact .refuse ..
          · split
            · exact previewStart_keepsLaws ..
            · split
              · exact .refuse ..
              · split
                · exact .reply ..
                · exact previewStart_keepsLaws ..

theorem statusRequest_keepsLaws (s : State) (tag sel i : Byte) : s.KeepsLaws (s.statusRequest tag sel i) := by
  unfold State.statusRequest
  split
  · exact .reply ..
  · split
    · split
      · exact .refuse ..
      · exact .reply ..
    · exact .refuse ..

/-- POWER reads as enabled whatever mask is given (R195). -/
theorem appliedMask_power (enables : BitVec 16) : (appliedMask enables).getLsbD 10 = true := by
  rw [appliedMask, BitVec.getLsbD_or, show powerBit.getLsbD 10 = true by decide, Bool.or_true]

theorem noticeMask_keepsLaws (s : State) (tag : Byte) (e : BitVec 16) : s.KeepsLaws (s.noticeMask tag e) := by
  unfold State.noticeMask
  split
  · exact .refuse ..
  · refine .trans (.notices ?_ ?_) (.reply ..)
    · exact id
    · exact fun _ => appliedMask_power e

/-- Cleared counts stay within their bounds (R197). -/
theorem taken_bounded {n : Notices} (h : n.bounded) (sel : BitVec 16) : (n.taken sel).bounded := by
  have hstream (m : StreamCounts) (hm : m.bounded) : (m.clear sel).bounded := by
    unfold StreamCounts.clear
    induction StreamCat.all generalizing m with
    | nil => exact hm
    | cons c l ih =>
      refine ih _ ?_
      dsimp only
      split
      · intro d
        rw [StreamCounts.get_set]
        split
        · exact Nat.zero_le _
        · exact hm d
      · exact hm
  have hdevice (m : DeviceCounts) (hm : ∀ d, m.get d ≤ 65535) : ∀ d, (m.clear sel).get d ≤ 65535 := by
    unfold DeviceCounts.clear
    induction DeviceCat.all generalizing m with
    | nil => exact hm
    | cons c l ih =>
      refine ih _ ?_
      dsimp only
      split
      · intro d
        rw [DeviceCounts.get_set]
        split
        · exact Nat.zero_le _
        · exact hm d
      · exact hm
  refine ⟨fun i => ?_, hdevice _ h.2⟩
  cases i with
  | s0 => exact hstream _ (h.1 .s0)
  | s1 => exact hstream _ (h.1 .s1)
  | s2 => exact hstream _ (h.1 .s2)
  | s3 => exact hstream _ (h.1 .s3)

theorem noticeTake_keepsLaws (s : State) (tag : Byte) (e : BitVec 16) : s.KeepsLaws (s.noticeTake tag e) := by
  unfold State.noticeTake
  split
  · exact .refuse ..
  · exact .trans (.notices (taken_bounded · e) id) (.reply ..)

theorem errorSetup_keepsLaws (s : State) (tag m c : Byte) : s.KeepsLaws (s.errorSetup tag m c) := by
  unfold State.errorSetup
  split
  · exact .trans (.modMon fun h => { h with }) (.reply ..)
  · exact .refuse ..

theorem cleared_monBounds {x : MemMon} (h : MonBounds x) (corrected uncorrectable : Bool) :
    MonBounds (x.cleared corrected uncorrectable) := by
  constructor
  · cases corrected with
    | false => exact h.corrected
    | true => exact Nat.zero_le _
  · cases uncorrectable with
    | false => exact h.uncorrectable
    | true => exact Nat.zero_le _

theorem errorRead_keepsLaws (s : State) (tag m f : Byte) : s.KeepsLaws (s.errorRead tag m f) := by
  unfold State.errorRead
  split
  · exact .refuse ..
  · exact .trans (.modMon fun h => cleared_monBounds h _ _) (.reply ..)

theorem inject_keepsLaws (s : State) (tag m t p : Byte) (a b : BitVec 16) : s.KeepsLaws (s.inject tag m t p a b) := by
  unfold State.inject
  split
  · exact .refuse ..
  · dsimp only
    split
    · exact .refuse ..
    · exact .trans (.modMon fun h => { h with }) (.reply ..)

theorem timingSet_keepsLaws (s : State) (tag f : Byte) (c y l : BitVec 32) : s.KeepsLaws (s.timingSet tag f c y l) := by
  have hset (t : Timing) : s.KeepsLaws (s.modCtl fun c => { c with timing := t }) := .modCtl id
  unfold State.timingSet
  dsimp only
  split
  · exact (hset _).trans (.reply ..)
  · exact ((hset _).trans (evalLow_keepsLaws _)).trans (.reply ..)

theorem resetRequest_keepsLaws (s : State) (tag : Byte) : s.KeepsLaws (s.resetRequest tag) := by
  unfold State.resetRequest
  exact .modCtl id

theorem runRequest_keepsLaws (s : State) (tag : Byte) (r : Request) : s.KeepsLaws (s.runRequest tag r) := by
  cases r with
  | ident => exact .reply ..
  | streamSetup f => exact streamSetup_keepsLaws s tag f
  | auxRoute line edge mask => exact auxRoute_keepsLaws s tag line edge mask
  | runStart f => exact runStart_keepsLaws s tag f
  | runStop i => exact runStop_keepsLaws s tag i
  | runAbort i => exact runAbort_keepsLaws s tag i
  | drainResume i => exact drainResume_keepsLaws s tag i
  | markNow i => exact markNow_keepsLaws s tag i
  | windowGrant a n => exact windowGrant_keepsLaws s tag a n
  | linkControl a => exact linkControl_keepsLaws s tag a
  | sync m => exact syncRequest_keepsLaws s tag m
  | preview i sel n x => exact previewRequest_keepsLaws s tag i sel n x
  | status sel i => exact statusRequest_keepsLaws s tag sel i
  | noticeMask e => exact noticeMask_keepsLaws s tag e
  | noticeTake e => exact noticeTake_keepsLaws s tag e
  | errorSetup m c => exact errorSetup_keepsLaws s tag m c
  | errorRead m f => exact errorRead_keepsLaws s tag m f
  | inject m t p a b => exact inject_keepsLaws s tag m t p a b
  | timingSet f c y l => exact timingSet_keepsLaws s tag f c y l
  | reset => exact resetRequest_keepsLaws s tag

/-! ### The control link (chapter 9) -/

theorem execute_keepsLaws (fuel : Nat) (s : State) : s.KeepsLaws (s.execute fuel) := by
  induction fuel generalizing s with
  | zero => exact .refl s
  | succ fuel ih =>
    unfold State.execute
    split
    · exact .refl s
    · next f rest hin =>
      split
      · have htake : s.KeepsLaws (s.takeFrame rest) := .modCtl id
        refine .trans (htake.trans ?_) (ih _)
        unfold State.runFrame
        split
        · exact .refuse ..
        · exact .refuse ..
        · exact runRequest_keepsLaws ..
      · exact .refl s

/-- A frame is filed in a queue with room, or its drop is counted (R178). -/
theorem submit_keepsLaws (s : State) (f : InFrame) : s.KeepsLaws (s.submit f) := by
  refine .trans (.modCtl fun ⟨h1, h2, h3, h4⟩ => ?_) (execute_keepsLaws ..)
  unfold Control.file
  split
  · split
    · exact ⟨h1, h2, h3, h4⟩
    · exact ⟨h1, h2, Nat.min_le_left .., h4⟩
  · split
    · exact ⟨h1, h2, h3, h4⟩
    · exact ⟨h1, h2, h3, Nat.min_le_left ..⟩

theorem framingError_keepsLaws (s : State) : s.KeepsLaws (s.modCtl Control.framingError) :=
  .modCtl fun ⟨h1, _, h3⟩ => ⟨h1, Nat.min_le_left .., h3⟩

theorem writePeriodEnd_keepsLaws (s : State) (bytes : List Byte) : s.KeepsLaws (s.writePeriodEnd bytes) := by
  unfold State.writePeriodEnd
  split
  · exact framingError_keepsLaws s
  · exact .modCtl fun ⟨_, h⟩ => ⟨Nat.min_le_left .., h⟩
  · exact submit_keepsLaws s _

/-- The condition stands with the level of PFAIL# that is taken (R79). -/
theorem takePfail_keepsLaws (s : State) (level : Bool) : s.KeepsLaws (s.takePfail level) := by
  have hline : s.KeepsLaws { s with pfail := level, powerFail := level } :=
    ⟨fun h => { h with }, fun h => { h with }, fun h => { h with condition := rfl }, id⟩
  unfold State.takePfail
  dsimp only
  split
  · exact hline.trans (.raiseDev ..)
  · exact hline

theorem reset_decimationLaw : DecimationLaw State.reset := by
  obtain ⟨-, h, -⟩ := resetMeetsTheLaws
  exact h

theorem reset_powerLaw : PowerLaw State.reset := ⟨rfl, by decide⟩

theorem hardReset_keepsLaws (s : State) (cause : ResetCause) : s.KeepsLaws (s.hardReset cause) := by
  refine .trans ?_ (takePfail_keepsLaws _ s.pfail)
  exact ⟨fun _ => { reset_boundsLaw with }, fun _ => { reset_decimationLaw with }, fun _ => { reset_powerLaw with },
    fun _ => reset_mem_wf⟩

/-- A RESET request keeps capture memory and the error counts of the memories (R81, R189). -/
theorem softReset_keepsLaws (s : State) : s.KeepsLaws s.softReset := by
  refine .trans ?_ (takePfail_keepsLaws _ s.pfail)
  refine ⟨fun h => { reset_boundsLaw with memories := fun m => ?_ }, fun _ => { reset_decimationLaw with },
    fun _ => { reset_powerLaw with }, id⟩
  cases m with
  | capture => exact { h.memories .capture with }
  | staging => exact { h.memories .staging with }
  | replay => exact { h.memories .replay with }

theorem readPeriodEnd_keepsLaws (s : State) (clocked : Nat) : s.KeepsLaws (s.readPeriodEnd clocked) := by
  unfold State.readPeriodEnd
  split
  · exact .refl s
  · have hread : s.KeepsLaws (s.modCtl fun c => { c with reading := none }) := .modCtl id
    dsimp only
    split
    · refine hread.trans ?_
      unfold State.removeHead
      split
      · exact .refl _
      · split
        · exact softReset_keepsLaws _
        · exact .trans (.modCtl id) (execute_keepsLaws ..)
    · exact hread

/-! ### Every step -/

theorem flushComplete_keepsLaws {s t : State} {us : List Upset} (h : execFlushComplete us s = .next t) :
    s.KeepsLaws t := by
  unfold execFlushComplete at h
  split at h
  · split at h
    · obtain rfl := Host.Outcome.next.inj h
      exact (upsets_keepsLaws s us).trans (flushDone_keepsLaws ..)
    · nomatch h
  · obtain rfl := Host.Outcome.next.inj h
    exact .refl s

theorem drainReadComplete_keepsLaws {s t : State} {us : List Upset} (h : execDrainReadComplete us s = .next t) :
    s.KeepsLaws t := by
  unfold execDrainReadComplete at h
  split at h
  · split at h
    · obtain rfl := Host.Outcome.next.inj h
      refine (upsets_keepsLaws s us).trans (.settle (.trans ?_ (freePort_keepsLaws _)))
      split
      · exact drainTake_keepsLaws ..
      · exact countUnits_keepsLaws ..
    · nomatch h
  · obtain rfl := Host.Outcome.next.inj h
    exact .refl s

theorem previewReadComplete_keepsLaws {s t : State} {us : List Upset} (h : execPreviewReadComplete us s = .next t) :
    s.KeepsLaws t := by
  unfold execPreviewReadComplete at h
  split at h
  · split at h
    · obtain rfl := Host.Outcome.next.inj h
      refine (upsets_keepsLaws s us).trans (.settle ((freePort_keepsLaws _).trans ?_))
      split
      · exact previewTake_keepsLaws ..
      · exact countUnits_keepsLaws ..
    · nomatch h
  · obtain rfl := Host.Outcome.next.inj h
    exact .refl s

/-- Every command keeps the laws. -/
theorem exec_keepsLaws {s t : State} {c : Instr} (ht : exec c s = .next t) : s.KeepsLaws t := by
  have keeps {u : State} (k : s.KeepsLaws u) (hu : Host.Outcome.next u = (.next t : Result)) : s.KeepsLaws t := by
    obtain rfl := Host.Outcome.next.inj hu; exact k
  cases c with
  | powerOn | rst => exact keeps (hardReset_keepsLaws ..) ht
  | pfailAssert => exact keeps (pfailAssert_keepsLaws s) ht
  | pfailDeassert => exact keeps (pfailDeassert_keepsLaws s) ht
  | beatArrival lane beat mark => exact keeps (beatArrival_keepsLaws s lane beat mark) ht
  | beatTake i => exact keeps (beatTake_keepsLaws s i) ht
  | sampleProcess i => exact keeps (sampleProcess_keepsLaws s i) ht
  | flushAgeExpiry i => exact keeps (flushAgeExpiry_keepsLaws s i) ht
  | flushComplete us => exact flushComplete_keepsLaws ht
  | drainReadComplete us => exact drainReadComplete_keepsLaws ht
  | previewReadComplete us => exact previewReadComplete_keepsLaws ht
  | auxEdge line rising => exact keeps (auxEdge_keepsLaws s line rising) ht
  | cut => exact keeps (cut_keepsLaws s) ht
  | rePlacement => exact keeps (rePlace_keepsLaws s) ht
  | gateEnd => exact keeps (gateEnd_keepsLaws s) ht
  | writeSend us => exact keeps ((upsets_keepsLaws s us).trans (trySend_keepsLaws _)) ht
  | durableQuerySend => exact keeps (durableQuerySend_keepsLaws s) ht
  | accept => exact keeps (accept_keepsLaws s) ht
  | retry us => exact keeps (retry_keepsLaws s us) ht
  | narrow => exact keeps (narrow_keepsLaws s) ht
  | refuse code => exact keeps (refuseWrite_keepsLaws s code) ht
  | committed a => exact keeps (committed_keepsLaws s a.toNat) ht
  | refused a code => exact keeps (refusedMessage_keepsLaws s a.toNat code) ht
  | commitTimeout i seq => exact keeps (commitTimeout_keepsLaws s i seq) ht
  | durable => exact keeps (durable_keepsLaws s) ht
  | notYet => exact keeps (notYet_keepsLaws s) ht
  | pollWaitEnd => exact keeps (pollWaitEnd_keepsLaws s) ht
  | syncTimeout => exact keeps (syncTimeout_keepsLaws s) ht
  | responseTimeout => exact keeps (responseTimeout_keepsLaws s) ht
  | badFrame => exact keeps (linkFault_keepsLaws s .badFrame) ht
  | trainingLost => exact keeps (linkFault_keepsLaws s .trainingLost) ht
  | faultWaitEnd => exact keeps (faultWaitEnd_keepsLaws s) ht
  | trainingReply => exact keeps (trainingReply_keepsLaws s) ht
  | attemptEnd => exact keeps (attemptEnd_keepsLaws s) ht
  | restEnd => exact keeps (restEnd_keepsLaws s) ht
  | badOpener opener =>
    refine keeps ?_ ht
    unfold State.badOpener
    split
    · exact .refl s
    · exact framingError_keepsLaws s
  | writePeriodEnd bytes => exact keeps (writePeriodEnd_keepsLaws s bytes) ht
  | readPeriodStart => exact keeps (.modCtl id) ht
  | readPeriodEnd clocked => exact keeps (readPeriodEnd_keepsLaws s clocked) ht
  | unknownRequest | ident | streamSetup | auxRoute | runStart | runStop | runAbort | drainResume | markNow
  | windowGrant | linkControlEnable | linkControlDisable | sync | preview | statusDevice | statusStream | noticeMask
  | noticeTake | errorSetup | errorRead | inject | timingSet | reset => exact keeps (submit_keepsLaws s _) ht

/-- Every step keeps the laws: a command leaves the queue, or none waits. -/
theorem step_keepsLaws {s t : State} (h : step s = .next t) : s.KeepsLaws t := by
  unfold step at h
  split at h
  · obtain rfl := Host.Outcome.next.inj h
    exact .refl s
  · next c rest hp =>
    have htaken : s.KeepsLaws { s with pending := rest } :=
      ⟨fun hs => { hs with }, fun hs => { hs with }, fun hs => { hs with }, id⟩
    exact htaken.trans (exec_keepsLaws h)

/-- Settles O59: every operation keeps the bounds (R27, R55, R108, R162, R164, R179, R193). -/
theorem stepsKeepTheBounds : Obligations.StepsKeepTheBounds := fun _ _ hs h => (step_keepsLaws h).bounds hs

/-- Settles O60: every operation keeps k in range, the power-fail condition with the line and capture memory canonical
(R39, R78, R79, R196). -/
theorem stepsKeepDecimationPowerAndMemory : Obligations.StepsKeepDecimationPowerAndMemory :=
  ⟨fun _ _ hs h => (step_keepsLaws h).decimation hs, fun _ _ hs h => (step_keepsLaws h).power hs,
    fun _ _ hs h => (step_keepsLaws h).mem hs⟩

end Sys2Proof.Machine
end

section
/-! SUPPORT. Beats arriving and taken (R25 to R27, R29, R61). -/

namespace Sys2Proof.Machine

/-- A mark is valid where it names a sample of its beat (R26). -/
theorem validMark_eq (w : Width) (mark : Option Nat) :
    validMark w mark = mark.filter fun o => decide (o * w.bytes < 64) := by
  cases mark with
  | none => rfl
  | some o => simp [validMark, Option.filter]

/-- A beat joins a hold with room (R27). -/
theorem holdBeat_of_room {x : Stream} (h : x.hold.length < 16) (b : HeldBeat) :
    x.holdBeat b = { x with hold := x.hold ++ [b] } := if_pos h

/-- A beat at a full hold is counted as overrun (R27). -/
theorem holdBeat_of_full {x : Stream} (h : 16 ≤ x.hold.length) (b : HeldBeat) :
    x.holdBeat b = { x with overrun := min 65535 (x.overrun + 1) } := if_neg (Nat.not_lt.2 h)

/-- A stream acquires while it is RUNNING, and in CLOSING until its writer has stopped (R25). -/
def Stream.acquires (x : Stream) : Prop := x.phase = .running ∨ (x.phase = .closing ∧ x.writer.mode ≠ .stopped)

/-- A beat of a stream that acquires goes to the lane hold (R25, R27). -/
theorem beatArrival_of_acquires {s : State} {i : StreamId} (h : (s.stream i).acquires) (beat : List Byte)
    (mark : Option Nat) : s.beatArrival i beat mark = s.modStream i fun y =>
      y.holdBeat ⟨beat, validMark (s.stream i).cfg.width mark⟩ := by
  obtain hp | ⟨hp, hm⟩ := h
  · simp [State.beatArrival, hp]
  · simp [State.beatArrival, hp, hm]

/-- A beat whose valid mark starts a run enters the empty hold from the marked sample on (R26, R61). -/
theorem beatArrival_of_trigger {s : State} {i : StreamId} {beat : List Byte} {mark : Option Nat} {o : Nat}
    (hp : (s.stream i).phase = .armed) (hm : (s.stream i).startMode = .laneTrigger)
    (hv : validMark (s.stream i).cfg.width mark = some o) (hh : (s.stream i).hold = []) :
    s.beatArrival i beat mark = (s.setStream i { runEntered (s.stream i) with
      hold := [⟨beat.drop (o * (s.stream i).cfg.width.bytes), none⟩] }).raise i .run := by
  have hroom : ((s.stream i).enterRunning).hold.length < 16 := by simp [Stream.enterRunning, hh]
  have hheld := holdBeat_of_room hroom ⟨beat.drop (o * (s.stream i).cfg.width.bytes), none⟩
  have hstart : s.beatArrival i beat mark = ((s.startRun i).modStream i fun y =>
      y.holdBeat ⟨beat.drop (o * (s.stream i).cfg.width.bytes), none⟩) := by
    simp [State.beatArrival, hp, hm, hv]
  have hstream : (s.startRun i).stream i = (s.stream i).enterRunning := State.modStream_stream_self ..
  rw [hstart, State.modStream, hstream, hheld, show (s.stream i).enterRunning.hold = [] from hh]
  exact congrArg (·.raise i .run) (State.setStream_setStream s i (s.stream i).enterRunning _)

/-- Any other beat is discarded (R25, R61). -/
theorem beatArrival_discarded {s : State} {i : StreamId} {mark : Option Nat} (h : ¬ (s.stream i).acquires)
    (ht : (s.stream i).phase = .armed →
      (s.stream i).startMode ≠ .laneTrigger ∨ validMark (s.stream i).cfg.width mark = none) (beat : List Byte) :
    s.beatArrival i beat mark = s := by
  unfold State.beatArrival
  dsimp only
  split
  · rfl
  · rfl
  · next hp =>
    split
    · next hm hv =>
      obtain hne | hne := ht hp
      · exact absurd hm hne
      · rw [hne] at hv; nomatch hv
    · rfl
  · next hp => exact absurd (.inl hp) h
  · next hp =>
    split
    · rfl
    · next hm => exact absurd (.inr ⟨hp, hm⟩) h

/-- The writer context may take a beat when it has none in hand and is neither SEALING nor STOPPED (R27, R29). -/
theorem mayTake_iff (w : Writer) : w.mayTake = true ↔ w.beat = [] ∧ w.mode ≠ .sealing ∧ w.mode ≠ .stopped := by
  simp [Writer.mayTake, and_assoc]

/-- A beat is taken from the hold, and its mark becomes the pending lane mark (R27, R56). -/
theorem beatTake_of_mayTake {s : State} {i : StreamId} {b : HeldBeat} {rest : List HeldBeat}
    (hh : (s.stream i).hold = b :: rest) (ht : (s.stream i).writer.mayTake = true) :
    s.beatTake i = s.setStream i { s.stream i with
      hold := rest, writer := { (s.stream i).writer with beat := b.bytes },
      pendingLane := b.mark.map fun o => (s.stream i).writer.index + o } := by
  simp [State.beatTake, hh, ht]

theorem beatTake_idle {s : State} {i : StreamId}
    (h : (s.stream i).hold = [] ∨ (s.stream i).writer.mayTake = false) : s.beatTake i = s := by
  unfold State.beatTake
  dsimp only
  split
  · rfl
  · next b rest hh =>
    obtain h | h := h
    · rw [h] at hh; nomatch hh
    · rw [h]; rfl

/-- Settles O25: each arrival by the phase of its stream, and each take by the writer context. -/
theorem beatsArriveAndAreTaken : Obligations.BeatsArriveAndAreTaken := by
  constructor
  · intro i beat mark s x valid acquires
    refine ⟨fun ha hroom => ?_, fun ha hfull => ?_, fun o hp hm hv hh => ?_, fun ha ht => ?_⟩
    · refine congrArg Host.Outcome.next ((beatArrival_of_acquires ha beat mark).trans ?_)
      rw [State.modStream, holdBeat_of_room hroom, validMark_eq]
    · refine congrArg Host.Outcome.next ((beatArrival_of_acquires ha beat mark).trans ?_)
      rw [State.modStream, holdBeat_of_full hfull]
    · exact ⟨s.notices.raiseStream i .run, Notices.raisedFor_raiseStream ..,
        congrArg Host.Outcome.next (beatArrival_of_trigger hp hm ((validMark_eq ..).trans hv) hh)⟩
    · exact congrArg Host.Outcome.next
        (beatArrival_discarded ha (fun hp => (ht hp).imp id (validMark_eq ..).trans) beat)
  · intro i s x
    refine ⟨fun b rest hh hb hm hm' => ?_, fun hno => ?_⟩
    · exact congrArg Host.Outcome.next (beatTake_of_mayTake hh ((mayTake_iff _).2 ⟨hb, hm, hm'⟩))
    · refine congrArg Host.Outcome.next (beatTake_idle (hno.imp id fun hno => Bool.eq_false_iff.2 fun ht => ?_))
      obtain ⟨hb, hm, hm'⟩ := (mayTake_iff _).1 ht
      exact hno.elim (absurd hb) (Or.elim · (absurd · hm) (absurd · hm'))

end Sys2Proof.Machine
end

section
/-! SUPPORT. Stop requests: RUN_STOP and the assertion of PFAIL# (R33, R43, R45, R71, R78). -/

namespace Sys2Proof.Machine

/-! ### The stop index and the seal (R11, R43) -/

/-- The next multiple of `m` at or above `x`. -/
theorem roundUp_eq {x m n : Nat} (hd : m ∣ n) (hle : x ≤ n) (hlt : n < x + m) : roundUp x m = n := by
  obtain ⟨c, rfl⟩ := hd
  have hm : 0 < m := by omega
  have hdiv : (x + (m - 1)) / m = c := Nat.div_eq_of_lt_le (by rw [Nat.mul_comm]; omega) (by
    rw [Nat.succ_mul, Nat.mul_comm]; omega)
  rw [roundUp, hdiv, Nat.mul_comm]

/-- The seal changes the tail alone (R11). -/
theorem sealTail_eq (l : List Entry) : sealTail l =
    l.dropLast ++ l.getLast?.toList.map fun e => if e.st = .filling then { e with st := .full } else e := by
  obtain rfl | ⟨l, e, rfl⟩ := l.eq_nil_or_concat'
  · rfl
  · rw [sealTail, modifyLast_append]
    simp

/-- What the start of a seal leaves of a stream: with nothing staged and nothing awaiting flush it is made at once, else
the staged bytes await flush (R33). -/
def Stream.sealStarted (x : Stream) : Stream :=
  let w : Writer := { x.writer with mode := .sealing, ageRunning := false, write := none }
  if w.fillBuf.count = 0 ∧ w.awaiting = [] then ({ x with writer := w } : Stream).makeSeal
  else { x with writer :=
    if w.fillBuf.count = 0 then w else { w with awaiting := w.awaiting ++ [w.fillBuf], fillBuf := .empty } }

theorem startSeal_eq (s : State) (i : StreamId) : s.startSeal i = s.setStream i (s.stream i).sealStarted := by
  unfold State.startSeal Stream.sealStarted
  by_cases hc : (s.stream i).writer.fillBuf.count = 0
  · cases ha : (s.stream i).writer.awaiting with
    | nil => simp [State.modWriter, State.modStream, Writer.endWrite, hc, ha, State.setStream_setStream]
    | cons b rest => simp [State.modWriter, State.modStream, Writer.endWrite, hc, ha]
  · have hpos : 0 < (s.stream i).writer.fillBuf.count := Nat.pos_of_ne_zero hc
    simp [State.modWriter, State.modStream, Writer.endWrite, Writer.swap, hc, hpos]

/-- What stopping at its stop index leaves of a stream's writer (R43). -/
def Stream.writerStopped (x : Stream) : Stream :=
  match x.writer.mode with
  | .filling => x.sealStarted
  | .noBlock | .dropping => x.finishStop
  | .sealing | .stopped => x

theorem stopWriter_eq (s : State) (i : StreamId) : s.stopWriter i = s.setStream i (s.stream i).writerStopped := by
  unfold State.stopWriter Stream.writerStopped
  cases (s.stream i).writer.mode with
  | filling => exact startSeal_eq s i
  | noBlock | dropping => rfl
  | sealing | stopped => exact (State.setStream_self s i).symm

/-! ### A stop request (R43) -/

/-- A stream with a stop request recorded. -/
def Stream.stopHeld (x : Stream) (n : Nat) (reason : CloseReason) : Stream :=
  { x with phase := .closing, closeReason := reason, writer := { x.writer with stop := some ⟨n, reason⟩ } }

theorem stopTaken_below {x : Stream} {n : Nat} (h : x.writer.index < n) (reason : CloseReason) :
    stopTaken x n reason = x.stopHeld n reason := if_pos h

/-- A writer that stands at the stop index stops (R43, R45). -/
theorem stopTaken_at (x : Stream) (reason : CloseReason) :
    stopTaken x x.writer.index reason = (x.stopHeld x.writer.index reason).writerStopped := by
  unfold stopTaken
  dsimp only
  rw [if_neg (Nat.lt_irrefl _)]
  cases hm : x.writer.mode with
  | noBlock | dropping =>
    simp [Stream.writerStopped, Stream.stopHeld, Stream.finishStop, stoppedAt, hm, Causes.newOnly]
  | sealing | stopped => simp [Stream.writerStopped, Stream.stopHeld, hm]
  | filling =>
    by_cases hempty : x.writer.fillBuf.count = 0 ∧ x.writer.awaiting = []
    · simp [Stream.writerStopped, Stream.stopHeld, Stream.sealStarted, hm, hempty.1, hempty.2, Stream.makeSeal,
        Writer.stopReached, Stream.finishStop, stoppedAt, sealTail_eq]
    · by_cases hc : x.writer.fillBuf.count = 0
      · simp_all [Stream.writerStopped, Stream.stopHeld, Stream.sealStarted]
      · simp [Stream.writerStopped, Stream.stopHeld, Stream.sealStarted, hm, hc]

/-- What a stop request leaves of a stream: one already held stays (R43, R70). -/
def Stream.stopAsked (x : Stream) (reason : CloseReason) : Stream :=
  if x.writer.stop = none then stopTaken x x.writer.stopIndex reason else x

theorem le_stopIndex (w : Writer) : w.index ≤ w.stopIndex := by
  have hpos : 0 < 2 ^ w.k := Nat.two_pow_pos _
  have hdiv := Nat.div_add_mod (w.index + (2 ^ w.k - 1)) (2 ^ w.k)
  have hmod := Nat.mod_lt (w.index + (2 ^ w.k - 1)) hpos
  rw [Writer.stopIndex, roundUp, Nat.mul_comm]
  omega

/-- Everything a stop request does (R33, R43, R45). -/
theorem requestStop_eq (s : State) (i : StreamId) (reason : CloseReason) :
    s.requestStop i reason = s.setStream i ((s.stream i).stopAsked reason) := by
  unfold State.requestStop Stream.stopAsked
  dsimp only
  split
  · next r hstop => rw [hstop, if_neg nofun, State.setStream_self]
  · next hstop =>
    rw [if_pos hstop]
    split
    · next hat =>
      rw [stopWriter_eq, State.setStream_setStream, State.setStream_stream_self, hat, stopTaken_at]
      rfl
    · next hne =>
      rw [stopTaken_below (Nat.lt_of_le_of_ne (le_stopIndex _) (Ne.symm hne))]
      rfl

/-! ### RUN_STOP (R71) -/

/-- What follows at once neither looks at the control link nor changes it. -/
theorem settle_withCtl (s : State) (c : Control) : ({ s with ctl := c } : State).settle =
    { s.settle with ctl := c } := by
  have hgrant (s : State) : ({ s with ctl := c } : State).portGrant = { s.portGrant with ctl := c } := by
    unfold State.portGrant; dsimp only; split <;> rfl
  have hfinish (s : State) (e : CommitEntry) (r : Replay) :
      ({ s with ctl := c } : State).finishBuild e r = { s.finishBuild e r with ctl := c } := by
    unfold State.finishBuild; dsimp only; split <;> rfl
  have hbuild (s : State) : ({ s with ctl := c } : State).startBuild = { s.startBuild with ctl := c } := by
    unfold State.startBuild
    dsimp only
    split
    · next e _ _ _ =>
      split
      · exact hfinish s e e.freshReplay
      · rfl
    · rfl
  rw [State.settle, State.settle, ← hgrant, ← hbuild]
  rfl

/-- The frame of a RUN_STOP decodes to the RUN_STOP (section 11.3). -/
theorem exec_runStop {s : State} (h : s.takesAtOnce) (tag b : Byte) :
    exec (.runStop tag b) s = .next ((s.takeFrame []).runStop tag b) := by
  change Host.Outcome.next (s.submit (requestFrame tag (.runStop b))) = _
  rw [submit_of_takesAtOnce h]
  rfl

/-- The reply of RUN_STOP on a state that a request taken at once leaves, settled. -/
theorem reply_settled {s u : State} (h : s.takesAtOnce) (hu : u.ctl = (s.takeFrame []).ctl) (kind tag : Byte)
    (st : Status) (fields : List Byte) : u.settle.reply kind tag st fields =
      (({ u with ctl := s.ctl } : State).settle).answered kind tag (BitVec.ofNat 8 st.code) fields := by
  rw [reply_of_taken h ((settle_ctl u).trans hu)]
  exact congrArg (·.answered kind tag (BitVec.ofNat 8 st.code) fields) (settle_withCtl u s.ctl).symm

/-- Settles O9: the request by the phase of its stream, with what it leaves of the writer (`requestStop_eq`). -/
theorem runStopStops : Obligations.RunStopStops := by
  intro tag b s h
  refine ⟨fun hb => ?_, fun i hb => ⟨fun hp => ?_, fun hp => ?_, fun n hp hstop hd hle hlt => ?_⟩⟩
  · rw [exec_runStop h, State.runStop, streamOf_none hb]
    exact congrArg Host.Outcome.next (reply_of_taken h rfl kindRunStop tag .range [])
  · have hphase : ((s.takeFrame []).stream i).phase = .armed := hp
    rw [exec_runStop h, State.runStop, streamOf_num hb]
    dsimp only
    rw [hphase]
    exact congrArg Host.Outcome.next
      (reply_of_taken h (t := (s.takeFrame []).modStream i Stream.disarm) rfl kindRunStop tag .ok (stopFields .idle 0))
  · have hrefuse : (s.takeFrame []).runStop tag b = (s.takeFrame []).refuse kindRunStop tag .state := by
      rw [State.runStop, streamOf_num hb]
      dsimp only
      rw [State.takeFrame_stream]
      obtain hp | hp | hp := hp <;> rw [hp]
    rw [exec_runStop h, hrefuse]
    exact congrArg Host.Outcome.next (reply_of_taken h rfl kindRunStop tag .state [])
  · have hphase : ((s.takeFrame []).stream i).phase = .running := hp
    have hindex : (s.stream i).writer.stopIndex = n := roundUp_eq hd hle hlt
    have hasked : ((s.takeFrame []).stream i).stopAsked .hostStop = stopTaken (s.stream i) n .hostStop := by
      rw [State.takeFrame_stream, Stream.stopAsked, if_pos hstop, hindex]
    rw [exec_runStop h, State.runStop, streamOf_num hb]
    dsimp only
    rw [hphase]
    dsimp only
    rw [requestStop_eq, hasked, State.takeFrame_stream, hindex]
    exact congrArg Host.Outcome.next (reply_settled h (u := (s.takeFrame []).setStream i _) rfl kindRunStop tag .ok
      (stopFields .closing n))

/-! ### The assertion of PFAIL# (R78) -/

/-- What the assertion of PFAIL# leaves of a stream (R78). -/
def Stream.powerFailed (x : Stream) : Stream :=
  match x.phase with
  | .running => x.stopAsked .powerFail
  | .armed => { x with phase := .idle }
  | _ => x

/-- The RUN count of a stream after the assertion of PFAIL# (R64, R78). -/
def Stream.runCount (x : Stream) (n : Nat) : Nat :=
  if x.phase = .running ∨ x.phase = .armed then min 65535 (n + 1) else n

theorem raise_run_streamCount (s : State) (i j : StreamId) : (s.raise i .run).notices.streamCount j .run =
    if j = i then min 65535 (s.notices.streamCount i .run + 1) else s.notices.streamCount j .run := by
  simpa using Notices.raiseStream_streamCount s.notices i j .run .run

/-- Everything the assertion of PFAIL# does to one stream. -/
theorem powerFailStream_eq (s : State) (i : StreamId) :
    ∃ n, s.powerFailStream i = { s.setStream i (s.stream i).powerFailed with notices := n } ∧
      n.device = s.notices.device ∧ n.mask = s.notices.mask ∧
      ∀ j, n.streamCount j .run = if j = i then (s.stream i).runCount (s.notices.streamCount i .run)
        else s.notices.streamCount j .run := by
  unfold State.powerFailStream Stream.powerFailed Stream.runCount
  cases hp : (s.stream i).phase with
  | running =>
    exact ⟨s.notices.raiseStream i .run, requestStop_eq (s.raise i .run) i .powerFail, rfl, rfl,
      raise_run_streamCount s i⟩
  | armed => exact ⟨s.notices.raiseStream i .run, rfl, rfl, rfl, raise_run_streamCount s i⟩
  | unconfigured | idle | closing =>
    refine ⟨s.notices, (State.setStream_self s i).symm, rfl, rfl, fun j => ?_⟩
    split
    · next h => simp [h]
    · rfl

/-- What the assertion of PFAIL# does to the streams of a list in turn. -/
theorem powerFailStreams_eq {l : List StreamId} (hl : l.Nodup) (s : State) :
    ∃ q n, l.foldl State.powerFailStream s = { s with streams := q, notices := n } ∧
      n.device = s.notices.device ∧ n.mask = s.notices.mask ∧
      ∀ j, q.get j = (if j ∈ l then (s.stream j).powerFailed else s.stream j) ∧
        n.streamCount j .run = if j ∈ l then (s.stream j).runCount (s.notices.streamCount j .run)
          else s.notices.streamCount j .run := by
  induction l generalizing s with
  | nil => exact ⟨s.streams, s.notices, rfl, rfl, rfl, fun j => ⟨by simp; rfl, by simp⟩⟩
  | cons i l ih =>
    obtain ⟨hi, hl⟩ := List.nodup_cons.1 hl
    obtain ⟨n1, h1, hdev1, hmask1, hcount1⟩ := powerFailStream_eq s i
    have hstream (j : StreamId) : (s.powerFailStream i).stream j =
        if j = i then (s.stream i).powerFailed else s.stream j := by
      rw [h1]; exact State.setStream_stream ..
    obtain ⟨q, n, hfold, hdev, hmask, hall⟩ := ih hl (s.powerFailStream i)
    refine ⟨q, n, by rw [List.foldl_cons, hfold, h1]; rfl, ?_, ?_, fun j => ?_⟩
    · rw [hdev, h1]; exact hdev1
    · rw [hmask, h1]; exact hmask1
    · obtain ⟨hq, hn⟩ := hall j
      have hcount : (s.powerFailStream i).notices.streamCount j .run = n1.streamCount j .run := by rw [h1]
      rw [hq, hn, hcount, hcount1, hstream]
      by_cases hji : j = i
      · subst hji
        simp [hi]
      · simp [hji]

/-- The end of a build may raise INJECTION, and no other device notice (R173). -/
theorem settle_power (s : State) : s.settle.notices.device.power = s.notices.device.power := by
  rw [State.settle, portGrant_notices]
  obtain h | ⟨e, -, -, -, h | h⟩ := startBuild_cases (s.modLink Link.selectSending) <;> rw [h]
  · rfl
  · obtain ⟨r', h | h⟩ := finishBuild_eq (s.modLink Link.selectSending) e e.freshReplay <;> rw [h] <;> rfl
  · rfl

/-- Settles O24: each stream in turn, then POWER. -/
theorem powerFailBegins : Obligations.PowerFailBegins := by
  intro s hs
  obtain ⟨q, n, hfold, hdev, hmask, hall⟩ :=
    powerFailStreams_eq (l := StreamId.all) (by decide) { s with pfail := true, powerFail := true }
  have hassert : s.pfailAssert =
      (({ s with pfail := true, powerFail := true, streams := q, notices := n } : State).raiseDev .power).settle := by
    rw [State.pfailAssert, hs]
    exact congrArg (fun t => (State.raiseDev t .power).settle) hfold
  generalize hu : (State.raiseDev { s with pfail := true, powerFail := true, streams := q, notices := n } .power) = u
    at hassert
  have hnotices : u.notices = n.raiseDevice .power := by rw [← hu]; rfl
  refine ⟨u.settle, congrArg Host.Outcome.next hassert, ?_, ?_, ?_, ?_, ?_, ?_, ?_, ?_, ?_, ?_, ?_, fun i => ?_⟩
  · rw [settle_pfail, ← hu]; rfl
  · rw [settle_powerFail, ← hu]; rfl
  · rw [settle_mem, ← hu]; rfl
  · rw [settle_place, ← hu]; rfl
  · rw [settle_ctl, ← hu]; rfl
  · rw [settle_routes, ← hu]; rfl
  · rw [settle_preview, ← hu]; rfl
  · rw [settle_capture, ← hu]; rfl
  · rw [settle_staging, ← hu]; rfl
  · rw [settle_mask, hnotices]; exact hmask
  · rw [settle_power, hnotices, ← show n.device.power = s.notices.device.power by rw [hdev]]
    exact (Notices.raiseDevice_get n .power .power).trans (if_pos rfl)
  · obtain ⟨hq, hn⟩ := hall i
    have hstream : u.settle.stream i = (s.stream i).powerFailed := by
      rw [settle_stream, ← hu]
      exact hq.trans (if_pos (StreamId.mem_all i))
    have hcount : u.settle.notices.streamCount i .run = (s.stream i).runCount (s.notices.streamCount i .run) := by
      rw [settle_streamCount, hnotices]
      exact hn.trans (if_pos (StreamId.mem_all i))
    rw [hstream, hcount]
    refine ⟨fun hr ha => ?_, fun ha => ?_, fun hr hstop => ⟨?_, fun n hd hle hlt => ?_⟩⟩
    · refine ⟨?_, if_neg (not_or.2 ⟨hr, ha⟩)⟩
      unfold Stream.powerFailed
      split
      · next h => exact absurd h hr
      · next h => exact absurd h ha
      · rfl
    · exact ⟨by simp [Stream.powerFailed, ha], if_pos (.inr ha)⟩
    · exact if_pos (.inl hr)
    · have hindex : (s.stream i).writer.stopIndex = n := roundUp_eq hd hle hlt
      simp [Stream.powerFailed, hr, Stream.stopAsked, hstop, hindex]

end Sys2Proof.Machine
end

section
/-! SUPPORT. Samples that are skipped or staged (R30, R32, R40). -/

namespace Sys2Proof.Machine

/-! ### The step past a sample (R30 step 5) -/

/-- The writer context past the sample at its index: a staging write ends with its beat (log 7). -/
def Writer.movedPast (w : Writer) (width : Width) : Writer :=
  let p := w.pastSample width
  if p.beat.isEmpty then p.endWrite else p

theorem advance_eq (s : State) (i : StreamId) : s.advance i = s.setStream i { s.stream i with
    writer := (s.stream i).writer.movedPast (s.stream i).cfg.width } := rfl

section MovedPast

variable (w : Writer) (width : Width)

@[simp] theorem Writer.movedPast_mode : (w.movedPast width).mode = w.mode := by
  unfold Writer.movedPast; dsimp only; split <;> rfl

@[simp] theorem Writer.movedPast_index : (w.movedPast width).index = w.index + 1 := by
  unfold Writer.movedPast; dsimp only; split <;> rfl

@[simp] theorem Writer.movedPast_k : (w.movedPast width).k = w.k := by
  unfold Writer.movedPast; dsimp only; split <;> rfl

@[simp] theorem Writer.movedPast_stop : (w.movedPast width).stop = w.stop := by
  unfold Writer.movedPast; dsimp only; split <;> rfl

@[simp] theorem Writer.movedPast_fillBuf : (w.movedPast width).fillBuf = w.fillBuf := by
  unfold Writer.movedPast; dsimp only; split <;> rfl

@[simp] theorem Writer.movedPast_awaiting : (w.movedPast width).awaiting = w.awaiting := by
  unfold Writer.movedPast; dsimp only; split <;> rfl

@[simp] theorem Writer.movedPast_dropStart : (w.movedPast width).dropStart = w.dropStart := by
  unfold Writer.movedPast; dsimp only; split <;> rfl

variable {w width}

/-- A sample that is not the last of its beat leaves the staging write as it is. -/
theorem Writer.movedPast_of_beat (h : width.bytes < w.beat.length) : w.movedPast width = w.pastSample width := by
  have hbeat : (w.beat.drop width.bytes).isEmpty = false := by simpa using h
  simp [Writer.movedPast, Writer.pastSample, hbeat]

/-- The last sample of a beat ends the staging write; one that has ended stays so. -/
theorem Writer.movedPast_ended (h : w.beat.length ≤ width.bytes ∨ w.write = none) :
    w.movedPast width = { w.pastSample width with write := none } := by
  unfold Writer.movedPast
  dsimp only
  split
  · rfl
  · next hbeat =>
    obtain h | h := h
    · exact absurd (List.isEmpty_iff.2 (List.drop_eq_nil_of_le h)) hbeat
    · simp [Writer.pastSample, h]

end MovedPast

/-! ### A plain sample (R30) -/

theorem mayProcess_iff (w : Writer) :
    w.mayProcess = true ↔ w.beat ≠ [] ∧ w.mode ≠ .sealing ∧ w.mode ≠ .stopped := by
  simp [Writer.mayProcess, and_assoc]

/-- No boundary is evaluated at a sample that stands at none, or whose boundary has been evaluated (R30, logs 6, 34). -/
theorem boundary_of_done {s : State} {i : StreamId} (h : (s.stream i).writer.boundaryDone = true ∨
    (s.stream i).writer.index % 131072 ≠ 0 ∨ (s.stream i).writer.index ≤ (s.stream i).startIndex) :
    s.boundary i = s := by
  have hno : (s.stream i).atBoundary = false := by
    obtain h | h | h := h
    · simp [Stream.atBoundary, h]
    · simp [Stream.atBoundary, grain, h]
    · simp [Stream.atBoundary, Nat.not_lt.2 h]
  rw [State.boundary, hno]
  rfl

/-- Stream `y` stands in its run where `x` does: phase, markers, writer index, k and stop request are the same. -/
structure Stream.SameRun (x y : Stream) : Prop where
  phase : y.phase = x.phase := by rfl
  reason : y.closeReason = x.closeReason := by rfl
  markers : y.markers = x.markers := by rfl
  lost : y.lost = x.lost := by rfl
  runLen : y.runLen = x.runLen := by rfl
  start : y.startIndex = x.startIndex := by rfl
  index : y.writer.index = x.writer.index := by rfl
  k : y.writer.k = x.writer.k := by rfl
  stop : y.writer.stop = x.writer.stop := by rfl

/-- Stream `y` is `x` with its next sample placed: it stands where `x` does, with the same lane mark pending. -/
structure Stream.Placed (x y : Stream) : Prop extends x.SameRun y where
  mark : y.pendingLane = x.pendingLane := by rfl

/-- A plain sample that is placed moves the writer past it, and nothing else follows (R30). -/
theorem sampleProcess_plain {s : State} {i : StreamId} {y : Stream} (h : PlainSample (s.stream i))
    (hmay : (s.stream i).writer.mayProcess = true) (hstall : (s.stream i).stalled = false)
    (hplace : s.placeSample i = s.setStream i y) (hy : (s.stream i).Placed y) (hfull : y.blockFull = false) :
    s.sampleProcess i = (s.setStream i { y with writer := y.writer.movedPast y.cfg.width }).settle := by
  have hadv : (s.setStream i y).advance i = s.setStream i { y with writer := y.writer.movedPast y.cfg.width } := by
    rw [advance_eq, State.setStream_setStream, State.setStream_stream_self]
  have hlength : ({ y with writer := y.writer.movedPast y.cfg.width } : Stream).lengthReached = false := by
    have hlimit : (s.stream i).writer.index + 1 ≠ indexLimit := by simpa [indexLimit] using h.limit
    unfold Stream.lengthReached
    rw [hy.runLen, hy.start, Writer.movedPast_index, hy.index]
    cases hl : (s.stream i).runLen with
    | none => simpa using hlimit
    | some l => simpa using ⟨h.length l hl, hlimit⟩
  have hstop : (y.writer.movedPast y.cfg.width).stopReached = false := by
    unfold Writer.stopReached
    rw [Writer.movedPast_stop, Writer.movedPast_index, hy.stop, hy.index]
    cases hr : (s.stream i).writer.stop with
    | none => rfl
    | some r => simpa using h.stop r hr
  have hfinish : s.finishSample i = (s.setStream i y).advance i := by
    refine finishSample_quiet hstall hplace ?_ ?_ ?_ ?_
    · rw [State.setStream_stream_self, hy.mark, hy.index]; exact h.mark
    · rw [hadv, State.setStream_stream_self, Stream.blockFull, Writer.movedPast_mode]; exact hfull
    · rw [hadv, State.setStream_stream_self]; exact hlength
    · rw [hadv, State.setStream_stream_self]; exact hstop
  rw [State.sampleProcess, if_pos hmay, boundary_of_done h.boundary]
  dsimp only
  rw [if_pos hmay, hfinish, hadv]

/-- The tail block of a plain sample has room (R34). -/
theorem blockFull_of_plain {x : Stream} (h : PlainSample x) : x.blockFull = false := by
  unfold Stream.blockFull Stream.tail
  split
  · simp
  · next e he =>
    have hroom := h.room e he
    have hlt : e.kept < blockBytes / x.cfg.width.bytes := (Nat.lt_succ_self _).trans hroom
    simp [Nat.not_le.2 hlt]

/-! ### A sample that is skipped or waits (R30, R32, R40) -/

theorem keeps_iff (w : Writer) : w.keeps = true ↔ w.mode ≠ .dropping ∧ 2 ^ w.k ∣ w.index := by
  simp [Writer.keeps, Nat.dvd_iff_mod_eq_zero]

theorem QuietSample.beat_ne_nil {x : Stream} (h : QuietSample x) : x.writer.beat ≠ [] := fun hb => by
  simpa [hb] using h.beat

/-- A sample that is not kept moves the writer alone. -/
theorem sampleProcess_skipped {s : State} {i : StreamId} (h : QuietSample (s.stream i))
    (hmay : (s.stream i).writer.mayProcess = true) (hkeeps : (s.stream i).writer.keeps = false) :
    s.sampleProcess i = (s.setStream i { s.stream i with
      writer := (s.stream i).writer.pastSample (s.stream i).cfg.width }).settle := by
  have hplace : s.placeSample i = s.setStream i (s.stream i) := by
    rw [State.setStream_self, State.placeSample, hkeeps]; rfl
  rw [sampleProcess_plain h.toPlainSample hmay (by simp [Stream.stalled, hkeeps]) hplace {}
    (blockFull_of_plain h.toPlainSample), Writer.movedPast_of_beat h.beat]

/-- A kept sample that would fill the buffer while the other one awaits flush is not processed (R32). -/
theorem sampleProcess_stalled {s : State} {i : StreamId} (h : PlainSample (s.stream i))
    (hmay : (s.stream i).writer.mayProcess = true) (hstall : (s.stream i).stalled = true) :
    s.sampleProcess i = s.settle := by
  rw [State.sampleProcess, if_pos hmay, boundary_of_done h.boundary]
  dsimp only
  rw [if_pos hmay, State.finishSample, if_pos hstall]

/-! ### A sample that is staged (R32) -/

/-- The next sample of stream `i` is a plain one to be kept, met in FILLING, and whole in the beat; it takes no flip. -/
structure Stages (s : State) (i : StreamId) : Prop where
  sample : PlainSample (s.stream i)
  beat : (s.stream i).cfg.width.bytes ≤ (s.stream i).writer.beat.length
  plain : s.stagesPlain i
  mode : (s.stream i).writer.mode = .filling
  kept : 2 ^ (s.stream i).writer.k ∣ (s.stream i).writer.index

namespace Stages

variable {s : State} {i : StreamId} (h : Stages s i)
include h

theorem keeps : (s.stream i).writer.keeps = true := (keeps_iff _).2 ⟨by simp [h.mode], h.kept⟩

theorem mayProcess : (s.stream i).writer.mayProcess = true := by
  refine (mayProcess_iff _).2 ⟨fun hb => ?_, by simp [h.mode], by simp [h.mode]⟩
  have hbeat := h.beat
  have := width_bytes_pos (s.stream i).cfg.width
  rw [hb, List.length_nil] at hbeat
  omega

/-- The filling buffer counts the bytes of one sample more. -/
theorem staged_count : ((s.stream i).writer.staged (s.stream i).cfg.width).fillBuf.count =
    (s.stream i).writer.fillBuf.count + (s.stream i).cfg.width.bytes := by
  simp [Writer.staged, StageBuf.append, h.beat]

/-- The sample joins the entry at the end of the list and the filling buffer (R32). -/
theorem placeSample_eq {list : List Entry} {e : Entry} (hcap : (s.stream i).capture = list ++ [e]) :
    s.placeSample i = s.setStream i { s.stream i with
      capture := list ++ [{ e with kept := e.kept + 1 }],
      writer := ((s.stream i).writer.staged (s.stream i).cfg.width).swapIfFull } := by
  have hplain := h.plain
  unfold State.stagesPlain at hplain
  have hflip : s.takeStagingFlip i = s := by
    unfold State.takeStagingFlip
    cases hw : (s.stream i).writer.write with
    | none => rw [hw] at hplain; simp [show s.integ.staging.arming = none from hplain]
    | some d => simp
  have hstage : (s.stream i).writer.stage ((s.stream i).writer.beat.take (s.stream i).cfg.width.bytes)
      s.integ.staging.arming = (s.stream i).writer.staged (s.stream i).cfg.width := by
    rw [Writer.stage_plain _ hplain, Writer.staged, Writer.writeOf]
    cases hw : (s.stream i).writer.write with
    | none => rw [hw] at hplain; rw [show s.integ.staging.arming = none from hplain]
    | some d => rfl
  unfold State.placeSample
  dsimp only
  rw [if_pos h.keeps, if_pos h.mode, State.stageKept, hflip, State.modStream, hstage, hcap, assignSample,
    modifyLast_append]

/-- Everything the sample does: `v` is the writer context with the sample staged and its buffer swapped if full. -/
theorem sampleProcess_eq {list : List Entry} {e : Entry} (hcap : (s.stream i).capture = list ++ [e])
    (hstall : (s.stream i).stalled = false) {v : Writer}
    (hv : ((s.stream i).writer.staged (s.stream i).cfg.width).swapIfFull = v) :
    s.sampleProcess i = (s.setStream i { s.stream i with
      capture := list ++ [{ e with kept := e.kept + 1 }],
      writer := v.movedPast (s.stream i).cfg.width }).settle := by
  have hindex : v.index = (s.stream i).writer.index := by
    rw [← hv, Writer.swapIfFull]; split <;> rfl
  have hstop : v.stop = (s.stream i).writer.stop := by
    rw [← hv, Writer.swapIfFull]; split <;> rfl
  have hk : v.k = (s.stream i).writer.k := by
    rw [← hv, Writer.swapIfFull]; split <;> rfl
  have hroom : e.kept + 1 < 262144 / (s.stream i).cfg.width.bytes := h.sample.room e (by simp [hcap])
  have hplace := h.placeSample_eq hcap
  rw [hv] at hplace
  rw [sampleProcess_plain h.sample h.mayProcess hstall hplace { index := hindex, k := hk, stop := hstop }
    (by simp [Stream.blockFull, Stream.tail, blockBytes, Nat.not_le.2 hroom])]

/-- Short of 4,096 bytes the buffer goes on filling. -/
theorem swapIfFull_short (hc : (s.stream i).writer.fillBuf.count + (s.stream i).cfg.width.bytes < 4096) :
    ((s.stream i).writer.staged (s.stream i).cfg.width).swapIfFull =
      (s.stream i).writer.staged (s.stream i).cfg.width :=
  if_neg (by rw [h.staged_count]; exact Nat.not_le.2 hc)

omit h in
theorem not_stalled_short (hc : (s.stream i).writer.fillBuf.count + (s.stream i).cfg.width.bytes < 4096) :
    (s.stream i).stalled = false := by
  simp [Stream.stalled, stageBytes, Nat.not_le.2 hc]

end Stages

/-- Settles O26: the samples that are skipped, that wait and that are staged, each by what the next step finds. -/
theorem samplesAreSkippedOrStaged : Obligations.SamplesAreSkippedOrStaged := by
  intro i s x w bytes
  refine ⟨fun hquiet => ⟨fun hskip => ?_, fun list e hm hk hc hplain hcap => ?_, fun hm hk ha hc => ?_⟩,
    fun list e hsample hbeat hplain hm hk hcap => ?_⟩
  · refine congrArg Host.Outcome.next (sampleProcess_skipped hquiet ?_ ?_)
    · refine (mayProcess_iff _).2 ⟨hquiet.beat_ne_nil, ?_⟩
      obtain hm | ⟨hm | hm, -⟩ := hskip <;> simp [show (s.stream i).writer.mode = _ from hm]
    · refine Bool.eq_false_iff.2 fun hkeeps => ?_
      obtain ⟨hnot, hdvd⟩ := (keeps_iff _).1 hkeeps
      exact hskip.elim hnot fun h => h.2 hdvd
  · have h : Stages s i := ⟨hquiet.toPlainSample, Nat.le_of_lt hquiet.beat, hplain, hm, hk⟩
    refine congrArg Host.Outcome.next
      ((h.sampleProcess_eq hcap (Stages.not_stalled_short hc) (h.swapIfFull_short hc)).trans ?_)
    rw [Writer.movedPast_of_beat (w := (s.stream i).writer.staged _) hquiet.beat]
  · have hkeeps : (s.stream i).writer.keeps = true := (keeps_iff _).2 ⟨by rw [hm]; decide, hk⟩
    refine congrArg Host.Outcome.next (sampleProcess_stalled hquiet.toPlainSample
      ((mayProcess_iff _).2 ⟨hquiet.beat_ne_nil, by rw [hm]; decide, by rw [hm]; decide⟩) ?_)
    have hm' : (s.stream i).writer.mode = .filling := hm
    have ha' : (s.stream i).writer.awaiting ≠ [] := ha
    have hc' : stageBytes ≤ (s.stream i).writer.fillBuf.count + (s.stream i).cfg.width.bytes := hc
    simp [Stream.stalled, hkeeps, hm', ha', hc']
  · have h : Stages s i := ⟨hsample, hbeat, hplain, hm, hk⟩
    intro on
    refine ⟨fun hlast hc => ?_, fun ha hc => ?_⟩
    · refine congrArg Host.Outcome.next
        ((h.sampleProcess_eq hcap (Stages.not_stalled_short hc) (h.swapIfFull_short hc)).trans ?_)
      rw [Writer.movedPast_ended (w := (s.stream i).writer.staged _) (.inl hlast)]
    · have hswap : ((s.stream i).writer.staged (s.stream i).cfg.width).swapIfFull =
          ((s.stream i).writer.staged (s.stream i).cfg.width).swap :=
        if_pos (by rw [h.staged_count]; exact hc.ge)
      have hstall : (s.stream i).stalled = false := by
        simp [Stream.stalled, show (s.stream i).writer.awaiting = [] from ha]
      refine congrArg Host.Outcome.next ((h.sampleProcess_eq hcap hstall hswap).trans ?_)
      rw [Writer.movedPast_ended (.inr rfl)]
      have hawait : ((s.stream i).writer.staged (s.stream i).cfg.width).awaiting = [] := ha
      simp [on, Writer.swap, Writer.endWrite, Writer.pastSample, hawait, x, w]

end Sys2Proof.Machine
end

section
/-! SUPPORT. A granted flush: the words it writes, and the seal that its last one makes (R32, R33, R166). -/

namespace Sys2Proof.Machine

/-! ### The words of a flush (R33, R158, R166) -/

@[simp] theorem flushWord_length (b : StageBuf) (w : Nat) : (b.flushWord w).length = 8 := by simp [StageBuf.flushWord]

theorem flushWord_getD (b : StageBuf) (w : Nat) {j : Nat} (hj : j < 8) :
    (b.flushWord w).getD j 0#8 = if 8 * w + j < b.count then b.data.getD (8 * w + j) 0#8 else 0#8 := by
  simp [StageBuf.flushWord, List.getD_eq_getElem?_getD, hj]

/-- Capture memory with the first `n` words of a flush written clean from word `base` on (R158, R166). -/
def Memory.writeWords (m : Memory) (b : StageBuf) (base n : Nat) : Memory :=
  (List.range n).foldl (fun m w => m.writeWord (base + w) (b.flushWord w) .clean) m

/-- What the first `n` words of a flush to byte address 8 × `base` leave of capture memory. -/
structure FlushedWords (m m' : Memory) (b : StageBuf) (base n : Nat) : Prop where
  wf : m'.wf = true
  byte : ∀ a, m'.byteAt a =
    if 8 * base ≤ a ∧ a < 8 * (base + n) then
      if a - 8 * base < b.count then b.data.getD (a - 8 * base) 0#8 else 0#8
    else m.byteAt a
  err : ∀ w, m'.errAt w = if base ≤ w ∧ w < base + n then WordErr.clean else m.errAt w

/-- One word more. -/
theorem FlushedWords.step {m m' : Memory} {b : StageBuf} {base n : Nat} (h : FlushedWords m m' b base n) :
    FlushedWords m (m'.writeWord (base + n) (b.flushWord n) .clean) b base (n + 1) where
  wf := Memory.writeWord_wf h.wf ..
  byte a := by
    rw [Memory.writeWord_byteAt h.wf, flushWord_length, h.byte]
    by_cases hw : 8 * (base + n) ≤ a ∧ a < 8 * (base + n) + 8
    · rw [if_pos hw, flushWord_getD b n (by omega), show 8 * n + (a - 8 * (base + n)) = a - 8 * base by omega,
        if_pos (show 8 * base ≤ a ∧ a < 8 * (base + (n + 1)) by omega)]
    · rw [if_neg hw]
      by_cases hb : 8 * base ≤ a ∧ a < 8 * (base + n)
      · rw [if_pos hb, if_pos (show 8 * base ≤ a ∧ a < 8 * (base + (n + 1)) by omega)]
      · rw [if_neg hb, if_neg (by omega)]
  err w := by
    rw [Memory.writeWord_errAt h.wf, h.err]
    by_cases hw : w = base + n
    · rw [if_pos hw, if_pos (by omega)]
    · rw [if_neg hw]
      by_cases hb : base ≤ w ∧ w < base + n
      · rw [if_pos hb, if_pos (by omega)]
      · rw [if_neg hb, if_neg (by omega)]

/-- With no poison unit and no armed flip each word is written clean, in turn. -/
theorem writeFlushWords_clean (b : StageBuf) (addr : Nat) (m : Memory) (n : Nat) (ws : List Nat) :
    writeFlushWords b addr [] none m n ws =
      ws.foldl (fun m w => m.writeWord (addr / 8 + w) (b.flushWord w) .clean) m := by
  induction ws generalizing m n with
  | nil => rfl
  | cons w ws ih =>
    unfold writeFlushWords
    rw [List.foldl_cons, ← ih _ (n + 1)]
    cases n <;> rfl

theorem flushedWords (m : Memory) (hm : m.wf = true) (b : StageBuf) (base n : Nat) :
    FlushedWords m (m.writeWords b base n) b base n := by
  induction n with
  | zero => exact ⟨hm, fun a => (if_neg (by omega)).symm, fun w => (if_neg (by omega)).symm⟩
  | succ n ih => rw [Memory.writeWords, List.range_succ, List.foldl_append]; exact ih.step

/-- A flush of words with sound parity writes each of them clean and counts nothing (R166). -/
theorem writeFlush_sound {s : State} {b : StageBuf} (addr : Nat) (harm : s.integ.capture.arming = none)
    (hok : ∀ w < b.words, b.flushOk w = true) :
    s.writeFlush b addr = { s with mem := s.mem.writeWords b (addr / 8) b.words } := by
  have hbad : b.badWords = [] := List.filter_eq_nil_iff.2 fun w hw => by simp [hok w (List.mem_range.1 hw)]
  have hunits : b.poisonUnits addr = [] := by rw [StageBuf.poisonUnits, hbad]; rfl
  unfold State.writeFlush
  rw [hunits, harm]
  exact congrArg (fun m => ({ s with mem := m } : State)) (writeFlushWords_clean b addr s.mem 0 _)

/-! ### The end of a flush (R30, R32, R33) -/

theorem stopReached_iff (w : Writer) : w.stopReached = true ↔ ∃ r, w.stop = some r ∧ r.index = w.index := by
  unfold Writer.stopReached
  cases w.stop <;> simp

/-- The seal of a FILLING tail (R11, R33). -/
theorem makeSeal_eq {x : Stream} {list : List Entry} {e : Entry} (hcap : x.capture = list ++ [e])
    (hst : e.st = .filling) : x.makeSeal =
      let y : Stream := { x with
        capture := list ++ [{ e with st := .full }],
        writer := { x.writer with mode := .noBlock, filling := none, fillOffset := 0 } }
      if x.writer.stopReached then y.finishStop else y := by
  rw [Stream.makeSeal, hcap, sealTail, modifyLast_append, hst]
  rfl

/-- A flush that is not the last of a seal makes none. -/
theorem afterFlush_of_open {s : State} {i : StreamId} {y : Stream}
    (h : y.writer.mode ≠ .sealing ∨ y.writer.awaiting ≠ []) : (s.setStream i y).afterFlush i = s.setStream i y := by
  unfold State.afterFlush
  dsimp only
  rw [State.setStream_stream_self, if_neg fun ⟨hm, ha⟩ => h.elim (· hm) (· ha)]

/-- The last flush of a seal makes it; no sample waits for it (R33). -/
theorem afterFlush_of_last {s : State} {i : StreamId} {y : Stream} (hm : y.writer.mode = .sealing)
    (ha : y.writer.awaiting = []) (hb : y.writer.boundaryDone = false) :
    (s.setStream i y).afterFlush i = s.setStream i y.makeSeal := by
  have hdone : y.makeSeal.writer.boundaryDone = false := by
    unfold Stream.makeSeal
    dsimp only
    split
    · rfl
    · exact hb
  unfold State.afterFlush
  dsimp only
  rw [State.setStream_stream_self, if_pos ⟨hm, ha⟩, State.modStream_stream_self, State.setStream_stream_self, hdone]
  simp [State.modStream, State.setStream_setStream]

/-- A granted flush of a stream's oldest awaiting buffer, with its words sound. -/
theorem execFlushComplete_eq {s : State} {i : StreamId} {addr : Nat} {b : StageBuf} {rest : List StageBuf}
    (hg : s.port.granted = some (.flush i addr none)) (ha : (s.stream i).writer.awaiting = b :: rest)
    (hin : addr + 8 * b.words ≤ 17179869184) {m : Memory} (hm : s.writeFlush b addr = { s with mem := m }) :
    execFlushComplete [] s = .next
      ((({ s with mem := m, port := { s.port with granted := none } } : State).setStream i { s.stream i with
        writer := { (s.stream i).writer with
          awaiting := rest, fillOffset := (s.stream i).writer.fillOffset + 8 * b.words } }).afterFlush i).settle := by
  have hlen : s.flushLen i none = 8 * b.words := by simp [State.flushLen, ha]
  have hflushed : (s.stream i).writer.flushed = { (s.stream i).writer with
      awaiting := rest, fillOffset := (s.stream i).writer.fillOffset + 8 * b.words } := by
    rw [Writer.flushed, ha]
  unfold execFlushComplete
  rw [hg]
  dsimp only
  rw [hlen, inCapture_of_le hin, if_pos rfl, show s.upsets [] = s from rfl, State.flushDone, ha]
  dsimp only
  rw [hm, ← hflushed]
  rfl

/-- Settles O32: the words written one by one (`flushedWords`), then the seal by its cases. -/
theorem flushesWriteTheirBuffer : Obligations.FlushesWriteTheirBuffer := by
  refine ⟨fun us s h => ?_, ?_⟩
  · change execFlushComplete us s = _
    unfold execFlushComplete
    split
    · next i a o hg => exact absurd hg (h i a o)
    · rfl
  · intro i addr b rest s x w size hwf hg ha haddr hin harm hparity
    have hwords : size = 8 * b.words := rfl
    have hok (n : Nat) (hn : n < b.words) : b.flushOk n = true := by
      have hpar := hparity n (by omega)
      simp [StageBuf.flushOk, hpar]
    have hcount : b.count ≤ 8 * b.words := by
      rw [StageBuf.words]; omega
    have hm := flushedWords s.mem hwf b (addr / 8) b.words
    have hwrite := writeFlush_sound addr harm hok
    generalize s.mem.writeWords b (addr / 8) b.words = m at hm hwrite
    have hexec := execFlushComplete_eq hg ha hin hwrite
    refine ⟨m, fun a => ?_, fun n => ?_, ?_⟩
    · rw [hm.byte, show 8 * (addr / 8) = addr by omega, show 8 * (addr / 8 + b.words) = addr + size by omega]
      by_cases h1 : addr ≤ a ∧ a < addr + b.count
      · rw [if_pos (by omega), if_pos (by omega), if_pos h1]
      · rw [if_neg h1]
        by_cases h2 : addr + b.count ≤ a ∧ a < addr + size
        · rw [if_pos (by omega), if_neg (by omega), if_pos h2]
        · rw [if_neg (by omega), if_neg h2]
    · rw [hm.err, show size / 8 = b.words by omega]
    · intro freed past
      constructor
      · intro hopen
        exact hexec.trans (congrArg (Host.Outcome.next ·.settle)
          (afterFlush_of_open (s := freed) (y := { s.stream i with writer := past }) hopen))
      · intro list e hmode hrest hdone hcap hst full free
        have hseal : exec (.flushComplete []) s = .next
            (freed.setStream i ({ s.stream i with writer := past } : Stream).makeSeal).settle :=
          hexec.trans (congrArg (Host.Outcome.next ·.settle)
            (afterFlush_of_last (s := freed) (y := { s.stream i with writer := past }) hmode hrest hdone))
        rw [makeSeal_eq (x := { s.stream i with writer := past }) hcap hst] at hseal
        refine ⟨fun hno => ?_, fun r hr hat => ?_⟩
        · have hnot : past.stopReached ≠ true := fun h => by
            obtain ⟨r, hr, hat⟩ := (stopReached_iff past).1 h
            exact hno r hr hat
          exact hseal.trans (congrArg (fun y => Host.Outcome.next (freed.setStream i y).settle) (if_neg hnot))
        · have hreached : past.stopReached = true := (stopReached_iff past).2 ⟨r, hr, hat⟩
          exact hseal.trans (congrArg (fun y => Host.Outcome.next (freed.setStream i y).settle) (if_pos hreached))

end Sys2Proof.Machine
end

section
/-! SUPPORT. What a sample leaves of its run: the writer index, k, the stop request and the markers (R30, R33, R43, R56,
R64, R70). -/

namespace Sys2Proof.Machine

/-! ### A stream that goes on in its run -/

theorem Stream.SameRun.trans {x y z : Stream} (h : x.SameRun y) (h' : y.SameRun z) : x.SameRun z where
  phase := h'.phase.trans h.phase
  reason := h'.reason.trans h.reason
  markers := h'.markers.trans h.markers
  lost := h'.lost.trans h.lost
  runLen := h'.runLen.trans h.runLen
  start := h'.start.trans h.start
  index := h'.index.trans h.index
  k := h'.k.trans h.k
  stop := h'.stop.trans h.stop

theorem makeSeal_sameRun (x : Stream) : x.SameRun x.makeSeal := by
  unfold Stream.makeSeal
  dsimp only
  split
  · exact {}
  · exact {}

theorem sealStarted_sameRun (x : Stream) : x.SameRun x.sealStarted := by
  unfold Stream.sealStarted
  dsimp only
  split
  · exact .trans (y := { x with writer := { x.writer with mode := .sealing, ageRunning := false, write := none } }) {}
      (makeSeal_sameRun _)
  · split
    · exact {}
    · exact {}

theorem writerStopped_sameRun (x : Stream) : x.SameRun x.writerStopped := by
  unfold Stream.writerStopped
  split
  · exact sealStarted_sameRun x
  · exact {}
  · exact {}
  · exact {}
  · exact {}

/-- A stop request is recorded, and a writer that is at its stop index stops without leaving its run (R43). -/
theorem stopAsked_sameRun {x : Stream} (h : x.writer.stop = none) (reason : CloseReason) :
    (x.stopHeld x.writer.stopIndex reason).SameRun (x.stopAsked reason) := by
  rw [Stream.stopAsked, if_pos h]
  obtain hlt | hat := (le_stopIndex x.writer).lt_or_eq
  · rw [stopTaken_below hlt]; exact {}
  · rw [← hat, stopTaken_at]; exact writerStopped_sameRun _

/-! ### A step that leaves a stream at its sample -/

/-- `t` is `s` with the block, the buffers and the mode of stream `i`'s writer changed at most: the stream stands at the
same sample of its run, and neither its RUN nor its DECIMATION count has changed. -/
structure State.Stands (s t : State) (i : StreamId) : Prop where
  placed : (s.stream i).Placed (t.stream i)
  count : ∀ c, c = .run ∨ c = .decimation → t.notices.streamCount i c = s.notices.streamCount i c

namespace State.Stands

variable {s t u : State} {i : StreamId}

theorem refl (s : State) (i : StreamId) : s.Stands s i := ⟨{}, fun _ _ => rfl⟩

theorem trans (h : s.Stands t i) (h' : t.Stands u i) : s.Stands u i where
  placed := { h.placed.toSameRun.trans h'.placed.toSameRun with mark := h'.placed.mark.trans h.placed.mark }
  count c hc := (h'.count c hc).trans (h.count c hc)

theorem setStream {y : Stream} (h : (s.stream i).Placed y) : s.Stands (s.setStream i y) i :=
  ⟨by rw [State.setStream_stream_self]; exact h, fun _ _ => rfl⟩

theorem raise (s : State) (i : StreamId) {c : StreamCat} (h : c ≠ .run ∧ c ≠ .decimation) :
    s.Stands (s.raise i c) i where
  placed := {}
  count d hd := by
    have hne : d ≠ c := by rintro rfl; exact hd.elim h.1 h.2
    exact (Notices.raiseStream_streamCount ..).trans (if_neg fun h => hne h.2)

end State.Stands

theorem take_stands {s t : State} {i : StreamId} {first k : Nat} {gap : Option Gap}
    (h : s.take i first k gap = some t) : s.Stands t i := by
  obtain ⟨b, rest, -, rfl⟩ := take_some h
  dsimp only
  split
  · exact .trans (.setStream {}) (.raise _ i (by decide))
  · exact .setStream {}

theorem victimTake_stands {s t : State} {i : StreamId} {first k : Nat} (h : s.victimTake i first k = some t) :
    s.Stands t i := by
  unfold State.victimTake at h
  split at h
  · cases h
  · cases h
    exact .trans (.setStream {}) (.raise _ i (by decide))

theorem holdBlock_stands (s : State) (i : StreamId) : s.Stands (s.modStream i Stream.holdBlock) i := .setStream {}

theorem enterDropping_stands (s : State) (i : StreamId) : s.Stands (s.enterDropping i) i :=
  .trans (.setStream {}) (.raise _ i (by decide))

theorem getBlock_stands (s : State) (i : StreamId) : s.Stands (s.getBlock i).1 i := by
  unfold State.getBlock
  dsimp only
  split
  · next h => exact (take_stands h).trans (holdBlock_stands ..)
  · split
    · split
      · next h => exact (victimTake_stands h).trans (holdBlock_stands ..)
      · exact enterDropping_stands s i
    · exact enterDropping_stands s i

theorem takeStagingFlip_stands (s : State) (i : StreamId) : s.Stands (s.takeStagingFlip i) i := by
  unfold State.takeStagingFlip
  split
  · exact ⟨{}, fun c _ => Notices.raiseDevice_streamCount s.notices .injection i c⟩
  · exact .refl s i

theorem stageKept_stands (s : State) (i : StreamId) (bytes : List Byte) : s.Stands (s.stageKept i bytes) i := by
  refine (takeStagingFlip_stands s i).trans (.setStream ?_)
  have hindex (w : Writer) : w.swapIfFull.index = w.index := by unfold Writer.swapIfFull; split <;> rfl
  have hstop (w : Writer) : w.swapIfFull.stop = w.stop := by unfold Writer.swapIfFull; split <;> rfl
  exact { index := hindex _, k := swapIfFull_k _, stop := hstop _ }

theorem placeSample_stands (s : State) (i : StreamId) : s.Stands (s.placeSample i) i := by
  unfold State.placeSample
  dsimp only
  split
  · split
    · exact stageKept_stands ..
    · split
      · exact (getBlock_stands s i).trans (stageKept_stands ..)
      · exact getBlock_stands s i
  · exact .refl s i

theorem resume_stands (s : State) (i : StreamId) : s.Stands (s.resume i) i := by
  unfold State.resume
  dsimp only
  split
  · split
    · next h => exact (take_stands h).trans (holdBlock_stands ..)
    · exact .refl s i
  · exact .refl s i

/-! ### The lane mark (R56) -/

/-- What a marker asked for on a stream leaves of it: a RUNNING one enters it, or counts it lost at a full list. -/
def Stream.marked (x : Stream) (index : Nat) (src : MarkSource) : Stream :=
  if x.phase = .running then
    if x.markers.length < maxMarkers then { x with markers := x.markers ++ [⟨index, src, x.lost⟩], lost := 0 }
    else { x with lost := inc16 x.lost }
  else x

/-- Everything a marker does; a lost one is noticed. -/
theorem latchMarker_eq (s : State) (i : StreamId) (index : Nat) (src : MarkSource) :
    ∃ n, s.latchMarker i index src = { s.setStream i ((s.stream i).marked index src) with notices := n } ∧
      ∀ c, c ≠ .markerLost → n.streamCount i c = s.notices.streamCount i c := by
  unfold State.latchMarker Stream.marked
  dsimp only
  split
  · split
    · exact ⟨s.notices, rfl, fun _ _ => rfl⟩
    · exact ⟨s.notices.raiseStream i .markerLost, rfl, fun c hc =>
        (Notices.raiseStream_streamCount ..).trans (if_neg fun h => hc h.2)⟩
  · exact ⟨s.notices, (State.setStream_self s i).symm, fun _ _ => rfl⟩

/-- What the entry of a pending lane mark leaves of a stream. -/
def Stream.laneMarked (x : Stream) : Stream :=
  if x.pendingLane = some x.writer.index then { x.marked x.writer.index .lane with pendingLane := none } else x

theorem modStream_setStream (s : State) (i : StreamId) (y : Stream) (f : Stream → Stream) :
    (s.setStream i y).modStream i f = s.setStream i (f y) := by
  rw [State.modStream, State.setStream_setStream, State.setStream_stream_self]

/-- Everything the entry of a pending lane mark does. -/
theorem enterLaneMark_eq (s : State) (i : StreamId) :
    ∃ n, s.enterLaneMark i = { s.setStream i (s.stream i).laneMarked with notices := n } ∧
      ∀ c, c ≠ .markerLost → n.streamCount i c = s.notices.streamCount i c := by
  unfold State.enterLaneMark Stream.laneMarked
  dsimp only
  split
  · obtain ⟨n, hlatch, hcount⟩ := latchMarker_eq s i (s.stream i).writer.index .lane
    refine ⟨n, ?_, hcount⟩
    rw [hlatch]
    exact modStream_setStream { s with notices := n } i _ _
  · exact ⟨s.notices, (State.setStream_self s i).symm, fun _ _ => rfl⟩

/-- A lane mark touches the markers, the lost count and the mark alone. -/
theorem laneMarked_eq (x : Stream) : ∃ markers lost pending, x.laneMarked =
    { x with markers := markers, lost := lost, pendingLane := pending } := by
  unfold Stream.laneMarked Stream.marked
  split
  · split
    · split
      · exact ⟨_, _, none, rfl⟩
      · exact ⟨x.markers, _, none, rfl⟩
    · exact ⟨x.markers, x.lost, none, rfl⟩
  · exact ⟨x.markers, x.lost, x.pendingLane, rfl⟩

/-! ### The step past a sample, and what ends it (R30, R34, R70) -/

/-- A stream past the sample at its index, with the seal of a full block started (R34). -/
def Stream.past (x : Stream) : Stream :=
  let y : Stream := { x with writer := x.writer.movedPast x.cfg.width }
  if y.blockFull then y.sealStarted else y

/-- The run length or the index limit stops the run here (R70). -/
def Stream.endsByLength (x : Stream) : Bool := x.lengthReached && x.phase == .running && x.writer.stop.isNone

/-- A stream past a sample with the LENGTH stop requested if it is due. -/
def Stream.lengthStopped (x : Stream) : Stream := if x.endsByLength then x.stopAsked .length else x

/-- A stream past a sample with the stops that are due there made (R43, R70). -/
def Stream.ended (x : Stream) : Stream :=
  if x.lengthStopped.writer.stopReached then x.lengthStopped.writerStopped else x.lengthStopped

/-- Everything the rest of a sample does, once it is placed and its mark entered: `u` is the state there. -/
theorem finishSample_eq {s u : State} {i : StreamId} (hstall : (s.stream i).stalled = false)
    (hu : (s.placeSample i).enterLaneMark i = u) :
    s.finishSample i = (if (u.stream i).past.endsByLength then u.raise i .run else u).setStream i
      (u.stream i).past.ended := by
  have hpast : (if ((u.advance i).stream i).blockFull then (u.advance i).startSeal i else u.advance i) =
      u.setStream i (u.stream i).past := by
    rw [startSeal_eq, advance_eq, State.setStream_stream_self, Stream.past]
    dsimp only
    split
    · rw [State.setStream_setStream]
    · rfl
  have hlength : (u.setStream i (u.stream i).past).lengthStop i =
      (if (u.stream i).past.endsByLength then u.raise i .run else u).setStream i (u.stream i).past.lengthStopped := by
    unfold State.lengthStop Stream.lengthStopped Stream.endsByLength
    rw [State.setStream_stream_self]
    dsimp only
    split
    · rw [requestStop_eq, State.raise_stream, State.setStream_stream_self]
      exact congrArg (State.raise · i .run) (State.setStream_setStream u i _ _)
    · rfl
  unfold State.finishSample
  rw [if_neg (by simp [hstall]), hu]
  dsimp only
  rw [hpast, hlength, State.setStream_stream_self, Stream.ended]
  split
  · rw [stopWriter_eq, State.setStream_setStream, State.setStream_stream_self]
  · rfl

theorem past_sameRun (x : Stream) :
    Stream.SameRun { x with writer := x.writer.movedPast x.cfg.width } x.past := by
  unfold Stream.past
  dsimp only
  split
  · exact sealStarted_sameRun _
  · exact {}

theorem ended_sameRun (x : Stream) : x.lengthStopped.SameRun x.ended := by
  unfold Stream.ended
  split
  · exact writerStopped_sameRun _
  · exact {}

/-- A run that goes on past the sample. -/
theorem ended_of_goesOn {x : Stream} (h : x.endsByLength = false) : x.SameRun x.ended := by
  have hsame := ended_sameRun x
  rwa [Stream.lengthStopped, if_neg (by simp [h])] at hsame

/-- A run whose length stops it at the sample (R70). -/
theorem ended_of_length {x : Stream} (h : x.endsByLength = true) :
    (x.stopHeld x.writer.stopIndex .length).SameRun x.ended := by
  have hstop : x.writer.stop = none := by
    obtain ⟨-, hstop⟩ : _ ∧ x.writer.stop = none := by simpa [Stream.endsByLength] using h
    exact hstop
  have hsame := ended_sameRun x
  rw [Stream.lengthStopped, if_pos h] at hsame
  exact (stopAsked_sameRun hstop .length).trans hsame

/-- The length never moves the writer, changes k or enters a marker. -/
theorem ended_place (x : Stream) : x.ended.writer.index = x.writer.index ∧ x.ended.writer.k = x.writer.k ∧
    x.ended.markers = x.markers ∧ x.ended.lost = x.lost := by
  cases h : x.endsByLength with
  | false =>
    have hended := ended_of_goesOn h
    exact ⟨hended.index, hended.k, hended.markers, hended.lost⟩
  | true =>
    have hended := ended_of_length h
    exact ⟨hended.index, hended.k, hended.markers, hended.lost⟩

/-- A DROPPING writer at the stop index of its run length stops there and then (R43, R45, R70). -/
theorem ended_of_dropping {x : Stream} (h : x.endsByLength = true) (hm : x.writer.mode = .dropping)
    (hat : x.writer.stopIndex = x.writer.index) :
    x.ended.writer.mode = .stopped ∧ x.ended.endIndex = x.writer.index := by
  have hstop : x.writer.stop = none := by
    obtain ⟨-, hstop⟩ : _ ∧ x.writer.stop = none := by simpa [Stream.endsByLength] using h
    exact hstop
  have hasked : x.lengthStopped = (x.stopHeld x.writer.index .length).finishStop := by
    rw [Stream.lengthStopped, if_pos h, Stream.stopAsked, if_pos hstop, hat, stopTaken_at, Stream.writerStopped]
    simp [Stream.stopHeld, hm]
  have hstays : x.lengthStopped.writerStopped = x.lengthStopped := by
    rw [Stream.writerStopped, hasked]; rfl
  rw [Stream.ended, hstays, ite_self, hasked]
  exact ⟨rfl, rfl⟩

section Passed

variable {s : State} {i : StreamId} (hstall : (s.stream i).stalled = false)
include hstall

/-- What a processed sample leaves of its stream. -/
theorem finishSample_stream :
    (s.finishSample i).stream i = ((s.placeSample i).stream i).laneMarked.past.ended := by
  obtain ⟨n, hmark, -⟩ := enterLaneMark_eq (s.placeSample i) i
  rw [finishSample_eq hstall hmark, State.setStream_stream_self]
  exact congrArg (fun y => Stream.ended (Stream.past y)) (State.setStream_stream_self ..)

/-- What a processed sample leaves of the RUN and DECIMATION counts of its stream (R64). -/
theorem finishSample_count {c : StreamCat} (hc : c = .run ∨ c = .decimation) :
    (s.finishSample i).notices.streamCount i c =
      if ((s.placeSample i).stream i).laneMarked.past.endsByLength = true ∧ c = .run
      then min 65535 (s.notices.streamCount i c + 1) else s.notices.streamCount i c := by
  obtain ⟨n, hmark, hn⟩ := enterLaneMark_eq (s.placeSample i) i
  have hu : ((s.placeSample i).enterLaneMark i).stream i = ((s.placeSample i).stream i).laneMarked := by
    rw [hmark]; exact State.setStream_stream_self ..
  have hcount : n.streamCount i c = s.notices.streamCount i c :=
    (hn c (by rintro rfl; simp at hc)).trans ((placeSample_stands s i).count c hc)
  rw [finishSample_eq hstall rfl, State.setStream_notices, hu]
  cases ((s.placeSample i).stream i).laneMarked.past.endsByLength with
  | false => rw [hmark]; simpa using hcount
  | true =>
    rw [hmark]
    refine (Notices.raiseStream_streamCount ..).trans ?_
    by_cases hrun : c = .run
    · subst hrun; simpa using congrArg (fun m => min 65535 (m + 1)) hcount
    · simpa [hrun] using hcount

end Passed

theorem Stream.Placed.laneMarked {x y : Stream} (h : x.Placed y) : x.laneMarked.SameRun y.laneMarked := by
  unfold Stream.laneMarked Stream.marked
  rw [h.mark, h.index, h.phase, h.markers, h.lost]
  have hsame := h.toSameRun
  split
  · split
    · split
      · exact { hsame with phase := rfl, markers := rfl, lost := rfl }
      · exact { hsame with phase := rfl, markers := rfl, lost := rfl }
    · exact { hsame with }
  · exact hsame

/-- A stream past a sample that was placed stands one sample on, with the lane mark entered. -/
theorem past_of_placed {x y : Stream} (h : x.Placed y) :
    Stream.SameRun { x.laneMarked with writer := x.laneMarked.writer.movedPast x.cfg.width } y.laneMarked.past := by
  have hsame := h.laneMarked
  refine .trans ?_ (past_sameRun _)
  exact { hsame with
    index := by rw [Writer.movedPast_index, Writer.movedPast_index, hsame.index]
    k := by rw [Writer.movedPast_k, Writer.movedPast_k, hsame.k]
    stop := by rw [Writer.movedPast_stop, Writer.movedPast_stop, hsame.stop] }

/-- A processed sample moves the writer on by one and keeps k. -/
theorem finishSample_place {s : State} {i : StreamId} (hstall : (s.stream i).stalled = false) :
    ((s.finishSample i).stream i).writer.index = (s.stream i).writer.index + 1 ∧
      ((s.finishSample i).stream i).writer.k = (s.stream i).writer.k := by
  have hpast := past_of_placed (placeSample_stands s i).placed
  obtain ⟨hindex, hk, -, -⟩ := ended_place ((s.placeSample i).stream i).laneMarked.past
  obtain ⟨markers, lost, pending, hmarked⟩ := laneMarked_eq (s.stream i)
  rw [hmarked] at hpast
  rw [finishSample_stream hstall]
  exact ⟨hindex.trans (hpast.index.trans (by simp)), hk.trans (hpast.k.trans (by simp))⟩

/-! ### The flush age (R35) -/

theorem flushAgeExpiry_of_no_age {s : State} {i : StreamId}
    (h : (s.stream i).writer.mode ≠ .filling ∨ (s.stream i).writer.ageRunning = false) : s.flushAgeExpiry i = s :=
  if_neg fun ⟨hm, ha⟩ => h.elim (· hm) fun hno => Bool.false_ne_true (hno.symm.trans ha)

theorem flushAgeExpiry_of_age {s : State} {i : StreamId} (hm : (s.stream i).writer.mode = .filling)
    (ha : (s.stream i).writer.ageRunning = true) :
    s.flushAgeExpiry i = (s.setStream i (s.stream i).sealStarted).settle := by
  rw [← startSeal_eq]
  exact if_pos ⟨hm, ha⟩

/-! ### The stop of a run by its length, and the marker of a sample (R43, R56, R70) -/

theorem dvd_stopIndex (w : Writer) : 2 ^ w.k ∣ w.stopIndex := Nat.dvd_mul_left ..

theorem stopIndex_lt (w : Writer) : w.stopIndex < w.index + 2 ^ w.k := by
  have hpos : 0 < 2 ^ w.k := Nat.two_pow_pos _
  have hdiv := Nat.div_mul_le_self (w.index + (2 ^ w.k - 1)) (2 ^ w.k)
  rw [Writer.stopIndex, roundUp]
  omega

/-- A pending lane mark of a RUNNING stream is entered at its sample. -/
theorem laneMarked_of_mark {x : Stream} (hmark : x.pendingLane = some x.writer.index) (hphase : x.phase = .running)
    (hroom : x.markers.length < 32) :
    x.laneMarked.markers = x.markers ++ [⟨x.writer.index, .lane, x.lost⟩] ∧ x.laneMarked.lost = 0 := by
  rw [Stream.laneMarked, if_pos hmark, Stream.marked, if_pos hphase, if_pos (by exact hroom)]
  exact ⟨rfl, rfl⟩

/-- A DROPPING writer drops the sample, and no block of its is full. -/
theorem dropping_past {s : State} {i : StreamId} (hm : (s.stream i).writer.mode = .dropping) :
    ((s.placeSample i).stream i).laneMarked.past.writer.mode = .dropping := by
  have hplace : s.placeSample i = s := by simp [State.placeSample, Writer.keeps, hm]
  obtain ⟨markers, lost, pending, hmarked⟩ := laneMarked_eq (s.stream i)
  rw [hplace, hmarked, Stream.past]
  simp [Stream.blockFull, hm]

/-- A RUNNING stream that stands at its run length is to be stopped there (R70). -/
theorem endsByLength_of_runLen {z : Stream} {l : Nat} (hlen : z.runLen = some l)
    (hat : z.writer.index = z.startIndex + l) (hphase : z.phase = .running) (hstop : z.writer.stop = none) :
    z.endsByLength = true := by
  simp [Stream.endsByLength, Stream.lengthReached, hlen, hat, hphase, hstop]

theorem not_endsByLength {z : Stream} (hlen : z.runLen = none) (hlimit : z.writer.index ≠ 2 ^ 48 - 131072) :
    z.endsByLength = false := by
  have hno : z.writer.index ≠ indexLimit := by simpa [indexLimit] using hlimit
  simp [Stream.endsByLength, Stream.lengthReached, hlen, hno]

/-- Settles O29: the sample by what it leaves of its run, the seal by what is staged. -/
theorem lengthStopsMarksAndFlushAge : Obligations.LengthStopsMarksAndFlushAge := by
  constructor
  · intro i s x w hbeat hmode hbound hphase hstop
    have hmay : (s.stream i).writer.mayProcess = true := by
      refine (mayProcess_iff _).2 ⟨hbeat, ?_⟩
      obtain hm | hm | ⟨hm, -⟩ := hmode <;> simp [show (s.stream i).writer.mode = _ from hm]
    have hstall : (s.stream i).stalled = false := by
      obtain hm | hm | ⟨hm, ha⟩ := hmode
      · simp [Stream.stalled, show (s.stream i).writer.mode = _ from hm]
      · simp [Stream.stalled, show (s.stream i).writer.mode = _ from hm]
      · simp [Stream.stalled, show (s.stream i).writer.awaiting = _ from ha]
    have hexec : exec (.sampleProcess i) s = .next (s.finishSample i).settle := by
      refine congrArg Host.Outcome.next ?_
      rw [State.sampleProcess, if_pos hmay, boundary_of_done hbound]
      exact if_pos hmay
    have hpast := past_of_placed (placeSample_stands s i).placed
    have hcount := finishSample_count hstall (i := i) (.inl rfl)
    have hstream := finishSample_stream hstall
    have hdropping := dropping_past (s := s) (i := i)
    generalize ((s.placeSample i).stream i).laneMarked.past = z at hpast hcount hstream hdropping
    obtain ⟨markers, lost, pending, hmarked⟩ := laneMarked_eq (s.stream i)
    have hz : z.writer.index = w.index + 1 := by
      rw [hpast.index, hmarked]; simp [w, x]
    have hzk : z.writer.k = w.k := by
      rw [hpast.k, hmarked]; simp [w, x]
    have hzstop : z.writer.stop = none := by
      rw [hpast.stop, hmarked]; simpa using hstop
    have hzphase : z.phase = .running := by
      rw [hpast.phase, hmarked]; exact hphase
    have hzlen : z.runLen = x.runLen := by
      rw [hpast.runLen, hmarked]
    have hzstart : z.startIndex = x.startIndex := by
      rw [hpast.start, hmarked]
    obtain ⟨hindex, -, hmarkers, hlost⟩ := ended_place z
    refine ⟨_, hexec, ?_⟩
    rw [settle_stream, settle_streamCount, hstream, hcount, hmarkers, hpast.markers, hlost, hpast.lost]
    refine ⟨hindex.trans hz, fun hmark hroom => laneMarked_of_mark hmark hphase hroom, fun hmark => ?_,
      fun hlen hle => ?_, fun hlen hlimit => ?_⟩
    · rw [Stream.laneMarked, if_neg hmark]
      exact ⟨rfl, rfl⟩
    · have hends := endsByLength_of_runLen (hzlen.trans hlen) (by rw [hz, hzstart]; omega) hzphase hzstop
      have hended := ended_of_length hends
      refine ⟨hended.phase, hended.reason, if_pos ⟨hends, rfl⟩, z.writer.stopIndex, hended.stop, ?_, ?_, ?_, ?_⟩
      · rw [← hzk]; exact dvd_stopIndex z.writer
      · rw [← hz]; exact le_stopIndex z.writer
      · rw [← hz, ← hzk]; exact stopIndex_lt z.writer
      · intro hat hm
        obtain ⟨hmode, hend⟩ := ended_of_dropping hends (hdropping hm) (hat.trans hz.symm)
        exact ⟨hmode, hend.trans (hz.trans hat.symm)⟩
    · exact (ended_of_goesOn (not_endsByLength (hzlen.trans hlen) (by rwa [hz]))).phase.trans hzphase
  · intro i s x w
    refine ⟨fun h => congrArg Host.Outcome.next (flushAgeExpiry_of_no_age h), fun hm ha => ⟨fun hc => ?_,
      fun list e hc hawait hstop hcap hst => ?_⟩⟩
    · refine congrArg Host.Outcome.next ((flushAgeExpiry_of_age hm ha).trans ?_)
      have hne : (s.stream i).writer.fillBuf.count ≠ 0 := Nat.pos_iff_ne_zero.1 hc
      simp [Stream.sealStarted, hne, x, w]
    · refine congrArg Host.Outcome.next ((flushAgeExpiry_of_age hm ha).trans ?_)
      have hc' : (s.stream i).writer.fillBuf.count = 0 := hc
      have hawait' : (s.stream i).writer.awaiting = [] := hawait
      have hstop' : (s.stream i).writer.stop = none := hstop
      rw [Stream.sealStarted, if_pos ⟨hc', hawait'⟩, makeSeal_eq (by exact hcap) hst]
      simp [Writer.stopReached, hstop', x, w]

end Sys2Proof.Machine
end

section
/-! SUPPORT. Grain boundaries: the decimation step and the end of a drop (R37, R38, R41). -/

namespace Sys2Proof.Machine

/-! ### The decimation step (R38) -/

theorem decimate_up {x : Stream} (h : x.cfg.policy = .decimate ∧ x.cfg.high ≤ x.capture.length ∧
    x.writer.k < x.cfg.kmax) : x.decimate = x.writer.k + 1 := by
  rw [Stream.decimate, if_pos h.1, if_pos h.2]

theorem decimate_down {x : Stream} (h : x.cfg.policy = .decimate ∧
    ¬ (x.cfg.high ≤ x.capture.length ∧ x.writer.k < x.cfg.kmax) ∧
      x.capture.length ≤ x.cfg.low ∧ x.cfg.kmin < x.writer.k) : x.decimate = x.writer.k - 1 := by
  obtain ⟨hpolicy, hnot, hlow⟩ := h
  rw [Stream.decimate, if_pos hpolicy, if_neg hnot, if_pos hlow]

theorem decimate_neither {x : Stream}
    (hup : ¬ (x.cfg.policy = .decimate ∧ x.cfg.high ≤ x.capture.length ∧ x.writer.k < x.cfg.kmax))
    (hdown : ¬ (x.cfg.policy = .decimate ∧ ¬ (x.cfg.high ≤ x.capture.length ∧ x.writer.k < x.cfg.kmax) ∧
      x.capture.length ≤ x.cfg.low ∧ x.cfg.kmin < x.writer.k)) : x.decimate = x.writer.k := by
  unfold Stream.decimate
  split
  · next hpolicy =>
    have hnot := not_and.1 hup hpolicy
    rw [if_neg hnot, if_neg fun hlow => hdown ⟨hpolicy, hnot, hlow⟩]
  · rfl

/-- What the decimation step leaves of a stream: a change of k starts the seal of a FILLING block. -/
def Stream.decimated (x : Stream) : Stream :=
  let y : Stream := { x with writer := { x.writer with k := x.decimate } }
  if x.decimate ≠ x.writer.k ∧ x.writer.mode = .filling then y.sealStarted else y

/-- Everything the decimation step does: a change of k raises DECIMATION. -/
theorem decimateAt_eq (s : State) (i : StreamId) : s.decimateAt i =
    (if (s.stream i).decimate = (s.stream i).writer.k then s else s.raise i .decimation).setStream i
      (s.stream i).decimated := by
  unfold State.decimateAt Stream.decimated
  dsimp only
  by_cases hk : (s.stream i).decimate = (s.stream i).writer.k
  · rw [if_pos hk, if_pos hk, if_neg (fun h => h.1 hk), hk]
    exact (State.setStream_self s i).symm
  · rw [if_neg hk, if_neg hk]
    by_cases hm : (s.stream i).writer.mode = .filling
    · rw [if_pos hm, if_pos ⟨hk, hm⟩, startSeal_eq, State.raise_stream, State.modWriter, State.modStream_stream_self]
      exact congrArg (State.raise · i .decimation) (State.setStream_setStream s i _ _)
    · rw [if_neg hm, if_neg fun h => hm h.2]
      rfl

theorem decimated_sameRun (x : Stream) :
    Stream.SameRun { x with writer := { x.writer with k := x.decimate } } x.decimated := by
  unfold Stream.decimated
  dsimp only
  split
  · exact sealStarted_sameRun _
  · exact {}

/-- A change of k in a FILLING block with bytes staged starts its seal, and the block stays (R33, R38). -/
theorem decimated_of_filling {x : Stream} (hk : x.decimate ≠ x.writer.k) (hm : x.writer.mode = .filling)
    (hc : 0 < x.writer.fillBuf.count) : x.decimated.writer.mode = .sealing ∧ x.decimated.capture = x.capture := by
  have hne : x.writer.fillBuf.count ≠ 0 := Nat.pos_iff_ne_zero.1 hc
  rw [Stream.decimated, if_pos ⟨hk, hm⟩, Stream.sealStarted]
  simp [hne]

/-! ### The evaluation of a boundary (R37) -/

/-- A stream whose boundary is being evaluated (log 34). -/
def Stream.bounded (x : Stream) : Stream := { x with writer := { x.writer with boundaryDone := true } }

theorem boundary_eq {s : State} {i : StreamId} (h : (s.stream i).atBoundary = true) : s.boundary i =
    (((if (s.stream i).decimate = (s.stream i).writer.k then s else s.raise i .decimation).setStream i
      (s.stream i).bounded.decimated).resume i) := by
  rw [State.boundary, if_pos h, decimateAt_eq, State.modWriter, State.modStream_stream_self]
  refine congrArg (State.resume · i) ?_
  have hd : (s.stream i).bounded.decimate = (s.stream i).decimate := rfl
  have hk : (s.stream i).bounded.writer.k = (s.stream i).writer.k := rfl
  rw [show ({ s.stream i with writer := { (s.stream i).writer with boundaryDone := true } } : Stream) =
    (s.stream i).bounded from rfl, hd, hk]
  split
  · exact State.setStream_setStream ..
  · exact congrArg (State.raise · i .decimation) (State.setStream_setStream s i _ _)

/-- The boundary leaves the writer at its sample, with the new k, and DECIMATION counts a change (R38). -/
theorem boundary_place {s : State} {i : StreamId} (h : (s.stream i).atBoundary = true) :
    ((s.boundary i).stream i).writer.index = (s.stream i).writer.index ∧
    ((s.boundary i).stream i).writer.k = (s.stream i).decimate ∧
    (s.boundary i).notices.streamCount i .decimation =
      if (s.stream i).decimate = (s.stream i).writer.k then s.notices.streamCount i .decimation
      else min 65535 (s.notices.streamCount i .decimation + 1) := by
  rw [boundary_eq h]
  generalize hv : (if (s.stream i).decimate = (s.stream i).writer.k then s else s.raise i .decimation) = v
  have hstands := resume_stands (v.setStream i (s.stream i).bounded.decimated) i
  have hplaced := hstands.placed
  rw [State.setStream_stream_self] at hplaced
  have hsame := (decimated_sameRun (s.stream i).bounded).trans hplaced.toSameRun
  refine ⟨hsame.index, hsame.k, (hstands.count .decimation (.inr rfl)).trans ?_⟩
  subst hv
  split
  · rfl
  · exact (Notices.raiseStream_streamCount ..).trans (if_pos ⟨rfl, rfl⟩)

/-- A writer that is not DROPPING does not resume. -/
theorem resume_of_not_dropping {s : State} {i : StreamId} (h : (s.stream i).writer.mode ≠ .dropping) :
    s.resume i = s := if_neg h

/-- A DROPPING writer with a spare block resumes on it; the entry carries the drop's gap (R41). -/
theorem resume_stream {s : State} {i : StreamId} {b : Nat} {rest : List Nat}
    (hm : (s.stream i).writer.mode = .dropping) (hs : (s.stream i).spare = b :: rest) :
    (s.resume i).stream i = ({ s.stream i with
      spare := rest,
      capture := (s.stream i).capture ++ [freshEntry b (s.stream i).writer.index (s.stream i).writer.k
        (some ⟨(s.stream i).writer.index - (s.stream i).writer.dropStart, .newOnly⟩)] } : Stream).holdBlock := by
  unfold State.resume State.take
  dsimp only
  rw [if_pos hm, hs]
  dsimp only
  rw [State.modStream_stream_self]
  split
  · rw [State.raise_stream, State.setStream_stream_self]
  · rw [State.setStream_stream_self]

/-! ### The first sample of a block (R32, R33) -/

/-- A writer with a block that cannot be FULL yet: bytes of it are staged or awaiting flush. -/
def Stream.HoldsBytes (x : Stream) : Prop :=
  (x.writer.mode = .filling ∧ (x.writer.fillBuf.count ≠ 0 ∨ x.writer.awaiting ≠ [])) ∨ x.writer.mode = .sealing

/-- `y` has the entries and the spare blocks of `x`, and bytes of its block still to be flushed. -/
structure Stream.KeepsBlock (x y : Stream) : Prop where
  capture : y.capture = x.capture := by rfl
  spare : y.spare = x.spare := by rfl
  holds : y.HoldsBytes

namespace Stream.KeepsBlock

theorem writerStopped {x : Stream} (h : x.HoldsBytes) : x.KeepsBlock x.writerStopped := by
  unfold Stream.writerStopped
  obtain ⟨hm, hbytes⟩ | hm := h
  · have hno : ¬ (x.writer.fillBuf.count = 0 ∧ x.writer.awaiting = []) := fun ⟨hc, ha⟩ => hbytes.elim (· hc) (· ha)
    rw [hm]
    dsimp only
    rw [Stream.sealStarted, if_neg hno]
    split
    · exact { holds := .inr rfl }
    · exact { holds := .inr rfl }
  · rw [hm]
    exact { holds := .inr hm }

theorem stopAsked {x : Stream} (h : x.HoldsBytes) (reason : CloseReason) : x.KeepsBlock (x.stopAsked reason) := by
  unfold Stream.stopAsked
  split
  · obtain hlt | hat := (le_stopIndex x.writer).lt_or_eq
    · rw [stopTaken_below hlt]
      exact { holds := h }
    · rw [← hat, stopTaken_at]
      obtain ⟨hcapture, hspare, hholds⟩ := writerStopped (x := x.stopHeld x.writer.index reason) h
      exact ⟨hcapture, hspare, hholds⟩
  · exact { holds := h }

/-- A stop that is due past a sample seals the block through a flush (R33, R43). -/
theorem ended {x : Stream} (h : x.HoldsBytes) : x.KeepsBlock x.ended := by
  have hlength : x.KeepsBlock x.lengthStopped := by
    unfold Stream.lengthStopped
    split
    · exact stopAsked h .length
    · exact { holds := h }
  unfold Stream.ended
  split
  · have hstop := writerStopped hlength.holds
    exact ⟨hstop.capture.trans hlength.capture, hstop.spare.trans hlength.spare, hstop.holds⟩
  · exact hlength

end Stream.KeepsBlock

/-- The first sample of a block is staged, and the block cannot be full (R32). -/
theorem placeSample_first {s : State} {i : StreamId} {list : List Entry} {e : Entry}
    (hm : (s.stream i).writer.mode = .filling) (hk : 2 ^ (s.stream i).writer.k ∣ (s.stream i).writer.index)
    (hb : (s.stream i).writer.beat ≠ []) (hcap : (s.stream i).capture = list ++ [e]) :
    ((s.placeSample i).stream i).capture = list ++ [{ e with kept := e.kept + 1 }] ∧
      ((s.placeSample i).stream i).spare = (s.stream i).spare ∧
      ((s.placeSample i).stream i).cfg = (s.stream i).cfg ∧ ((s.placeSample i).stream i).HoldsBytes := by
  have hkeeps : (s.stream i).writer.keeps = true := (keeps_iff _).2 ⟨by rw [hm]; decide, hk⟩
  have hflip : (s.takeStagingFlip i).stream i = s.stream i := by
    rw [State.stream, takeStagingFlip_streams]; rfl
  have hlen : 0 < ((s.stream i).writer.beat.take (s.stream i).cfg.width.bytes).length := by
    have hpos := List.length_pos_iff.2 hb
    have hwidth := width_bytes_pos (s.stream i).cfg.width
    rw [List.length_take]
    omega
  have hplace : s.placeSample i =
      s.stageKept i ((s.stream i).writer.beat.take (s.stream i).cfg.width.bytes) := by
    unfold State.placeSample
    dsimp only
    rw [if_pos hkeeps, if_pos hm]
  rw [hplace, State.stageKept, State.modStream_stream_self, hflip, hcap, assignSample, modifyLast_append]
  refine ⟨rfl, rfl, rfl, .inl ?_⟩
  dsimp only
  generalize hw : (s.stream i).writer.stage _ _ = w
  have hmode : w.mode = .filling := by subst hw; exact hm
  have hcount : w.fillBuf.count ≠ 0 := by
    subst hw
    rw [Writer.stage_count]
    omega
  unfold Writer.swapIfFull
  split
  · exact ⟨hmode, .inr (by simp [Writer.swap])⟩
  · exact ⟨hmode, .inl hcount⟩

/-- The sample that a drop ends with is the first of its block: the block has it and stays (R41). -/
theorem finishSample_first {s : State} {i : StreamId} {list : List Entry} {e : Entry}
    (hm : (s.stream i).writer.mode = .filling) (hk : 2 ^ (s.stream i).writer.k ∣ (s.stream i).writer.index)
    (ha : (s.stream i).writer.awaiting = []) (hb : (s.stream i).writer.beat ≠ [])
    (hcap : (s.stream i).capture = list ++ [e]) (he : e.kept = 0) :
    ((s.finishSample i).stream i).capture = list ++ [{ e with kept := 1 }] ∧
      ((s.finishSample i).stream i).spare = (s.stream i).spare := by
  obtain ⟨hcapture, hspare, hcfg, hholds⟩ := placeSample_first hm hk hb hcap
  rw [finishSample_stream (by simp [Stream.stalled, ha])]
  generalize (s.placeSample i).stream i = y at hcapture hspare hcfg hholds
  obtain ⟨markers, lost, pending, hmarked⟩ := laneMarked_eq y
  have hroom : ¬ blockBytes / y.cfg.width.bytes ≤ e.kept + 1 := by
    rw [he]; cases y.cfg.width <;> decide
  have hpast : y.laneMarked.past = { y with
      markers := markers, lost := lost, pendingLane := pending, writer := y.writer.movedPast y.cfg.width } := by
    rw [hmarked, Stream.past]
    exact if_neg (by simp [Stream.blockFull, Stream.tail, hcapture, hroom])
  have hkeeps := Stream.KeepsBlock.ended (x := y.laneMarked.past) (by
    rw [hpast]; simpa [Stream.HoldsBytes] using hholds)
  rw [hkeeps.capture, hkeeps.spare, hpast]
  exact ⟨by rw [hcapture, he], hspare⟩

/-- The sample after its boundary waits or is processed; k and the DECIMATION count are those of the boundary. -/
theorem sampleProcess_after_boundary {s : State} {i : StreamId} (hmay : (s.stream i).writer.mayProcess = true) :
    ∃ r, s.sampleProcess i = r.settle ∧
      r = (if ((s.boundary i).stream i).writer.mayProcess then (s.boundary i).finishSample i else s.boundary i) ∧
      (r.stream i).writer.k = ((s.boundary i).stream i).writer.k ∧
      r.notices.streamCount i .decimation = (s.boundary i).notices.streamCount i .decimation := by
  rw [State.sampleProcess, if_pos hmay]
  dsimp only
  generalize s.boundary i = u
  split
  · refine ⟨u.finishSample i, rfl, rfl, ?_⟩
    cases hstall : (u.stream i).stalled with
    | true => rw [State.finishSample, if_pos hstall]; exact ⟨rfl, rfl⟩
    | false =>
      obtain ⟨-, hk⟩ := finishSample_place hstall
      exact ⟨hk, (finishSample_count hstall (.inr rfl)).trans (if_neg (by simp))⟩
  · exact ⟨u, rfl, rfl, rfl, rfl⟩

/-- A boundary that starts the seal of a block with bytes staged makes its sample wait (R38, log 6). -/
theorem boundary_of_filling {s : State} {i : StreamId} (h : (s.stream i).atBoundary = true)
    (hk : (s.stream i).decimate ≠ (s.stream i).writer.k) (hm : (s.stream i).writer.mode = .filling)
    (hc : 0 < (s.stream i).writer.fillBuf.count) :
    ((s.boundary i).stream i).writer.mode = .sealing ∧
      ((s.boundary i).stream i).capture = (s.stream i).capture := by
  obtain ⟨hmode, hcapture⟩ := decimated_of_filling (x := (s.stream i).bounded) hk hm hc
  rw [boundary_eq h, resume_of_not_dropping (by rw [State.setStream_stream_self, hmode]; decide),
    State.setStream_stream_self]
  exact ⟨hmode, hcapture⟩

/-- A boundary at which a DROPPING writer has a spare block puts it on that block (R41). -/
theorem boundary_of_dropping {s : State} {i : StreamId} {b : Nat} {rest : List Nat}
    (h : (s.stream i).atBoundary = true) (hm : (s.stream i).writer.mode = .dropping)
    (hs : (s.stream i).spare = b :: rest) : (s.boundary i).stream i = ({ s.stream i with
      spare := rest,
      capture := (s.stream i).capture ++ [freshEntry b (s.stream i).writer.index (s.stream i).decimate
        (some ⟨(s.stream i).writer.index - (s.stream i).writer.dropStart, .newOnly⟩)],
      writer := { (s.stream i).writer with boundaryDone := true, k := (s.stream i).decimate } } :
        Stream).holdBlock := by
  have hdecimated : (s.stream i).bounded.decimated = { s.stream i with
      writer := { (s.stream i).writer with boundaryDone := true, k := (s.stream i).decimate } } :=
    if_neg fun hfilling => by
      have hdrop : (s.stream i).bounded.writer.mode = .dropping := hm
      exact absurd (hdrop.symm.trans hfilling.2) (by decide)
  rw [boundary_eq h, hdecimated, resume_stream (b := b) (rest := rest)]
  · rw [State.setStream_stream_self]
  · rw [State.setStream_stream_self]; exact hm
  · rw [State.setStream_stream_self]; exact hs

/-- A grain boundary is a multiple of 2^k for every k that is configured (R37, R39). -/
theorem dvd_grain {n k : Nat} (hn : n % 131072 = 0) (hk : k ≤ 7) : 2 ^ k ∣ n :=
  (Nat.pow_dvd_pow 2 (hk.trans (by decide : 7 ≤ 17))).trans (Nat.dvd_of_mod_eq_zero hn)

theorem decimate_le {x : Stream} {n : Nat} (hk : x.writer.k ≤ n) (hmax : x.cfg.kmax ≤ n) : x.decimate ≤ n := by
  unfold Stream.decimate
  split
  · split
    · omega
    · split <;> omega
  · exact hk

/-- Settles O28: the boundary by its decimation step (`boundary_place`), the resumed drop by the first sample of its
block (`finishSample_first`). -/
theorem boundariesDecimateAndResume : Obligations.BoundariesDecimateAndResume := by
  intro i s x w hbeat hmode hgrain hstart hdone up down
  have hbound : (s.stream i).atBoundary = true := by
    have hgrain' : (s.stream i).writer.index % grain = 0 := hgrain
    have hdone' : (s.stream i).writer.boundaryDone = false := hdone
    simp [Stream.atBoundary, hgrain', hdone', show (s.stream i).startIndex < (s.stream i).writer.index from hstart]
  have hmay : (s.stream i).writer.mayProcess = true := by
    refine (mayProcess_iff _).2 ⟨hbeat, ?_⟩
    obtain hm | hm | hm := hmode <;> simp [show (s.stream i).writer.mode = _ from hm]
  obtain ⟨hindex, hk, hcount⟩ := boundary_place hbound
  obtain ⟨r, hprocess, hr, hrk, hrcount⟩ := sampleProcess_after_boundary hmay
  have hmoves : up ∨ down → (s.stream i).decimate ≠ (s.stream i).writer.k := by
    rintro (hup | hdown)
    · rw [decimate_up hup]; exact Nat.succ_ne_self _
    · have ⟨_, _, _, hlt⟩ := hdown
      rw [decimate_down hdown]
      exact (Nat.sub_one_lt (Nat.ne_zero_of_lt hlt)).ne
  refine ⟨_, congrArg Host.Outcome.next hprocess, ?_⟩
  rw [settle_stream, settle_streamCount, hrk, hrcount, hk, hcount]
  refine ⟨decimate_up, decimate_down, fun h => if_neg (hmoves h), fun hup hdown => ?_, fun h hm hc _ => ?_,
    fun b rest hm ha hs hk7 hmax7 => ?_⟩
  · have hstays := decimate_neither hup hdown
    exact ⟨hstays, if_pos hstays⟩
  · obtain ⟨hsealing, hcapture⟩ := boundary_of_filling hbound (hmoves h) hm hc
    rw [hr, if_neg (by simp [Writer.mayProcess, hsealing])]
    exact ⟨hsealing, hindex, hcapture⟩
  · have hstream := boundary_of_dropping hbound hm hs
    have hbeat' : ((s.boundary i).stream i).writer.beat ≠ [] := by rw [hstream]; exact hbeat
    have hfilling : ((s.boundary i).stream i).writer.mode = .filling := by rw [hstream]; rfl
    have hawait : ((s.boundary i).stream i).writer.awaiting = [] := by rw [hstream]; exact ha
    have hdvd : 2 ^ ((s.boundary i).stream i).writer.k ∣ ((s.boundary i).stream i).writer.index := by
      rw [hindex, hk]; exact dvd_grain hgrain (decimate_le hk7 hmax7)
    obtain ⟨hcapture, hspare⟩ := finishSample_first hfilling hdvd hawait hbeat' (by rw [hstream]; rfl) rfl
    obtain ⟨hnext, -⟩ := finishSample_place (s := s.boundary i) (i := i) (by simp [Stream.stalled, hawait])
    rw [hr, if_pos ((mayProcess_iff _).2 ⟨hbeat', by rw [hfilling]; decide, by rw [hfilling]; decide⟩), hcapture,
      hspare, hnext, hindex, hstream]
    exact ⟨rfl, rfl, rfl⟩

end Sys2Proof.Machine
end

section
/-! SUPPORT. AUX routes, HOST markers, and the edges of the AUX lines (R53, R57 to R60). -/

namespace Sys2Proof.Machine

/-! ### Markers (R53) -/

section Marker

variable {s : State} {i : StreamId} (index : Nat) (src : MarkSource)

/-- A marker on a RUNNING stream with room in its queue is entered. -/
theorem latchMarker_of_room (hphase : (s.stream i).phase = .running) (hroom : (s.stream i).markers.length < 32) :
    s.latchMarker i index src = s.setStream i { s.stream i with
      markers := (s.stream i).markers ++ [⟨index, src, (s.stream i).lost⟩], lost := 0 } := by
  unfold State.latchMarker
  exact (if_pos hphase).trans (if_pos hroom)

/-- A marker on a RUNNING stream with a full queue is counted lost. -/
theorem latchMarker_of_full (hphase : (s.stream i).phase = .running) (hfull : 32 ≤ (s.stream i).markers.length) :
    s.latchMarker i index src = (s.setStream i { s.stream i with
      lost := min 65535 ((s.stream i).lost + 1) }).raise i .markerLost := by
  unfold State.latchMarker
  exact (if_pos hphase).trans (if_neg (Nat.not_lt.2 hfull))

/-- A marker on a stream that is not RUNNING is discarded. -/
theorem latchMarker_of_not_running (hphase : (s.stream i).phase ≠ .running) : s.latchMarker i index src = s := by
  unfold State.latchMarker
  exact if_neg hphase

end Marker

/-! ### AUX_ROUTE (R57) -/

theorem lineOf_none {n : Nat} (h : 1 < n) : lineOf n = none := by
  obtain ⟨m, rfl⟩ := Nat.exists_eq_add_of_le' h
  rfl

theorem edgeOf_none {n : Nat} (h : 3 < n) : edgeOf n = none := by
  obtain ⟨m, rfl⟩ := Nat.exists_eq_add_of_le' h
  rfl

@[simp] theorem edgeOf_code (e : EdgeSel) : edgeOf e.code = some e := by cases e <;> rfl

@[simp] theorem byteField_toNat (b : Byte) : byteField b.toNat = [b] := by simp [byteField, leBytes]

/-- The four mask bits as a byte. -/
theorem byteField_mask (mask : Byte) : byteField (mask.setWidth 4).toNat = [mask &&& 0x0F#8] := by
  have hmask : BitVec.ofNat 8 (mask.setWidth 4).toNat = mask &&& 0x0F#8 := by
    have hand : mask.toNat &&& 15 = mask.toNat % 16 := Nat.and_two_pow_sub_one_eq_mod mask.toNat 4
    refine BitVec.eq_of_toNat_eq ?_
    simp [hand]
    omega
  exact congrArg (fun b => [b]) hmask

/-- The frame of an AUX_ROUTE decodes to the AUX_ROUTE (section 11.3). -/
theorem exec_auxRoute {s : State} (h : s.takesAtOnce) (tag line edge mask : Byte) :
    exec (.auxRoute tag line edge mask) s = .next ((s.takeFrame []).auxRoute tag line edge mask) := by
  change Host.Outcome.next (s.submit (requestFrame tag (.auxRoute line edge mask))) = _
  rw [submit_of_takesAtOnce h]
  rfl

/-- An AUX_ROUTE out of range is refused. -/
theorem exec_auxRoute_range {s : State} (h : s.takesAtOnce) (tag : Byte) {line edge : Byte} (mask : Byte)
    (hout : 1 < line.toNat ∨ 3 < edge.toNat) :
    exec (.auxRoute tag line edge mask) s = .next (s.answered 0x03#8 tag 3#8 []) := by
  have hrefuse : (s.takeFrame []).auxRoute tag line edge mask = (s.takeFrame []).refuse kindAuxRoute tag .range := by
    unfold State.auxRoute
    obtain hline | hedge := hout
    · rw [lineOf_none hline]
    · rw [edgeOf_none hedge]
      cases lineOf line.toNat <;> rfl
  rw [exec_auxRoute h, hrefuse]
  exact congrArg Host.Outcome.next (reply_of_taken h rfl kindAuxRoute tag .range [])

/-- An AUX_ROUTE in range replaces the route of its line. -/
theorem exec_auxRoute_set {s : State} (h : s.takesAtOnce) (tag : Byte) {line edge : Byte} (mask : Byte) {l : AuxLine}
    {e : EdgeSel} (hl : lineOf line.toNat = some l) (he : edge.toNat = e.code) :
    exec (.auxRoute tag line edge mask) s = .next
      ({ s with routes := s.routes.set l ⟨e, mask.setWidth 4⟩ }.answered 0x03#8 tag 0#8
        [line, edge, mask &&& 0x0F#8, 0#8]) := by
  have hreply : (s.takeFrame []).auxRoute tag line edge mask =
      ({ s.takeFrame [] with routes := s.routes.set l ⟨e, mask.setWidth 4⟩ } : State).reply kindAuxRoute tag .ok
        [line, edge, mask &&& 0x0F#8, 0#8] := by
    have hfields : byteField line.toNat ++ byteField e.code ++ byteField (mask.setWidth 4).toNat ++ zeros 1 =
        [line, edge, mask &&& 0x0F#8, 0#8] := by
      rw [← he, byteField_toNat, byteField_toNat, byteField_mask]
      rfl
    rw [State.auxRoute, hl, he, edgeOf_code, ← hfields]
    rfl
  rw [exec_auxRoute h, hreply]
  exact congrArg Host.Outcome.next (reply_of_taken h
    (t := { s.takeFrame [] with routes := s.routes.set l ⟨e, mask.setWidth 4⟩ }) rfl kindAuxRoute tag .ok _)

/-! ### MARK_NOW (R59) -/

/-- The frame of a MARK_NOW decodes to the MARK_NOW (section 11.3). -/
theorem exec_markNow {s : State} (h : s.takesAtOnce) (tag b : Byte) :
    exec (.markNow tag b) s = .next ((s.takeFrame []).markNow tag b) := by
  change Host.Outcome.next (s.submit (requestFrame tag (.markNow b))) = _
  rw [submit_of_takesAtOnce h]
  rfl

/-- MARK_NOW on a RUNNING stream enters a HOST marker at the writer index and replies by the room there was. -/
theorem markNow_of_running {s : State} (tag : Byte) {b : Byte} {i : StreamId} (hb : b.toNat = i.num)
    (hphase : (s.stream i).phase = .running) :
    s.markNow tag b = (s.latchMarker i (s.stream i).writer.index .host).reply kindMarkNow tag
      (if (s.stream i).markers.length < 32 then .ok else .full)
      (zeros 4 ++ leBytes 6 (s.stream i).writer.index ++ zeros 2) := by
  rw [State.markNow, streamOf_num hb, List.append_assoc]
  exact if_pos hphase

/-- Settles O12: the route set or refused, and the marker by the state of its stream and of its queue. -/
theorem routesAndHostMarks : Obligations.RoutesAndHostMarks := by
  refine ⟨fun tag line edge mask s h => ⟨exec_auxRoute_range h tag mask, fun e he => ⟨?_, ?_⟩⟩,
    fun tag b s h => ⟨fun hb => ?_, fun i hb => ⟨fun hphase => ?_, fun hphase hroom => ?_, fun hphase hfull => ?_⟩⟩⟩
  · rintro rfl
    exact exec_auxRoute_set h tag mask (l := .aux0) rfl he
  · rintro rfl
    exact exec_auxRoute_set h tag mask (l := .aux1) rfl he
  · rw [exec_markNow h, State.markNow, streamOf_none hb]
    exact congrArg Host.Outcome.next (reply_of_taken h rfl kindMarkNow tag .range [])
  · have hrefuse : (s.takeFrame []).markNow tag b = (s.takeFrame []).refuse kindMarkNow tag .state := by
      rw [State.markNow, streamOf_num hb]
      exact if_neg hphase
    rw [exec_markNow h, hrefuse]
    exact congrArg Host.Outcome.next (reply_of_taken h rfl kindMarkNow tag .state [])
  · rw [exec_markNow h, markNow_of_running (s := s.takeFrame []) tag hb hphase,
      latchMarker_of_room (s := s.takeFrame []) _ _ hphase hroom, State.takeFrame_stream, if_pos hroom]
    exact congrArg Host.Outcome.next
      (reply_of_taken h (t := (s.takeFrame []).setStream i _) rfl kindMarkNow tag .ok _)
  · refine ⟨s.notices.raiseStream i .markerLost, Notices.raisedFor_raiseStream .., ?_⟩
    rw [exec_markNow h, markNow_of_running (s := s.takeFrame []) tag hb hphase,
      latchMarker_of_full (s := s.takeFrame []) _ _ hphase hfull, State.takeFrame_stream,
      if_neg (Nat.not_lt.2 hfull)]
    exact congrArg Host.Outcome.next
      (reply_of_taken h (t := ((s.takeFrame []).setStream i _).raise i .markerLost) rfl kindMarkNow tag .full _)

/-! ### AUX edges (R57, R58, R60) -/

theorem takes_iff (e : EdgeSel) (rising : Bool) : e.takes rising = true ↔
    e = .both ∨ (e = .rising ∧ rising = true) ∨ (e = .falling ∧ rising = false) := by
  cases e <;> simp [EdgeSel.takes]

/-- What an edge on a line leaves of a stream and of its notice counts; `masked` says that the stream is in the mask of
the line's route. -/
def Stream.edgeTaken (x : Stream) (n : StreamCounts) (line : AuxLine) (masked : Bool) : Stream × StreamCounts :=
  if x.phase = .armed ∧ x.startMode = auxMode line then (x.enterRunning, n.set .run (inc16 n.run))
  else if x.phase = .running ∧ masked = true then
    if x.markers.length < 32 then
      ({ x with markers := x.markers ++ [⟨x.writer.index, auxSource line, x.lost⟩], lost := 0 }, n)
    else ({ x with lost := min 65535 (x.lost + 1) }, n.set .markerLost (min 65535 (n.markerLost + 1)))
  else (x, n)

/-- The state with a stream and its notice counts replaced. -/
def State.setStreamCounts (s : State) (i : StreamId) (p : Stream × StreamCounts) : State :=
  { s with streams := s.streams.set i p.1, notices := { s.notices with streams := s.notices.streams.set i p.2 } }

/-- Replacing a stream alone. -/
theorem setStreamCounts_stream (s : State) (i : StreamId) (x : Stream) :
    s.setStreamCounts i (x, s.notices.streams.get i) = s.setStream i x := by
  rw [State.setStreamCounts, Quad.set_get]
  rfl

/-- Everything an edge does to one stream (R58, R60). -/
theorem auxStream_eq (s : State) (line : AuxLine) (i : StreamId) :
    s.auxStream line i = s.setStreamCounts i ((s.stream i).edgeTaken (s.notices.streams.get i) line
      ((s.routes.get line).mask.getLsbD i.num)) := by
  unfold State.auxStream Stream.edgeTaken
  dsimp only
  by_cases harmed : (s.stream i).phase = .armed ∧ (s.stream i).startMode = auxMode line
  · rw [if_pos harmed, if_pos harmed]
    rfl
  rw [if_neg harmed, if_neg harmed]
  by_cases hmask : (s.routes.get line).mask.getLsbD i.num = true
  · rw [if_pos hmask]
    by_cases hphase : (s.stream i).phase = .running
    · rw [if_pos ⟨hphase, hmask⟩]
      by_cases hroom : (s.stream i).markers.length < 32
      · rw [if_pos hroom, latchMarker_of_room _ _ hphase hroom, setStreamCounts_stream]
      · rw [if_neg hroom, latchMarker_of_full _ _ hphase (Nat.not_lt.1 hroom)]
        rfl
    · rw [if_neg fun h => hphase h.1, latchMarker_of_not_running _ _ hphase, setStreamCounts_stream,
        State.setStream_self]
  · rw [if_neg hmask, if_neg fun h => hmask h.2, setStreamCounts_stream, State.setStream_self]

/-- What an edge does to the streams of a list in turn: each as it was before, and nothing else. -/
theorem auxStreams_eq (line : AuxLine) {l : List StreamId} (hl : l.Nodup) (s : State) :
    ∃ q n, l.foldl (fun s i => s.auxStream line i) s =
        { s with streams := q, notices := { s.notices with streams := n } } ∧
      ∀ j, (q.get j, n.get j) =
        if j ∈ l then (s.stream j).edgeTaken (s.notices.streams.get j) line ((s.routes.get line).mask.getLsbD j.num)
        else (s.stream j, s.notices.streams.get j) := by
  induction l generalizing s with
  | nil => exact ⟨s.streams, s.notices.streams, rfl, fun j => (if_neg List.not_mem_nil).symm⟩
  | cons i l ih =>
    obtain ⟨hi, hl⟩ := List.nodup_cons.1 hl
    obtain ⟨q, n, hfold, hall⟩ := ih hl (s.auxStream line i)
    rw [auxStream_eq] at hfold hall
    refine ⟨q, n, by rw [List.foldl_cons, auxStream_eq, hfold]; rfl, fun j => ?_⟩
    rw [hall]
    by_cases hji : j = i
    · subst hji
      rw [if_neg hi, if_pos List.mem_cons_self]
      exact Prod.ext (Quad.get_set_self ..) (Quad.get_set_self ..)
    · have hstream {p : Stream × StreamCounts} : (s.setStreamCounts i p).stream j = s.stream j :=
        Quad.get_set_other _ _ hji
      have hcounts {p : Stream × StreamCounts} :
          (s.setStreamCounts i p).notices.streams.get j = s.notices.streams.get j := Quad.get_set_other _ _ hji
      rw [hstream, hcounts]
      simp only [List.mem_cons, hji, false_or]
      rfl

/-- Settles O30: an edge that the route takes reaches each stream once (`auxStreams_eq`), any other none. -/
theorem auxEdgesStartAndMark : Obligations.AuxEdgesStartAndMark := by
  intro line rising s route mode source taken
  have hroute : route = s.routes.get line := by cases line <;> rfl
  have hmode : mode = auxMode line := by cases line <;> rfl
  have hsource : source = auxSource line := by cases line <;> rfl
  have htakes : (s.routes.get line).edge.takes rising = true ↔ taken := by rw [takes_iff, ← hroute]
  refine ⟨fun h => congrArg Host.Outcome.next (if_neg fun h' => h (htakes.1 h')), fun h => ?_⟩
  obtain ⟨q, n, hfold, hall⟩ := auxStreams_eq line (l := StreamId.all) (by decide) s
  refine ⟨_, congrArg Host.Outcome.next ((if_pos (htakes.2 h)).trans hfold), rfl, rfl, rfl, rfl, rfl, rfl, rfl, rfl,
    fun i => ?_⟩
  have hi := (hall i).trans (if_pos (StreamId.mem_all i))
  rw [← hroute, Stream.edgeTaken, ← hmode, ← hsource] at hi
  refine ⟨fun harmed hm => ?_, fun hmarked hroom => ?_, fun hmarked hfull => ?_, fun hmarked hstart => ?_⟩
  · rw [if_pos ⟨harmed, hm⟩] at hi
    obtain ⟨hq, hn⟩ := Prod.mk.inj hi
    exact ⟨hq, congrArg StreamCounts.run hn⟩
  · rw [if_neg fun h => (nomatch h.1.symm.trans hmarked.1), if_pos hmarked, if_pos hroom] at hi
    exact (Prod.mk.inj hi).1
  · rw [if_neg fun h => (nomatch h.1.symm.trans hmarked.1), if_pos hmarked, if_neg (Nat.not_lt.2 hfull)] at hi
    obtain ⟨hq, hn⟩ := Prod.mk.inj hi
    exact ⟨hq, congrArg StreamCounts.markerLost hn⟩
  · rw [if_neg hstart, if_neg hmarked] at hi
    exact (Prod.mk.inj hi).1

end Sys2Proof.Machine
end

section
/-! SUPPORT. The bytes of archive records: timestamps, sizes, header, bodies and the trailer of a DATA record (R49, R50,
R84, R85, R106, R133, R205, section 11.1). -/

namespace Sys2Proof.Machine

/-! ### Regions of a string of bytes -/

theorem slice_add (bs : List Byte) (off m n : Nat) :
    slice bs off (m + n) = slice bs off m ++ slice bs (off + m) n := by
  rw [slice, slice, slice, List.take_add, List.drop_drop]

/-- A region within a region. -/
theorem slice_slice {bs : List Byte} {off len a n : Nat} (h : a + n ≤ len) :
    slice (slice bs off len) a n = slice bs (off + a) n := by
  rw [slice, slice, slice, List.drop_take, List.take_take, List.drop_drop, Nat.min_eq_left (by omega)]

/-- A field of a string of bytes that is laid field by field. -/
theorem slice_flatten {fields : List (List Byte)} {f : List Byte} {off n : Nat} (j : Nat) (hf : fields[j]? = some f)
    (hoff : (fields.take j).flatten.length = off) (hn : f.length = n) : slice fields.flatten off n = f := by
  obtain ⟨hj, hget⟩ := List.getElem?_eq_some_iff.1 hf
  have hsplit : fields = fields.take j ++ (f :: fields.drop (j + 1)) := by
    rw [← hget, ← List.drop_eq_getElem_cons hj, List.take_append_drop]
  rw [hsplit, List.flatten_append, List.flatten_cons]
  exact slice_append _ _ _ _ _ hoff hn

theorem zeros_append (m n : Nat) : zeros m ++ zeros n = zeros (m + n) := List.replicate_append_replicate

theorem byteField_eq (x : Nat) : byteField x = [BitVec.ofNat 8 x] := rfl

/-! ### Timestamps and sizes (R49, R50, R85) -/

theorem exactTime_mono (x : Stream) {m n : Nat} (h : n ≤ m) : x.exactTime n ≤ x.exactTime m :=
  Nat.add_le_add_left (Nat.div_le_div_right (Nat.mul_le_mul_right _ h)) _

theorem header_stamp_mono (x : Stream) (cont : Bool) {m n : Nat} (h : n ≤ m) :
    (x.header n cont).stamp ≤ (x.header m cont).stamp :=
  min_le_min_left _ (exactTime_mono x h)

/-- Rounding up reaches the next multiple. -/
theorem roundUp_512 (n : Nat) : roundUp n 512 % 512 = 0 ∧ n ≤ roundUp n 512 ∧ roundUp n 512 < n + 512 := by
  unfold roundUp
  omega

theorem size_of_not_data {b : RecBody} (h : b.isData = false) : b.size = 512 := by simp [RecBody.size, h]

/-! ### The header (section 11.1) -/

/-- The kind fields of a header: those of DATA, zero on every other kind. -/
def RecBody.kindFields : RecBody → List Byte
  | .dataRec _ k kept w _ => [BitVec.ofNat 8 k, BitVec.ofNat 8 w.code, 0#8, 0#8] ++ leBytes 4 kept
  | _ => zeros 8

@[simp] theorem kindFields_length (b : RecBody) : b.kindFields.length = 8 := by cases b <;> simp [RecBody.kindFields]

theorem kindFields_of_not_data {b : RecBody} (h : b.isData = false) : b.kindFields = zeros 8 := by
  cases b with
  | dataRec => exact absurd h nofun
  | openRec | gapRec | markRec | closeRec => rfl

/-- The flags of a header: TIME_SATURATED and CONTINUATION. -/
def RecHeader.flags (h : RecHeader) : Nat := (if h.saturated then 1 else 0) + (if h.continuation then 2 else 0)

/-- The header field by field. -/
def CommitEntry.headerFields (e : CommitEntry) : List (List Byte) :=
  [[0x5A#8, 0xC3#8], [BitVec.ofNat 8 e.body.kindCode, BitVec.ofNat 8 e.stream.num], leBytes 4 e.header.runId,
    leBytes 8 e.seq, leBytes 6 e.header.index, leBytes 2 e.header.flags, leBytes 8 e.header.stamp, leBytes 4 e.size,
    leBytes 4 e.body.payload, e.body.kindFields, zeros 16]

theorem headerBytes_eq (e : CommitEntry) : e.headerBytes = e.headerFields.flatten := by
  unfold CommitEntry.headerBytes CommitEntry.headerFields RecHeader.flags padTo
  cases e.body <;> simp [RecBody.kindFields, byteField_eq, zeros_append] <;> rfl

theorem headerBytes_field {e : CommitEntry} {f : List Byte} {off n : Nat} (j : Nat) (hf : e.headerFields[j]? = some f)
    (hoff : (e.headerFields.take j).flatten.length = off) (hn : f.length = n) : slice e.headerBytes off n = f := by
  rw [headerBytes_eq]
  exact slice_flatten j hf hoff hn

/-- The header bytes by position. -/
theorem headerBytes_layout (e : CommitEntry) :
    e.headerBytes.take 2 = [0x5A#8, 0xC3#8] ∧
    slice e.headerBytes 2 2 = [BitVec.ofNat 8 e.body.kindCode, BitVec.ofNat 8 e.stream.num] ∧
    slice e.headerBytes 4 4 = leBytes 4 e.header.runId ∧ slice e.headerBytes 8 8 = leBytes 8 e.seq ∧
    slice e.headerBytes 16 6 = leBytes 6 e.header.index ∧ slice e.headerBytes 22 2 = leBytes 2 e.header.flags ∧
    slice e.headerBytes 24 8 = leBytes 8 e.header.stamp ∧ slice e.headerBytes 32 4 = leBytes 4 e.size ∧
    slice e.headerBytes 36 4 = leBytes 4 e.body.payload ∧ slice e.headerBytes 40 8 = e.body.kindFields ∧
    slice e.headerBytes 48 16 = zeros 16 := by
  refine ⟨headerBytes_field (off := 0) 0 rfl rfl rfl, headerBytes_field 1 rfl rfl rfl, headerBytes_field 2 rfl ?_ ?_,
    headerBytes_field 3 rfl ?_ ?_, headerBytes_field 4 rfl ?_ ?_, headerBytes_field 5 rfl ?_ ?_,
    headerBytes_field 6 rfl ?_ ?_, headerBytes_field 7 rfl ?_ ?_, headerBytes_field 8 rfl ?_ ?_,
    headerBytes_field 9 rfl ?_ ?_, headerBytes_field 10 rfl ?_ ?_⟩ <;> simp [CommitEntry.headerFields]

/-- A record without payload has no kind fields. -/
theorem headerBytes_rest {e : CommitEntry} (h : e.body.isData = false) : slice e.headerBytes 40 24 = zeros 24 := by
  obtain ⟨-, -, -, -, -, -, -, -, -, hkind, hrest⟩ := headerBytes_layout e
  rw [slice_add _ 40 8 16, hkind, hrest, kindFields_of_not_data h, zeros_append]

theorem flags_bytes (h : RecHeader) : leBytes 2 h.flags = [match h.saturated, h.continuation with
    | false, false => 0#8 | true, false => 1#8 | false, true => 2#8 | true, true => 3#8, 0#8] := by
  unfold RecHeader.flags
  cases h.saturated <;> cases h.continuation <;> rfl

/-! ### The bodies of OPEN, GAP, MARK and CLOSE (section 11.1) -/

theorem bodyBytes_open {e : CommitEntry} {start epoch whole frac kmin kmax : Nat} {w : Width} {p : Policy}
    (h : e.body = .openRec start epoch whole frac w kmin kmax p) : e.bodyBytes =
      leBytes 4 e.header.runId ++ leBytes 6 start ++ zeros 2 ++ leBytes 8 epoch ++ leBytes 4 whole ++ leBytes 4 frac ++
        [BitVec.ofNat 8 w.code, BitVec.ofNat 8 kmin, BitVec.ofNat 8 kmax, BitVec.ofNat 8 p.code] ++ zeros 344 := by
  simp [CommitEntry.bodyBytes, h, padTo, slot8, byteField_eq]

theorem bodyBytes_gap {e : CommitEntry} {first len k : Nat} {c : Causes} (h : e.body = .gapRec first len c k) :
    e.bodyBytes = leBytes 6 first ++ zeros 2 ++ leBytes 6 len ++ zeros 2 ++
      [BitVec.ofNat 8 c.code, BitVec.ofNat 8 k] ++ zeros 358 := by
  simp [CommitEntry.bodyBytes, h, padTo, slot8, byteField_eq]

theorem bodyBytes_mark {e : CommitEntry} {index lost : Nat} {source : MarkSource}
    (h : e.body = .markRec index source lost) : e.bodyBytes =
      leBytes 6 index ++ [BitVec.ofNat 8 source.code, 0#8] ++ leBytes 2 lost ++ zeros 366 := by
  simp [CommitEntry.bodyBytes, h, padTo, byteField_eq, show zeros 1 = [0#8] from rfl]

theorem bodyBytes_close {e : CommitEntry} {stop kept covered gaps discarded : Nat} {reason : CloseReason}
    (h : e.body = .closeRec stop reason kept covered gaps discarded) : e.bodyBytes =
      leBytes 6 stop ++ [BitVec.ofNat 8 reason.code, 0#8] ++ leBytes 6 kept ++ zeros 2 ++ leBytes 6 covered ++
        zeros 2 ++ leBytes 6 gaps ++ zeros 2 ++ leBytes 2 discarded ++ zeros 342 := by
  simp [CommitEntry.bodyBytes, h, padTo, slot8, byteField_eq, show zeros 1 = [0#8] from rfl]

/-! ### The trailer of a DATA record (R133, section 11.1) -/

/-- A damage span as the trailer shows it. -/
def Span.bytes (p : Span) : List Byte := leBytes 4 p.off ++ leBytes 4 p.count

@[simp] theorem Span.bytes_length (p : Span) : p.bytes.length = 8 := by simp [Span.bytes]

/-- The trailer before its CRC field by field: the counts, then eight span slots. -/
def trailerFields (spans : List Span) (overflow : Bool) : List (List Byte) :=
  [BitVec.ofNat 8 spans.length, boolByte overflow, 0#8, 0#8] ::
    (spans.map Span.bytes ++ List.replicate (8 - spans.length) (zeros 8))

theorem slots_getElem? (spans : List Span) {j : Nat} (hj : j < 8) :
    (spans.map Span.bytes ++ List.replicate (8 - spans.length) (zeros 8))[j]? =
      some (match spans[j]? with
        | some p => leBytes 4 p.off ++ leBytes 4 p.count
        | none => zeros 8) := by
  by_cases hspan : j < spans.length
  · rw [List.getElem?_append_left (by simpa using hspan), List.getElem?_map, List.getElem?_eq_getElem hspan]
    rfl
  · rw [List.getElem?_append_right (by simpa using hspan), List.getElem?_eq_none (l := spans) (by omega),
      List.getElem?_replicate, if_pos (by simp; omega)]

theorem flatten_length_of_forall {fields : List (List Byte)} {n : Nat} (h : ∀ f ∈ fields, f.length = n) :
    fields.flatten.length = fields.length * n := by
  rw [List.length_flatten, List.map_congr_left h, List.map_const', List.sum_replicate, smul_eq_mul]

theorem slots_length (spans : List Span) :
    ∀ f ∈ spans.map Span.bytes ++ List.replicate (8 - spans.length) (zeros 8), f.length = 8 := by
  intro f hf
  obtain hf | hf := List.mem_append.1 hf
  · obtain ⟨p, -, rfl⟩ := List.mem_map.1 hf
    exact p.bytes_length
  · rw [List.eq_of_mem_replicate hf, zeros_length]

section Trailer

variable {spans : List Span} (hspans : spans.length ≤ 8) (overflow : Bool)

include hspans

theorem trailerHead_eq : trailerHead true spans overflow = (trailerFields spans overflow).flatten := by
  have hzeros (m : Nat) : (List.replicate m (zeros 8)).flatten = zeros (m * 8) :=
    List.flatten_replicate_replicate
  have hlen : (spans.map Span.bytes).flatten.length = spans.length * 8 := by
    rw [flatten_length_of_forall (n := 8) (by simp), List.length_map]
  have hspan : (spans.flatMap fun p => leBytes 4 p.off ++ leBytes 4 p.count) = (spans.map Span.bytes).flatten := by
    rw [List.flatMap_def]
    rfl
  have hrest : 68 - (1 + 1 + 2 + spans.length * 8) = (8 - spans.length) * 8 := by omega
  rw [trailerHead, if_pos rfl, hspan, padTo, trailerFields, List.flatten_cons, List.flatten_append, hzeros, ← hrest]
  simp only [List.length_append, byteField_length, List.length_singleton, zeros_length, hlen]
  simp only [byteField_eq, List.append_assoc]
  rfl

theorem trailerHead_length : (trailerHead true spans overflow).length = 68 := by
  rw [trailerHead_eq hspans, trailerFields, List.flatten_cons, List.length_append,
    flatten_length_of_forall (slots_length spans)]
  simp
  omega

theorem trailerHead_counts : slice (trailerHead true spans overflow) 0 4 =
    [BitVec.ofNat 8 spans.length, boolByte overflow, 0#8, 0#8] := by
  rw [trailerHead_eq hspans]
  exact slice_flatten 0 rfl rfl rfl

theorem trailerHead_slot {j : Nat} (hj : j < 8) : slice (trailerHead true spans overflow) (4 + 8 * j) 8 =
    match spans[j]? with
    | some p => leBytes 4 p.off ++ leBytes 4 p.count
    | none => zeros 8 := by
  have hget := slots_getElem? spans hj
  rw [trailerHead_eq hspans]
  refine slice_flatten (j + 1) hget ?_ (slots_length spans _ (List.mem_of_getElem? hget))
  rw [trailerFields, List.take_succ_cons, List.flatten_cons, List.length_append,
    flatten_length_of_forall fun f hf => slots_length spans f (List.mem_of_mem_take hf)]
  simp
  omega

end Trailer

/-! ### The last transfer of a DATA record (R106, R133) -/

theorem laidBytes_length {e : CommitEntry} {r : Replay} (hbytes : r.bytes.length = r.len) :
    (e.laidBytes r).length = r.len := by simp [CommitEntry.laidBytes, hbytes]

/-- A DATA record has no body: what is neither header, payload nor trailer is zero. -/
theorem fixedByte_padding {e : CommitEntry} (hdata : e.body.isData = true) (head trailer : List Byte) {p : Nat}
    (hhead : 64 ≤ p) (hp : p < e.size - 72) : e.fixedByte head e.bodyBytes trailer p = 0#8 := by
  have hbody : e.bodyBytes = [] := by
    unfold CommitEntry.bodyBytes
    cases hb : e.body with
    | dataRec => rfl
    | openRec | gapRec | markRec | closeRec => rw [hb] at hdata; exact absurd hdata nofun
  rw [CommitEntry.fixedByte, if_neg (by omega), if_neg (by omega), hbody]
  rfl

section LastTransfer

variable {e : CommitEntry} {r : Replay} (hlast : r.off + r.len = e.size) (hbytes : r.bytes.length = r.len)
  (hdata : e.body.isData = true)

include hlast

/-- The bytes of the last transfer: those laid, then the CRC-32 over all before it. -/
theorem sealedBytes_last : e.sealedBytes r = (e.laidBytes r).take (r.len - 4) ++
    leBytes 4 (~~~ (crc32Over e.xfer.crc ((e.laidBytes r).take (r.len - 4)))).toNat := by
  rw [CommitEntry.sealedBytes, CommitEntry.withCrc, Replay.isLast, decide_eq_true hlast]
  rfl

include hbytes

theorem sealedBytes_front : (e.sealedBytes r).take (r.len - 4) = (e.laidBytes r).take (r.len - 4) := by
  rw [sealedBytes_last hlast, List.take_left']
  simp [laidBytes_length hbytes]

/-- Before the CRC field the bytes are those laid. -/
theorem sealedBytes_getElem? {q : Nat} (hq : q < r.len - 4) : (e.sealedBytes r)[q]? = (e.laidBytes r)[q]? := by
  rw [← List.getElem?_take_of_lt hq, sealedBytes_front hlast hbytes, List.getElem?_take_of_lt hq]

theorem sealedBytes_slice {off n : Nat} (h : off + n ≤ r.len - 4) :
    slice (e.sealedBytes r) off n = slice (e.laidBytes r) off n := by
  have htake (bs : List Byte) : slice (bs.take (r.len - 4)) off n = slice bs off n :=
    (slice_slice (off := 0) h).trans (by rw [Nat.zero_add])
  rw [← htake, sealedBytes_front hlast hbytes, htake]

include hdata

/-- The trailer of the last transfer stands in its last 72 bytes. -/
theorem laidBytes_trailer (hlen : 72 ≤ r.len) (hsize : 64 + e.body.payload + 72 ≤ e.size)
    (hspans : (addSpans r.held e.xfer.spans e.xfer.overflow).1.length ≤ 8) :
    slice (e.laidBytes r) (r.len - 72) 68 = trailerHead true (addSpans r.held e.xfer.spans e.xfer.overflow).1
      (addSpans r.held e.xfer.spans e.xfer.overflow).2 := by
  have hhead := trailerHead_length hspans (addSpans r.held e.xfer.spans e.xfer.overflow).2
  refine List.ext_getElem? fun p => ?_
  obtain hp | hp := Nat.lt_or_ge p 68
  · have hat : r.off + (r.len - 72 + p) - (e.size - 72) = p := by omega
    have hpay : e.isPayload (r.off + (r.len - 72 + p)) = false := by
      simp only [CommitEntry.isPayload, Bool.and_eq_false_iff, decide_eq_false_iff_not]
      omega
    have htouched : r.touched e (r.len - 72 + p) = true := by
      unfold Replay.touched
      split
      · rfl
      · simp [Replay.isLast, hlast]
        omega
    have hbyte : r.bytes[r.len - 72 + p]? = some r.bytes[r.len - 72 + p] :=
      List.getElem?_eq_getElem (by omega)
    rw [slice, List.getElem?_take_of_lt hp, List.getElem?_drop, laidBytes_getElem?, hbyte, hpay, htouched, hdata,
      CommitEntry.fixedByte, if_neg (by omega), if_pos (by omega), hat]
    simp [List.getElem?_eq_getElem (hhead.symm ▸ hp)]
  · rw [List.getElem?_eq_none (by rw [slice, List.length_take]; omega), List.getElem?_eq_none (by omega)]

/-- The padding of a fill is zero. -/
theorem sealedBytes_padding (hfill : r.ranges = none) {q : Nat} (hq : q < r.len - 72)
    (hp : 64 + e.body.payload ≤ r.off + q) : (e.sealedBytes r).getD q 0#8 = 0#8 := by
  have hpay : e.isPayload (r.off + q) = false := by
    simp only [CommitEntry.isPayload, Bool.and_eq_false_iff, decide_eq_false_iff_not]
    omega
  have htouched : r.touched e q = true := by rw [Replay.touched, hfill]
  rw [List.getD_eq_getElem?_getD, sealedBytes_getElem? hlast hbytes (by omega), laidBytes_getElem?,
    List.getElem?_eq_getElem (by omega), hpay, htouched, fixedByte_padding hdata _ _ (by omega) (by omega)]
  rfl

end LastTransfer

/-! ### The statement -/

/-- Settles O38: timestamps and sizes by arithmetic, header and bodies field by field, and the last transfer of a DATA
record by its trailer (`laidBytes_trailer`), its CRC field and the bytes before them. -/
theorem recordBytes : Obligations.RecordBytes := by
  refine ⟨⟨fun x n cont => ⟨rfl, decide_eq_true_iff, rfl, rfl, rfl, fun m => header_stamp_mono x cont⟩,
    fun first k kept w runs => roundUp_512 _, fun b => size_of_not_data⟩, fun e => ?_, ?_⟩
  · obtain ⟨hsync, hkind, hrun, hseq, hindex, hflags, hstamp, hsize, hpayload, hfields, hrest⟩ := headerBytes_layout e
    refine ⟨headerBytes_length e, hsync, hkind, hrun, hseq, hindex, hflags.trans (flags_bytes e.header), hstamp, hsize,
      hpayload, ?_, fun _ => hrest, fun h => ⟨headerBytes_rest h, bodyBytes_length h⟩, ?_, ?_, ?_, ?_⟩
    · intro first k kept w runs h
      rw [hfields, h]
      cases w <;> rfl
    · intro start epoch whole frac w kmin kmax p h
      rw [bodyBytes_open h]
      cases w <;> cases p <;> rfl
    · exact fun first len c k h => bodyBytes_gap h
    · intro index source lost h
      rw [bodyBytes_mark h]
      cases source <;> rfl
    · intro stop reason kept covered gaps discarded h
      rw [bodyBytes_close h]
      cases reason <;> rfl
  · intro e r hdata hlast hbytes hlen hsize total bytes hspans
    have htrailer {a n : Nat} (h : a + n ≤ 68) :
        slice bytes (r.len - 72 + a) n = slice (trailerHead true total.1 total.2) a n := by
      rw [← laidBytes_trailer hlast hbytes hdata hlen hsize hspans, slice_slice h]
      exact sealedBytes_slice hlast hbytes (by omega)
    have hfront : ((e.laidBytes r).take (r.len - 4)).length = r.len - 4 := by simp [laidBytes_length hbytes]
    refine ⟨?_, ?_, fun j hj => ?_, ?_, fun q hq hp => ?_, fun hfill q hq hp =>
      sealedBytes_padding hlast hbytes hdata hfill hq hp⟩
    · show (e.sealedBytes r).length = r.len
      rw [sealedBytes_last hlast, List.length_append, hfront, leBytes_length]
      omega
    · exact (htrailer (a := 0) (by decide)).trans (trailerHead_counts hspans total.2)
    · rw [show r.len - 68 + 8 * j = r.len - 72 + (4 + 8 * j) by omega, htrailer (by omega)]
      exact trailerHead_slot hspans total.2 hj
    · show slice (e.sealedBytes r) (r.len - 4) 4 =
        leBytes 4 (~~~ crc32Over e.xfer.crc ((e.sealedBytes r).take (r.len - 4))).toNat
      rw [sealedBytes_front hlast hbytes, sealedBytes_last hlast, ← List.append_nil (leBytes 4 _)]
      exact slice_append _ _ _ _ _ hfront (leBytes_length ..)
    · show (e.sealedBytes r).getD q 0#8 = _
      rw [List.getD_eq_getElem?_getD, sealedBytes_payload hbytes (by omega) hp, List.getD_eq_getElem?_getD]

end Sys2Proof.Machine
end

section
/-! SUPPORT. STREAM_SETUP and RUN_START: their frames, their checks in order, and what they leave of a stream (R65 to
R69, section 11.3). -/

namespace Sys2Proof.Machine

/-! ### The request frames (section 11.3) -/

/-- A field of a body that is laid field by field is read back. -/
theorem fieldAt_flatten {w : Nat} {fields : List (List Byte)} {x : BitVec w} {off n : Nat} (j : Nat)
    (hf : fields[j]? = some (fieldBytes n x)) (hoff : (fields.take j).flatten.length = off) (h : 2 ^ w ≤ 256 ^ n) :
    fieldAt w fields.flatten off n = x := by
  rw [fieldAt, slice_flatten j hf hoff (leBytes_length ..)]
  exact ofNat_leNat_leBytes n x h

/-- STREAM_SETUP's body field by field. -/
def setupParts (f : SetupFields) : List (List Byte) :=
  [[f.stream, f.width, f.kmin, f.kmax, f.policy, f.cutOnMark], fieldBytes 2 f.flushAge, fieldBytes 4 f.base,
    fieldBytes 4 f.count, fieldBytes 4 f.intervalInt, fieldBytes 4 f.intervalFrac, fieldBytes 4 f.high,
    fieldBytes 4 f.low, fieldBytes 4 f.extent, fieldBytes 2 f.fillValue]

theorem encodeSetup_eq (f : SetupFields) : encodeSetup f = (setupParts f).flatten := by
  simp [encodeSetup, setupParts]

theorem decodeSetup_encodeSetup (f : SetupFields) : decodeSetup (encodeSetup f) = f := by
  have field {w : Nat} {x : BitVec w} {n : Nat} (off j : Nat) (hf : (setupParts f)[j]? = some (fieldBytes n x))
      (hoff : ((setupParts f).take j).flatten.length = off) (h : 2 ^ w ≤ 256 ^ n) :
      fieldAt w (encodeSetup f) off n = x := by
    rw [encodeSetup_eq]; exact fieldAt_flatten j hf hoff h
  rw [decodeSetup, field 6 1 rfl rfl (by decide), field 8 2 rfl rfl (by decide), field 12 3 rfl rfl (by decide),
    field 16 4 rfl rfl (by decide), field 20 5 rfl rfl (by decide), field 24 6 rfl rfl (by decide),
    field 28 7 rfl rfl (by decide), field 32 8 rfl rfl (by decide), field 36 9 rfl rfl (by decide)]
  rfl

/-- RUN_START's body field by field. -/
def startParts (f : StartFields) : List (List Byte) :=
  [[f.stream, f.mode, f.lengthPresent, 0#8], fieldBytes 4 f.runId, fieldBytes 6 f.startIndex, zeros 2,
    fieldBytes 8 f.epoch, fieldBytes 6 f.runLength, zeros 2]

theorem encodeStart_eq (f : StartFields) : encodeStart f = (startParts f).flatten := by
  simp [encodeStart, startParts]

theorem decodeStart_encodeStart (f : StartFields) : decodeStart (encodeStart f) = f := by
  have field {w : Nat} {x : BitVec w} {n : Nat} (off j : Nat) (hf : (startParts f)[j]? = some (fieldBytes n x))
      (hoff : ((startParts f).take j).flatten.length = off) (h : 2 ^ w ≤ 256 ^ n) :
      fieldAt w (encodeStart f) off n = x := by
    rw [encodeStart_eq]; exact fieldAt_flatten j hf hoff h
  rw [decodeStart, field 4 1 rfl rfl (by decide), field 8 2 rfl rfl (by decide), field 16 4 rfl rfl (by decide),
    field 24 5 rfl rfl (by decide)]
  rfl

theorem decodeFrame_streamSetup (tag : Byte) (f : SetupFields) :
    decodeFrame (requestFrame tag (.streamSetup f)) = .request (.streamSetup f) := by
  have hlen : (encodeSetup f).length = 38 := rfl
  change (if (encodeSetup f).length = 38 then Decoded.request (.streamSetup (decodeSetup (encodeSetup f)))
    else .badLength) = _
  rw [if_pos hlen, decodeSetup_encodeSetup]

theorem decodeFrame_runStart (tag : Byte) (f : StartFields) :
    decodeFrame (requestFrame tag (.runStart f)) = .request (.runStart f) := by
  have hlen : (encodeStart f).length = 32 := rfl
  change (if (encodeStart f).length = 32 then Decoded.request (.runStart (decodeStart (encodeStart f)))
    else .badLength) = _
  rw [if_pos hlen, decodeStart_encodeStart]

/-- A request whose frame decodes to it is taken at once and run (R178, R182). -/
theorem submit_request {s : State} (h : s.takesAtOnce) {tag : Byte} {r : Request}
    (hr : decodeFrame (requestFrame tag r) = .request r) :
    s.submit (requestFrame tag r) = (s.takeFrame []).runRequest tag r := by
  rw [submit_of_takesAtOnce h, State.runFrame, hr]
  rfl

/-- A request taken at once and refused changes nothing but its reply (R207). -/
theorem refuse_at_once {s : State} (h : s.takesAtOnce) (kind tag : Byte) (st : Status) :
    Host.Outcome.next ((s.takeFrame []).refuse kind tag st) =
      (.next (s.answered kind tag (BitVec.ofNat 8 st.code) []) : Result) :=
  congrArg Host.Outcome.next (reply_of_taken h rfl kind tag st [])

/-- A request taken at once that changes one stream and replies. -/
theorem setStream_at_once {s : State} (h : s.takesAtOnce) (i : StreamId) (x : Stream) (kind tag : Byte) (st : Status)
    (fields : List Byte) : Host.Outcome.next (((s.takeFrame []).setStream i x).reply kind tag st fields) =
      (.next ((s.setStream i x).answered kind tag (BitVec.ofNat 8 st.code) fields) : Result) :=
  congrArg Host.Outcome.next (reply_of_taken h (t := (s.takeFrame []).setStream i x) rfl kind tag st fields)

theorem exec_streamSetup {s : State} (h : s.takesAtOnce) (tag : Byte) (f : SetupFields) :
    exec (.streamSetup tag f) s = .next ((s.takeFrame []).streamSetup tag f) :=
  congrArg Host.Outcome.next (submit_request h (decodeFrame_streamSetup tag f))

theorem exec_runStart {s : State} (h : s.takesAtOnce) (tag : Byte) (f : StartFields) :
    exec (.runStart tag f) s = .next ((s.takeFrame []).runStart tag f) :=
  congrArg Host.Outcome.next (submit_request h (decodeFrame_runStart tag f))

/-! ### STREAM_SETUP (R65 to R67) -/

@[simp] theorem widthOf_code (w : Width) : widthOf w.code = some w := by cases w <;> rfl

@[simp] theorem policyOf_code (p : Policy) : policyOf p.code = some p := by cases p <;> rfl

@[simp] theorem startModeOf_code (m : StartMode) : startModeOf m.code = some m := by cases m <;> rfl

theorem code_of_widthOf {n : Nat} {w : Width} (h : widthOf n = some w) : n = w.code := by
  unfold widthOf at h
  split at h
  · obtain rfl := Option.some.inj h; rfl
  · obtain rfl := Option.some.inj h; rfl
  · nomatch h

theorem code_of_policyOf {n : Nat} {p : Policy} (h : policyOf n = some p) : n = p.code := by
  unfold policyOf at h
  split at h
  · obtain rfl := Option.some.inj h; rfl
  · obtain rfl := Option.some.inj h; rfl
  · obtain rfl := Option.some.inj h; rfl
  · nomatch h

/-- The configuration the fields give with a width and a policy. -/
def setupGiven (f : SetupFields) (w : Width) (p : Policy) : StreamCfg where
  base := f.base.toNat
  count := f.count.toNat
  width := w
  intervalInt := f.intervalInt.toNat
  intervalFrac := f.intervalFrac.toNat
  kmin := f.kmin.toNat
  kmax := f.kmax.toNat
  policy := p
  high := f.high.toNat
  low := f.low.toNat
  extent := f.extent.toNat
  flushAge := f.flushAge.toNat
  cutOnMark := decide (f.cutOnMark = 1#8)
  fillValue := f.fillValue.toNat

/-- A byte that codes a width is one of the two the statement names. -/
theorem width_cases {b : Byte} {w : Width} (h : b.toNat = w.code) :
    (b = 8#8 ∨ b = 16#8) ∧ (w = .w8 ↔ b = 8#8) := by
  cases w with
  | w8 => obtain rfl : b = 8#8 := BitVec.eq_of_toNat_eq h; simp
  | w16 => obtain rfl : b = 16#8 := BitVec.eq_of_toNat_eq h; simp

/-- Fields within their accepted values name a width and a policy. -/
theorem codes_of_inRange {f : SetupFields} (h : setupInRange f) :
    (∃ w : Width, f.width.toNat = w.code) ∧ ∃ p : Policy, f.policy.toNat = p.code := by
  obtain ⟨-, -, -, hwidth, -, -, -, -, hpolicy, -⟩ := h
  refine ⟨?_, ?_⟩
  · obtain hw | hw := hwidth
    · exact ⟨.w8, congrArg BitVec.toNat hw⟩
    · exact ⟨.w16, congrArg BitVec.toNat hw⟩
  · obtain hp | hp | hp : f.policy.toNat = 0 ∨ f.policy.toNat = 1 ∨ f.policy.toNat = 2 := by omega
    · exact ⟨.dropNew, hp⟩
    · exact ⟨.dropOld, hp⟩
    · exact ⟨.decimate, hp⟩

/-- The bounds that fields with a width and a policy have to keep are those of section 4.2. -/
theorem setupConfig_eq_some_iff {f : SetupFields} {w : Width} {p : Policy} (hw : f.width.toNat = w.code)
    (hp : f.policy.toNat = p.code) (c : StreamCfg) :
    setupConfig f = some c ↔ setupInRange f ∧ c = setupGiven f w p := by
  obtain ⟨hwidth, hw8⟩ := width_cases hw
  have hpolicy : f.policy.toNat ≤ 2 := by rw [hp]; cases p <;> decide
  have hzero {x : BitVec 32} : x.toNat = 0 ↔ x = 0#32 := BitVec.toNat_inj (y := 0#32)
  have hone : f.cutOnMark.toNat = 1 ↔ f.cutOnMark = 1#8 := BitVec.toNat_inj (y := 1#8)
  rw [setupConfig, hw, hp, widthOf_code, policyOf_code]
  dsimp only
  simp only [hzero, hone, hw8, Option.ite_none_right_eq_some, Option.some.injEq]
  refine and_congr ⟨?_, ?_⟩ eq_comm
  · rintro ⟨h1, h2, h3, h4, h5, h6, h7, h8, h9, h10, h11, h12, h13, h14, h15, h16⟩
    exact ⟨h1, h2, h3, hwidth, h4, h5, h7, h6, hpolicy, h8, h9, h10, h11, h12, h13, h14, h15, h16⟩
  · rintro ⟨h1, h2, h3, -, h4, h5, h7, h6, -, h8, h9, h10, h11, h12, h13, h14, h15, h16⟩
    exact ⟨h1, h2, h3, h4, h5, h6, h7, h8, h9, h10, h11, h12, h13, h14, h15, h16⟩

theorem setupConfig_of_inRange {f : SetupFields} (h : setupInRange f) {w : Width} {p : Policy}
    (hw : f.width.toNat = w.code) (hp : f.policy.toNat = p.code) : setupConfig f = some (setupGiven f w p) :=
  (setupConfig_eq_some_iff hw hp _).2 ⟨h, rfl⟩

theorem setupConfig_of_not_inRange {f : SetupFields} (h : ¬ setupInRange f) : setupConfig f = none := by
  refine Option.eq_none_iff_forall_ne_some.2 fun c hc => h ?_
  have hcodes : ∃ w p, widthOf f.width.toNat = some w ∧ policyOf f.policy.toNat = some p := by
    unfold setupConfig at hc
    split at hc
    · next w p hw hp => exact ⟨w, p, hw, hp⟩
    · nomatch hc
  obtain ⟨w, p, hw, hp⟩ := hcodes
  exact ((setupConfig_eq_some_iff (code_of_widthOf hw) (code_of_policyOf hp) c).1 hc).1

/-- Two pools overlap when a block belongs to both (R65 order 5). -/
theorem poolOverlaps_iff (s : State) (i : StreamId) (base count : Nat) :
    s.poolOverlaps i base count = true ↔ s.poolTaken i base count := by
  have hmeet (j : StreamId) : rangesMeet (s.stream j).cfg.base (s.stream j).cfg.count base count = true ↔
      ∃ b, base ≤ b ∧ b < base + count ∧ (s.stream j).cfg.base ≤ b ∧
        b < (s.stream j).cfg.base + (s.stream j).cfg.count := by
    rw [rangesMeet_comm, rangesMeet_iff]
  simp only [State.poolOverlaps, State.poolTaken, List.any_eq_true, Bool.and_eq_true, decide_eq_true_iff, hmeet,
    StreamId.mem_all, true_and, and_assoc]

section Setup

variable {s : State} {f : SetupFields} {i : StreamId} (tag : Byte) (hi : f.stream.toNat = i.num)

include hi in
theorem streamSetup_of_busy (hu : (s.stream i).phase ≠ .unconfigured) (hd : (s.stream i).phase ≠ .idle) :
    s.streamSetup tag f = s.refuse kindStreamSetup tag .state := by
  rw [State.streamSetup, streamOf_num hi]
  exact if_pos (not_or.2 ⟨hu, hd⟩)

variable (hp : (s.stream i).phase = .unconfigured ∨ (s.stream i).phase = .idle)
include hi hp

theorem streamSetup_of_zero (hc : f.count = 0#32) :
    s.streamSetup tag f = (s.setStream i (s.stream i).unconfigure).reply kindStreamSetup tag .ok [] := by
  rw [State.streamSetup, streamOf_num hi]
  exact (if_neg (not_not.2 hp)).trans (if_pos hc)

theorem streamSetup_of_range (hc : f.count ≠ 0#32) (hr : ¬ setupInRange f) :
    s.streamSetup tag f = s.refuse kindStreamSetup tag .range := by
  rw [State.streamSetup, streamOf_num hi, setupConfig_of_not_inRange hr]
  exact (if_neg (not_not.2 hp)).trans (if_neg hc)

/-- Fields within their accepted values are refused when their pool is taken and configure the stream else. -/
theorem streamSetup_of_inRange (hr : setupInRange f) {w : Width} {p : Policy} (hw : f.width.toNat = w.code)
    (hpol : f.policy.toNat = p.code) : s.streamSetup tag f =
      if s.poolOverlaps i f.base.toNat f.count.toNat then s.refuse kindStreamSetup tag .overlap
      else (s.setStream i ((s.stream i).configure (setupGiven f w p))).reply kindStreamSetup tag .ok [] := by
  have hc : f.count ≠ 0#32 := by
    obtain ⟨-, hmin, -⟩ := hr
    rintro h
    rw [h] at hmin
    exact absurd hmin (by decide)
  rw [State.streamSetup, streamOf_num hi, setupConfig_of_inRange hr hw hpol]
  exact (if_neg (not_not.2 hp)).trans (if_neg hc)

end Setup

/-- Settles O7: the checks in the order of R65, each with the status of the first that fails. -/
theorem streamSetup : Obligations.StreamSetup := by
  refine ⟨fun tag f s i h hi hp => ⟨fun w p hr hfree hw hpol => ?_, fun hc => ?_⟩,
    fun tag f s h => ⟨fun hi => ?_, fun i hi => ⟨fun hu hd => ?_, fun hp hc => ⟨fun hr => ?_,
      fun hr htaken => ?_⟩⟩⟩⟩
  · have hfree : (s.takeFrame []).poolOverlaps i f.base.toNat f.count.toNat = false :=
      Bool.eq_false_iff.2 fun ht => hfree ((poolOverlaps_iff ..).1 ht)
    rw [exec_streamSetup h, streamSetup_of_inRange (s := s.takeFrame []) tag hi hp hr hw hpol, hfree]
    exact setStream_at_once h i _ kindStreamSetup tag .ok _
  · rw [exec_streamSetup h, streamSetup_of_zero (s := s.takeFrame []) tag hi hp hc]
    exact setStream_at_once h i _ kindStreamSetup tag .ok _
  · rw [exec_streamSetup h, State.streamSetup, streamOf_none hi]
    exact refuse_at_once h kindStreamSetup tag .range
  · rw [exec_streamSetup h, streamSetup_of_busy (s := s.takeFrame []) tag hi hu hd]
    exact refuse_at_once h kindStreamSetup tag .state
  · rw [exec_streamSetup h, streamSetup_of_range (s := s.takeFrame []) tag hi hp hc hr]
    exact refuse_at_once h kindStreamSetup tag .range
  · obtain ⟨⟨w, hw⟩, p, hpol⟩ := codes_of_inRange hr
    have htaken : (s.takeFrame []).poolOverlaps i f.base.toNat f.count.toNat = true := (poolOverlaps_iff ..).2 htaken
    rw [exec_streamSetup h, streamSetup_of_inRange (s := s.takeFrame []) tag hi hp hr hw hpol, htaken]
    exact refuse_at_once h kindStreamSetup tag .overlap

/-! ### RUN_START (R68, R69) -/

theorem startModeOf_none {n : Nat} (h : 3 < n) : startModeOf n = none := by
  obtain ⟨m, rfl⟩ : ∃ m, n = m + 4 := ⟨n - 4, by omega⟩
  rfl

theorem startMode_cases (n : Nat) : 3 < n ∨ ∃ m : StartMode, n = m.code := by
  obtain hn | rfl | rfl | rfl | rfl : 3 < n ∨ n = 0 ∨ n = 1 ∨ n = 2 ∨ n = 3 := by omega
  · exact .inl hn
  · exact .inr ⟨.immediate, rfl⟩
  · exact .inr ⟨.aux0, rfl⟩
  · exact .inr ⟨.aux1, rfl⟩
  · exact .inr ⟨.laneTrigger, rfl⟩

/-- The checks of R68 after the mode: a start index out of range, or a run length of 0. -/
theorem start_refused_iff (f : StartFields) :
    (!startIndexOk f || (f.lengthPresent != 0#8 && f.runLength == 0#48)) = true ↔
      f.startIndex.toNat % 131072 ≠ 0 ∨ 2 ^ 48 - 131072 ≤ f.startIndex.toNat ∨
        (f.lengthPresent ≠ 0#8 ∧ f.runLength = 0#48) := by
  have hlimit : indexLimit = 2 ^ 48 - 131072 := rfl
  have hok : startIndexOk f = true ↔ f.startIndex.toNat % 131072 = 0 ∧ f.startIndex.toNat < 2 ^ 48 - 131072 := by
    rw [startIndexOk, Bool.and_eq_true, decide_eq_true_iff, decide_eq_true_iff, grain, hlimit]
  rw [Bool.or_eq_true, Bool.not_eq_true', ← Bool.not_eq_true, hok, not_and_or, Nat.not_lt, or_assoc]
  simp

section Start

variable {s : State} {f : StartFields} {i : StreamId} (tag : Byte) (hi : f.stream.toNat = i.num)
include hi

theorem runStart_of_busy (hp : (s.stream i).phase ≠ .idle) :
    s.runStart tag f = s.refuse kindRunStart tag .state := by
  rw [State.runStart, streamOf_num hi]
  exact if_pos hp

variable (hp : (s.stream i).phase = .idle)
include hp

theorem runStart_of_powerFail (hf : s.powerFail = true) : s.runStart tag f = s.refuse kindRunStart tag .held := by
  rw [State.runStart, streamOf_num hi]
  exact (if_neg (not_not.2 hp)).trans (if_pos hf)

variable (hf : s.powerFail = false)
include hf

theorem runStart_of_mode (hm : 3 < f.mode.toNat) : s.runStart tag f = s.refuse kindRunStart tag .range := by
  rw [State.runStart, streamOf_num hi, startModeOf_none hm]
  exact (if_neg (not_not.2 hp)).trans (if_neg (by simp [hf]))

/-- A RUN_START with a start mode is refused by its index and length, or sets up the run. -/
theorem runStart_of_known {m : StartMode} (hm : f.mode.toNat = m.code) : s.runStart tag f =
    if !startIndexOk f || (f.lengthPresent != 0#8 && f.runLength == 0#48) then s.refuse kindRunStart tag .range
    else
      let y := if m = .immediate then runEntered (runGiven (s.stream i) m f) else runGiven (s.stream i) m f
      (s.setStream i y).reply kindRunStart tag .ok (byteField y.phase.code ++ zeros 3) := by
  rw [State.runStart, streamOf_num hi, hm, startModeOf_code]
  exact (if_neg (not_not.2 hp)).trans (if_neg (by simp [hf]))

/-- An accepted RUN_START leaves the stream RUNNING in mode IMMEDIATE and ARMED in any other (R69). -/
theorem runStart_of_accepted {m : StartMode} (hm : f.mode.toNat = m.code) (hgrain : f.startIndex.toNat % 131072 = 0)
    (hlimit : f.startIndex.toNat < 2 ^ 48 - 131072) (hlen : f.lengthPresent = 0#8 ∨ f.runLength ≠ 0#48) :
    s.runStart tag f =
      if m = .immediate then
        (s.setStream i (runEntered (runGiven (s.stream i) m f))).reply kindRunStart tag .ok [3#8, 0#8, 0#8, 0#8]
      else (s.setStream i (runGiven (s.stream i) m f)).reply kindRunStart tag .ok [2#8, 0#8, 0#8, 0#8] := by
  have hok : ¬ (!startIndexOk f || (f.lengthPresent != 0#8 && f.runLength == 0#48)) = true := by
    rw [start_refused_iff]
    rintro (hg | hl | ⟨hl, hr⟩)
    · exact hg hgrain
    · exact absurd hlimit (Nat.not_lt.2 hl)
    · exact hlen.elim hl (· hr)
  rw [runStart_of_known tag hi hp hf hm, if_neg hok]
  split <;> rfl

end Start

/-- Settles O8: the checks in the order of R68, and the run set up as ARMED or RUNNING. -/
theorem runStartStartsOrRefuses : Obligations.RunStartStartsOrRefuses := by
  intro tag f s h
  refine ⟨fun hi => ?_, fun i hi => ⟨fun hp => ?_, fun hp hf => ?_, fun hp hf => ⟨fun hbad => ?_,
    fun m hm hgrain hlimit hlen => ⟨fun himm => ?_, fun himm => ?_⟩⟩⟩⟩
  · rw [exec_runStart h, State.runStart, streamOf_none hi]
    exact refuse_at_once h kindRunStart tag .range
  · rw [exec_runStart h, runStart_of_busy (s := s.takeFrame []) tag hi hp]
    exact refuse_at_once h kindRunStart tag .state
  · rw [exec_runStart h, runStart_of_powerFail (s := s.takeFrame []) tag hi hp hf]
    exact refuse_at_once h kindRunStart tag .held
  · have hrefuse : (s.takeFrame []).runStart tag f = (s.takeFrame []).refuse kindRunStart tag .range := by
      obtain hmode | ⟨m, hm⟩ := startMode_cases f.mode.toNat
      · exact runStart_of_mode (s := s.takeFrame []) tag hi hp hf hmode
      · have hle : ¬ 3 < f.mode.toNat := by rw [hm]; cases m <;> decide
        rw [runStart_of_known (s := s.takeFrame []) tag hi hp hf hm,
          if_pos ((start_refused_iff f).2 (hbad.resolve_left hle))]
    rw [exec_runStart h, hrefuse]
    exact refuse_at_once h kindRunStart tag .range
  · rw [exec_runStart h, runStart_of_accepted (s := s.takeFrame []) tag hi hp hf hm hgrain hlimit hlen, if_pos himm]
    exact setStream_at_once h i _ kindRunStart tag .ok _
  · rw [exec_runStart h, runStart_of_accepted (s := s.takeFrame []) tag hi hp hf hm hgrain hlimit hlen, if_neg himm]
    exact setStream_at_once h i _ kindRunStart tag .ok _

end Sys2Proof.Machine
end

section
/-! SUPPORT. RUN_ABORT and DRAIN_RESUME: what an abort leaves of its stream, of the port, of a PREVIEW and of the STUCK
entries, and what follows at once (R16, R46, R54, R73 to R76, R102, R154, R155). -/

namespace Sys2Proof.Machine

/-! ### What follows at once, field by field (R19, R130, R132) -/

section Settle

variable (s : State)

/-- The choice of a SENDING entry changes the commit list alone (R130). -/
theorem selectSending_eq (l : Link) : l.selectSending = { l with commit := l.selectSending.commit } := by
  unfold Link.selectSending
  split <;> rfl

/-- Everything the start of a build can change: the buffer, the arming of REPLAY and the device notices. -/
theorem startBuild_eq : ∃ r a d, s.startBuild = { s with
    link := { s.link with replay := r },
    integ := { s.integ with replay := { s.integ.replay with arming := a } },
    notices := { s.notices with device := d } } := by
  obtain h | ⟨e, -, -, -, h | h⟩ := startBuild_cases s
  · exact ⟨_, _, _, h⟩
  · obtain ⟨r, h' | h'⟩ := finishBuild_eq s e e.freshReplay <;> exact ⟨some r, _, _, h.trans h'⟩
  · exact ⟨some e.freshReplay, _, _, h⟩

theorem settle_link :
    s.settle.link = { s.link with commit := s.link.selectSending.commit, replay := s.settle.link.replay } := by
  obtain ⟨r, a, d, h⟩ := startBuild_eq (s.modLink Link.selectSending)
  rw [State.settle, portGrant_link, h, State.modLink_link, selectSending_eq]

theorem settle_integ : s.settle.integ =
    { s.integ with replay := { s.integ.replay with arming := s.settle.integ.replay.arming } } := by
  obtain ⟨r, a, d, h⟩ := startBuild_eq (s.modLink Link.selectSending)
  rw [State.settle, portGrant_integ, h]
  rfl

theorem settle_streamNotices : s.settle.notices.streams = s.notices.streams := by
  obtain ⟨r, a, d, h⟩ := startBuild_eq (s.modLink Link.selectSending)
  rw [State.settle, portGrant_notices, h]
  rfl

/-- Nothing is built with the link down, with no entry SENDING, or while a transfer is held (R132). -/
theorem settle_without_build
    (h : s.link.state ≠ .up ∨ s.link.selectSending.sending = none ∨ s.link.replay ≠ none) :
    s.settle.link.replay = s.link.replay ∧ s.settle.integ = s.integ ∧ s.settle.notices = s.notices := by
  have hsel := selectSending_eq s.link
  have hnone : (s.modLink Link.selectSending).startBuild = s.modLink Link.selectSending := by
    obtain hb | ⟨e, hs, hu, hr, -⟩ := startBuild_cases (s.modLink Link.selectSending)
    · exact hb
    · rw [State.modLink_link] at hs hu hr
      obtain h | h | h := h
      · rw [hsel] at hu
        exact absurd (by simpa [Link.isUp] using hu) h
      · exact nomatch h.symm.trans hs
      · rw [hsel] at hr
        exact absurd hr h
  rw [State.settle, portGrant_link, portGrant_integ, portGrant_notices, hnone, State.modLink_link, hsel]
  exact ⟨rfl, rfl, rfl⟩

/-- A port that has granted an access grants no other (R19). -/
theorem settle_port_of_granted {a : Access} (h : s.port.granted = some a) : s.settle.port = s.port := by
  have hport : ((s.modLink Link.selectSending).startBuild).port = s.port := startBuild_port _
  rw [State.settle, State.portGrant, hport, h]
  exact hport

end Settle

/-! ### What an abort leaves of its stream (R16, R46, R54, R74) -/

/-- The causes gathered over a list of entries. -/
theorem foldl_union_causes (l : List Entry) (c : Causes) :
    l.foldl (fun c e => c.union (gapCauses e.gap)) c =
      ⟨c.ringFullNew || l.any fun e => (gapCauses e.gap).ringFullNew,
       c.ringFullOld || l.any fun e => (gapCauses e.gap).ringFullOld,
       c.aborted || l.any fun e => (gapCauses e.gap).aborted⟩ := by
  induction l generalizing c with
  | nil => simp
  | cons e l ih =>
    rw [List.foldl_cons, ih]
    simp [Causes.union, Bool.or_assoc]

/-- The ABORTED gap has the causes of every gap it takes over (R74 step 3). -/
theorem abortCauses_eq (x : Stream) : x.abortCauses = abortGathers x := by
  unfold Stream.abortCauses abortGathers
  rw [foldl_union_causes]
  cases htail : x.cutter.tailGap <;> by_cases hmode : x.writer.mode = .dropping <;>
    simp [abortFreed, Entry.freedByAbort, Causes.union, Causes.abortedOnly, Causes.newOnly, hmode]

/-- What an abort keeps of the capture list is DRAINED (R16). -/
theorem abortList_eq (l : List Entry) : abortList l =
    (l.filter fun e => e.st == .draining || e.st == .drained).map fun e => { e with st := .drained } := by
  have hkeep (e : Entry) : (!e.freedByAbort) = (e.st == .draining || e.st == .drained) := by
    unfold Entry.freedByAbort
    cases e.st <;> rfl
  simp only [abortList, hkeep]
  refine List.map_congr_left fun e he => ?_
  obtain ⟨-, hst⟩ := List.mem_filter.1 he
  split
  · rfl
  · next hdraining =>
    have hdrained : e.st = .drained := by simpa [hdraining] using hst
    rw [← hdrained]

theorem aborted_eq (x : Stream) : x.aborted = abortedAs x := by
  have hspare : (abortFreed x.capture).foldl (fun sp e => e.block :: sp) x.spare =
      ((x.capture.filter fun e => e.st == .filling || e.st == .full).map (·.block)).reverse ++ x.spare :=
    List.foldl_flip_cons_eq_append
  have hdiscard : satAdd 65535 x.cutter.discarded x.discardCount = min 65535
      (x.cutter.discarded + x.markers.length + (x.markers.map (·.lost)).sum + x.lost) := by
    unfold satAdd Stream.discardCount
    omega
  have hgap : (x.cutter.cutIndex < x.writer.index ∧ ¬ x.cutter.closeCut = true) =
      (x.cutter.closeCut = false ∧ x.cutter.cutIndex < x.writer.index) := by
    rw [Bool.not_eq_true, and_comm]
  unfold Stream.aborted abortedAs
  simp only [hspare, hdiscard, hgap, abortCauses_eq, abortList_eq]
  rfl

/-! ### What an abort leaves of the whole part (R73, R74) -/

/-- An abort touches its stream, the samples a PREVIEW of the stream still has to read, and a granted flush of the
stream. -/
def State.runAborted (s : State) (i : StreamId) : State :=
  { s with
    preview := (s.previewSnap i).preview,
    port := s.port.orphanFlush i (s.stream i).writer }.setStream i (abortedAs (s.stream i))

theorem abortRun_eq (s : State) (i : StreamId) : s.abortRun i =
    if (s.stream i).drain = .blocked then (s.runAborted i).replaceStuck i else s.runAborted i := by
  have hsnap : s.previewSnap i = { s with preview := (s.previewSnap i).preview } := by
    obtain h | ⟨p, segs, -, -, h⟩ := previewSnap_cases s i <;> rw [h]
  have hrun : State.modStream { s.previewSnap i with
      port := (s.previewSnap i).port.orphanFlush i ((s.previewSnap i).stream i).writer } i Stream.aborted =
      s.runAborted i := by
    rw [hsnap, State.modStream, aborted_eq]
    rfl
  have hdrain : ((s.runAborted i).stream i).drain = (s.stream i).drain :=
    (congrArg Stream.drain (State.setStream_stream_self _ i (abortedAs (s.stream i)))).trans rfl
  unfold State.abortRun
  dsimp only
  rw [hrun, hdrain]

/-- A PREVIEW of the stream keeps its place in the reply; any other stays as it is (log 10). -/
theorem runAborted_preview (s : State) (i : StreamId) :
    (s.preview = none ∨ (∃ p, s.preview = some p ∧ p.stream ≠ i) ∨ (s.stream i).writer.filling = none →
      (s.runAborted i).preview = s.preview) ∧
    ∀ p, s.preview = some p → ∃ segs, (s.runAborted i).preview = some { p with segs := segs } := by
  change (_ → (s.previewSnap i).preview = _) ∧ ∀ p, _ → ∃ segs, (s.previewSnap i).preview = _
  refine ⟨?_, fun p hp => ?_⟩
  · rintro (h | ⟨p, hp, hi⟩ | h)
    · simp [State.previewSnap, h]
    · unfold State.previewSnap
      split
      · next q b hq hb =>
        obtain rfl := Option.some.inj (hp.symm.trans hq)
        rw [if_neg hi]
      · rfl
    · simp [State.previewSnap, h]
  · obtain h | ⟨q, segs, hq, -, h⟩ := previewSnap_cases s i
    · exact ⟨p.segs, by rw [h, hp]⟩
    · obtain rfl := Option.some.inj (hp.symm.trans hq)
      exact ⟨segs, by rw [h]⟩

/-- A granted access after an abort of stream `i`: a flush of the stream carries the bytes it was granted for (R19,
R46). -/
def Access.keepFlush (i : StreamId) (bytes : Option StageBuf) : Access → Access
  | .flush j addr none => if j = i then .flush j addr bytes else .flush j addr none
  | a => a

theorem orphanFlush_eq {p : Port} {a : Access} (h : p.granted = some a) (i : StreamId) (w : Writer) :
    p.orphanFlush i w = { p with granted := some (a.keepFlush i w.awaiting.head?) } := by
  have hp : p = { p with granted := some a } := by rw [← h]
  unfold Port.orphanFlush
  rw [h]
  obtain ⟨j, addr, _ | b⟩ | ⟨addr, len, pos, live⟩ | ⟨addr, len, live⟩ := a
  · by_cases hj : j = i
    · simp [Access.keepFlush, hj]
    · simpa [Access.keepFlush, hj] using hp
  all_goals exact hp

/-! ### RUN_ABORT (R73, R74) -/

/-- The frame of a RUN_ABORT decodes to the RUN_ABORT (section 11.3). -/
theorem exec_runAbort {s : State} (h : s.takesAtOnce) (tag b : Byte) :
    exec (.runAbort tag b) s = .next ((s.takeFrame []).runAbort tag b) := by
  change Host.Outcome.next (s.submit (requestFrame tag (.runAbort b))) = _
  rw [submit_of_takesAtOnce h]
  rfl

/-- The fields of the reply to an abort: CLOSING, the stop index and the length of the ABORTED gap (section 11.4). -/
def abortFields (x : Stream) : List Byte :=
  [4#8, 0#8, 0#8, 0#8] ++ leBytes 6 x.writer.index ++ zeros 2 ++
    leBytes 6 (if x.cutter.closeCut then 0 else x.writer.index - x.cutter.cutIndex) ++ zeros 2

theorem runAbort_of_active {s : State} (tag : Byte) {b : Byte} {i : StreamId} (hb : b.toNat = i.num)
    (hp : (s.stream i).phase = .running ∨ (s.stream i).phase = .closing) :
    s.runAbort tag b = ((s.abortRun i).settle).reply kindRunAbort tag .ok (abortFields (s.stream i)) := by
  have hfields : stopFields .closing (s.stream i).writer.index ++ slot8 (s.stream i).abortedGap =
      abortFields (s.stream i) := by
    simp only [stopFields, slot8, abortFields, Stream.abortedGap, List.append_assoc]
    rfl
  rw [← hfields, State.runAbort, streamOf_num hb]
  dsimp only
  obtain hp | hp := hp <;> rw [hp]

/-- The reply of a request taken at once joins the outbound queue as it stood. -/
theorem reply_ctl_of_taken {s t : State} (h : s.takesAtOnce) (ht : t.ctl = (s.takeFrame []).ctl) (kind tag : Byte)
    (st : Status) (fields : List Byte) :
    (t.reply kind tag st fields).ctl = (s.answered kind tag (BitVec.ofNat 8 st.code) fields).ctl :=
  (congrArg State.ctl (reply_of_taken h ht kind tag st fields)).trans rfl

/-- Settles O10: the phase decides, and an aborted run changes what `abortRun_eq` and the lemmas on `settle` say. -/
theorem runAbortAborts : Obligations.RunAbortAborts := by
  intro tag b s h
  refine ⟨fun hb => ?_, fun i hb => ⟨fun hp => ?_, fun hp => ?_, fun hp hdrain => ?_⟩⟩
  · rw [exec_runAbort h, State.runAbort, streamOf_none hb]
    exact refuse_at_once h kindRunAbort tag .range
  · have hrefuse : (s.takeFrame []).runAbort tag b = (s.takeFrame []).refuse kindRunAbort tag .state := by
      rw [State.runAbort, streamOf_num hb]
      dsimp only
      rw [State.takeFrame_stream]
      obtain hp | hp := hp <;> rw [hp]
    rw [exec_runAbort h, hrefuse]
    exact refuse_at_once h kindRunAbort tag .state
  · have hphase : ((s.takeFrame []).stream i).phase = .armed := hp
    rw [exec_runAbort h, State.runAbort, streamOf_num hb]
    dsimp only
    rw [hphase]
    exact setStream_at_once h i _ kindRunAbort tag .ok _
  · let u := (s.takeFrame []).runAborted i
    have hrun : (s.takeFrame []).abortRun i = u := by
      have hflow : ((s.takeFrame []).stream i).drain ≠ .blocked := by
        rw [State.takeFrame_stream, hdrain]; decide
      rw [abortRun_eq, if_neg hflow]
    have hexec : exec (.runAbort tag b) s =
        .next (u.settle.reply kindRunAbort tag .ok (abortFields (s.stream i))) := by
      rw [exec_runAbort h, runAbort_of_active (s := s.takeFrame []) tag hb hp, hrun]
      rfl
    obtain ⟨hkept, hsegs⟩ := runAborted_preview (s.takeFrame []) i
    refine ⟨_, hexec, ?_, fun j hj => ?_, settle_mem u, settle_place u, settle_routes u, settle_pfail u,
      settle_powerFail u, settle_link u, settle_streamNotices u, settle_mask u, settle_integ u,
      settle_without_build u, fun hpre => (settle_preview u).trans (hkept hpre), fun p hp => ?_, fun a ha => ?_,
      reply_ctl_of_taken h (settle_ctl u) kindRunAbort tag .ok _⟩
    · exact (settle_stream u i).trans (State.setStream_stream_self _ i _)
    · exact (settle_stream u j).trans (State.setStream_stream_other _ _ hj)
    · obtain ⟨segs, hsegs⟩ := hsegs p hp
      exact ⟨segs, (settle_preview u).trans hsegs⟩
    · have hport : u.port = _ := orphanFlush_eq (p := s.port) ha i (s.stream i).writer
      refine (settle_port_of_granted u (congrArg Port.granted hport)).trans (hport.trans ?_)
      obtain ⟨j, addr, _ | b⟩ | ⟨addr, len, pos, live⟩ | ⟨addr, len, live⟩ := a
      · by_cases hj : j = i <;> simp [Access.keepFlush, hj]
      all_goals rfl

/-! ### STUCK entries (R76, R102, R154, R155) -/

theorem stuckOf_eq (i : StreamId) :
    CommitEntry.stuckOf i = fun e => decide (e.stream = i ∧ e.st = CommitState.stuck) := by
  funext e
  exact (Bool.decide_and ..).symm

theorem stuckOf_iff {i : StreamId} {e : CommitEntry} : e.stuckOf i = true ↔ e.stream = i ∧ e.st = .stuck := by
  rw [stuckOf_eq, decide_eq_true_iff]

/-- The frame of a DRAIN_RESUME decodes to the DRAIN_RESUME (section 11.3). -/
theorem exec_drainResume {s : State} (h : s.takesAtOnce) (tag b : Byte) :
    exec (.drainResume tag b) s = .next ((s.takeFrame []).drainResume tag b) := by
  change Host.Outcome.next (s.submit (requestFrame tag (.drainResume b))) = _
  rw [submit_of_takesAtOnce h]
  rfl

/-- The samples a record counts in the kept total (R102). -/
def RecBody.keptSamples : RecBody → Nat
  | .dataRec _ _ kept _ _ => kept
  | _ => 0

/-- The samples a record counts in the covered total (R102). -/
def RecBody.coveredSamples : RecBody → Nat
  | .dataRec _ k kept _ _ => kept * 2 ^ k
  | _ => 0

theorem replaceTotals_eq (c : Cutter) (b : RecBody) : c.replaceTotals b = { c with
    kept := c.kept - b.keptSamples, covered := c.covered - b.coveredSamples,
    gapTotal := c.gapTotal + b.coveredSamples } := by
  cases b <;> rfl

/-- The replacement of STUCK records moves the samples of their DATA records to the gap total (R102). -/
theorem foldl_replaceTotals (stuck : List CommitEntry) (c : Cutter) :
    stuck.foldl (fun c e => c.replaceTotals e.body) c = { c with
      kept := c.kept - (stuck.map fun e => e.body.keptSamples).sum,
      covered := c.covered - (stuck.map fun e => e.body.coveredSamples).sum,
      gapTotal := c.gapTotal + (stuck.map fun e => e.body.coveredSamples).sum } := by
  induction stuck generalizing c with
  | nil => rfl
  | cons e stuck ih =>
    rw [List.foldl_cons, ih, replaceTotals_eq]
    simp only [List.map_cons, List.sum_cons, Nat.sub_sub, Nat.add_assoc]

/-- An element stays where it stands, changed only if it is the first of its kind. -/
theorem modifyFirst_getElem? {α : Type} (p : α → Bool) (f : α → α) {l : List α} {n : Nat} {x : α}
    (h : l[n]? = some x) : (modifyFirst p f l)[n]? = some x ∨ (p x = true ∧ (modifyFirst p f l)[n]? = some (f x)) := by
  induction l generalizing n with
  | nil => nomatch h
  | cons y l ih =>
    rw [modifyFirst]
    cases n with
    | zero =>
      obtain rfl := Option.some.inj h
      split
      · next hp => exact .inr ⟨hp, rfl⟩
      · exact .inl rfl
    | succ n =>
      split
      · exact .inl h
      · exact ih h

/-- An entry of the commit list stays as it is, or is the READY one that becomes SENDING (R130). -/
theorem selectSending_getElem? {l : Link} {n : Nat} {e : CommitEntry} (h : l.commit[n]? = some e) :
    l.selectSending.commit[n]? = some e ∨
      (e.st = .ready ∧ l.selectSending.commit[n]? = some { e with st := .sending }) := by
  unfold Link.selectSending
  split
  · exact (modifyFirst_getElem? _ _ h).imp_right fun ⟨he, hn⟩ => ⟨by simpa using he, hn⟩
  · exact .inl h

theorem selectSending_length (l : Link) : l.selectSending.commit.length = l.commit.length := by
  unfold Link.selectSending
  split
  · exact modifyFirst_length ..
  · rfl

/-- What replaces a STUCK record: a DATA record becomes a GAP over its span, a GAP gains the cause ABORTED, and any
other stays (R76, R99). -/
theorem replacement_spec (b : RecBody) :
    (∀ first k kept w runs, b = .dataRec first k kept w runs →
      b.replacement = .gapRec first (kept * 2 ^ k) ⟨false, false, true⟩ k ∧ b.replacement.size = 512) ∧
    (∀ first len c k, b = .gapRec first len c k → b.replacement = .gapRec first len { c with aborted := true } k) ∧
    (b.isData = false → (∀ first len c k, b ≠ .gapRec first len c k) → b.replacement = b) := by
  refine ⟨?_, ?_, fun hdata hgap => ?_⟩
  · rintro first k kept w runs rfl
    exact ⟨rfl, size_of_not_data rfl⟩
  · rintro first len c k rfl
    simp [RecBody.replacement, Causes.union, Causes.abortedOnly]
  · cases b with
    | dataRec => nomatch hdata
    | gapRec first len c k => exact absurd rfl (hgap first len c k)
    | openRec | markRec | closeRec => rfl

section Blocked

variable {s : State} {i : StreamId} (u : State) (hu : u.link = s.link)
include hu

/-- The commit list after the replacement and what follows at once. -/
theorem replaceStuck_settle_getElem? {n : Nat} {e : CommitEntry} (he : s.link.commit[n]? = some e) :
    (e.stream ≠ i ∨ e.st ≠ .stuck → (u.replaceStuck i).settle.link.commit[n]? = some e ∨
      (e.st = .ready ∧ (u.replaceStuck i).settle.link.commit[n]? = some { e with st := .sending })) ∧
    (e.stream = i → e.st = .stuck → (u.replaceStuck i).settle.link.commit[n]? = some e.replaced) := by
  have hmap : (u.replaceStuck i).link.commit[n]? = some (if e.stuckOf i then e.replaced else e) := by
    change (u.link.commit.map fun e => if e.stuckOf i then e.replaced else e)[n]? = _
    rw [hu, List.getElem?_map, he]
    rfl
  rw [settle_commit]
  refine ⟨fun hno => selectSending_getElem? ?_, fun hi hst => ?_⟩
  · have hstuck : ¬ e.stuckOf i = true := fun hs => not_and_or.2 hno (stuckOf_iff.1 hs)
    rw [hmap, if_neg hstuck]
  · rw [if_pos (stuckOf_iff.2 ⟨hi, hst⟩)] at hmap
    exact (selectSending_getElem? hmap).resolve_right fun ⟨hready, _⟩ => nomatch hready

theorem replaceStuck_settle_length :
    (u.replaceStuck i).settle.link.commit.length = s.link.commit.length := by
  rw [settle_commit, selectSending_length, ← hu]
  exact List.length_map ..

end Blocked

/-- The stream after the replacement of its STUCK entries: FLOWING, its totals moved (R76, R102, R155). -/
theorem replaceStuck_stream (u : State) (i : StreamId) : (u.replaceStuck i).stream i =
    let stuck := u.link.commit.filter (CommitEntry.stuckOf i)
    { u.stream i with
      drain := .flowing,
      cutter := { (u.stream i).cutter with
        kept := (u.stream i).cutter.kept - (stuck.map fun e => e.body.keptSamples).sum,
        covered := (u.stream i).cutter.covered - (stuck.map fun e => e.body.coveredSamples).sum,
        gapTotal := (u.stream i).cutter.gapTotal + (stuck.map fun e => e.body.coveredSamples).sum } } := by
  unfold State.replaceStuck
  dsimp only
  rw [State.modStream_stream_self, foldl_replaceTotals]
  rfl

theorem replaceStuck_stream_other (u : State) {i j : StreamId} (h : j ≠ i) :
    (u.replaceStuck i).stream j = u.stream j := State.modStream_stream_other _ _ h

/-- Settles O11: DRAIN_RESUME by the drain condition, and the abort of a BLOCKED stream by its entries. -/
theorem stuckEntriesAreFreed : Obligations.StuckEntriesAreFreed := by
  intro tag b s h
  refine ⟨fun hb => ?_, fun i hb => ⟨fun hdrain => ?_, fun hdrain => ?_, fun hdrain hp => ?_⟩⟩
  · rw [exec_drainResume h, State.drainResume, streamOf_none hb]
    exact refuse_at_once h kindDrainResume tag .range
  · have hflow : ((s.takeFrame []).stream i).drain ≠ .blocked := by
      rw [State.takeFrame_stream, hdrain]; decide
    rw [exec_drainResume h, State.drainResume, streamOf_num hb]
    dsimp only
    rw [if_neg hflow]
    exact refuse_at_once h kindDrainResume tag .state
  · have hmap : (fun e : CommitEntry => if e.stuckOf i then e.resumed else e) = fun e =>
        if e.stream = i ∧ e.st = CommitState.stuck then { e with st := .failed, placements := 0 } else e := by
      funext e
      simp only [stuckOf_iff]
      rfl
    have hblocked : ((s.takeFrame []).stream i).drain = .blocked := hdrain
    rw [exec_drainResume h, State.drainResume, streamOf_num hb]
    dsimp only
    rw [if_pos hblocked, hmap, Link.stuckCount, stuckOf_eq]
    exact congrArg Host.Outcome.next
      (reply_of_taken h (t := State.modStream (State.modLink (s.takeFrame []) _) i _) rfl kindDrainResume tag .ok _)
  · intro stuck count cover y
    let u := (s.takeFrame []).runAborted i
    have hlink : u.link = s.link := rfl
    have hu : u.stream i = y := State.setStream_stream_self ..
    have hrun : (s.takeFrame []).abortRun i = u.replaceStuck i := (abortRun_eq ..).trans (if_pos hdrain)
    have hexec : exec (.runAbort tag b) s =
        .next ((u.replaceStuck i).settle.reply kindRunAbort tag .ok (abortFields (s.stream i))) := by
      rw [exec_runAbort h, runAbort_of_active (s := s.takeFrame []) tag hb hp, hrun]
      rfl
    refine ⟨_, hexec, ?_, fun j hj => ?_, replaceStuck_settle_length u hlink, fun n e he hno => ?_,
      fun n e he hi hst => ?_⟩
    · refine (settle_stream _ i).trans ((replaceStuck_stream u i).trans ?_)
      rw [hu, hlink, stuckOf_eq]
      rfl
    · exact (settle_stream _ j).trans ((replaceStuck_stream_other u hj).trans (State.setStream_stream_other _ _ hj))
    · exact (replaceStuck_settle_getElem? u hlink he).1 hno
    · obtain ⟨hdata, hgap, hrest⟩ := replacement_spec e.body
      exact ⟨e.replaced, (replaceStuck_settle_getElem? u hlink he).2 hi hst, hi, rfl, rfl, rfl, rfl, hdata, hgap,
        hrest⟩

end Sys2Proof.Machine
end

section
/-! SUPPORT. Power-on, RST# and the PFAIL# deassertion (R79, R80, R191, R196). -/

namespace Sys2Proof.Machine

/-- Everything a power-on or an RST# leaves. -/
theorem hardReset_eq (s : State) (cause : ResetCause) : s.hardReset cause = { State.reset with
    pending := s.pending,
    ctl := { State.reset.ctl with resetCause := cause },
    pfail := s.pfail, powerFail := s.pfail,
    notices := { State.reset.notices with device := { State.reset.notices.device with
      power := if s.pfail then 1 else 0 } } } := by
  unfold State.hardReset State.takePfail
  cases s.pfail <;> rfl

/-- An edge command that finds the line at its level changes nothing (log 14). -/
theorem pfailAssert_of_asserted {s : State} (h : s.pfail = true) : s.pfailAssert = s := if_pos h

theorem pfailDeassert_of_deasserted {s : State} (h : s.pfail = false) : s.pfailDeassert = s := by
  simp [State.pfailDeassert, h]

/-- The deassertion ends the power-fail condition, clears the mask but for POWER and raises POWER (R79, R196). -/
theorem pfailDeassert_of_asserted {s : State} (h : s.pfail = true) : s.pfailDeassert = { s with
    pfail := false, powerFail := false,
    notices := { s.notices with
      mask := 0x400#11,
      device := { s.notices.device with power := min 65535 (s.notices.device.power + 1) } } } := if_pos h

/-- Settles O23: the whole next state of each of the four commands. -/
theorem hardResetsAndPowerReturn : Obligations.HardResetsAndPowerReturn := by
  refine ⟨fun s => ⟨?_, ?_⟩, fun s => ⟨fun h => ?_, fun h => ?_, fun h => ?_⟩⟩
  · exact congrArg Host.Outcome.next (hardReset_eq s .powerOn)
  · exact congrArg Host.Outcome.next (hardReset_eq s .rst)
  · exact congrArg Host.Outcome.next (pfailDeassert_of_asserted h)
  · exact congrArg Host.Outcome.next (pfailDeassert_of_deasserted h)
  · exact congrArg Host.Outcome.next (pfailAssert_of_asserted h)

end Sys2Proof.Machine
end

section
/-! SUPPORT. The next record of a stream, the end of a DATA record, and the choice among streams (R78, R87, R90 to R93,
R103). -/

namespace Sys2Proof.Machine

/-! ### The next record (R87) -/

theorem covers_eq_false {e : Entry} {i : Nat} :
    e.covers i = false ↔ ¬ (e.first - gapLen e.gap ≤ i ∧ i < e.first + e.kept * 2 ^ e.k) := by
  rw [← Bool.not_eq_true, covers_iff]

theorem gapHas_iff {e : Entry} {i : Nat} : e.gapHas i = true ↔ e.first - gapLen e.gap ≤ i ∧ i < e.first := by
  rw [Entry.gapHas, Bool.and_eq_true, decide_eq_true_iff, decide_eq_true_iff]
  rfl

theorem gapHas_eq_false {e : Entry} {i : Nat} :
    e.gapHas i = false ↔ ¬ (e.first - gapLen e.gap ≤ i ∧ i < e.first) := by
  rw [← Bool.not_eq_true, gapHas_iff]

/-- The account is done: the writer is STOPPED, no tail gap is held, and nothing is left to cut (R87, R101, log 8). -/
theorem accountDone_iff (x : Stream) : x.accountDone = true ↔
    x.writer.mode = .stopped ∧ x.cutter.tailGap = none ∧
      ((∀ e ∈ x.capture, ¬ (e.first - gapLen e.gap ≤ x.cutter.cutIndex ∧
          x.cutter.cutIndex < e.first + e.kept * 2 ^ e.k)) ∨ x.endIndex ≤ x.cutter.cutIndex) := by
  simp only [Stream.accountDone, Bool.and_eq_true, Bool.or_eq_true, Bool.not_eq_true', beq_iff_eq,
    Option.isNone_iff_eq_none, decide_eq_true_iff, List.any_eq_false, Bool.not_eq_true, covers_eq_false, and_assoc]

theorem next_of_not_active {x : Stream} (h : x.active = false) (pf : Bool) : x.next pf = none := by
  simp [Stream.next, h]

/-- No marker stands below the cut index. -/
theorem no_early_marker {x : Stream} (h : ¬ ∃ m rest, x.markers = m :: rest ∧ m.index < x.cutter.cutIndex) :
    x.markers.head?.filter (fun m => decide (m.index < x.cutter.cutIndex)) = none := by
  refine Option.filter_eq_none_iff.2 fun m hm => ?_
  obtain ⟨rest, hrest⟩ := List.head?_eq_some_iff.1 hm
  exact fun hlt => h ⟨m, rest, hrest, of_decide_eq_true hlt⟩

/-- No tail gap begins at the cut index. -/
theorem no_tail_at_cut {x : Stream} (h : ¬ ∃ g, x.cutter.tailGap = some g ∧ g.first = x.cutter.cutIndex) :
    x.cutter.tailGap.filter (fun g => decide (g.first = x.cutter.cutIndex)) = none :=
  Option.filter_eq_none_iff.2 fun g hg hfirst => h ⟨g, hg, of_decide_eq_true hfirst⟩

section Active

variable {x : Stream} (pf : Bool) (hact : x.active = true)
include hact

theorem next_of_openDue (h : x.cutter.openDue = true) : x.next pf = some .openNext := by
  simp [Stream.next, hact, h]

variable (hopen : x.cutter.openDue = false)
include hopen

theorem next_of_early {m : Marker} {rest : List Marker} (hm : x.markers = m :: rest)
    (hlt : m.index < x.cutter.cutIndex) : x.next pf = some (.markNext m) := by
  simp [Stream.next, hact, hopen, hm, hlt, Option.filter_some]

variable (hearly : ¬ ∃ m rest, x.markers = m :: rest ∧ m.index < x.cutter.cutIndex)
include hearly

theorem next_of_tail {g : TailGap} (hg : x.cutter.tailGap = some g) (hfirst : g.first = x.cutter.cutIndex) :
    x.next pf = some (.tailNext g) := by
  simp [Stream.next, hact, hopen, no_early_marker hearly, hg, hfirst, Option.filter_some]

variable (htail : ¬ ∃ g, x.cutter.tailGap = some g ∧ g.first = x.cutter.cutIndex)
include htail

theorem next_of_done_mark (hdone : x.accountDone = true) {m : Marker} {rest : List Marker}
    (hm : x.markers = m :: rest) : x.next pf = some (.markNext m) := by
  have hhead : x.markers.head? = some m := by rw [hm]; rfl
  simp only [Stream.next, hact, hopen, no_early_marker hearly, no_tail_at_cut htail, hdone]
  simp [hhead]

theorem next_of_done_end (hdone : x.accountDone = true) (hm : x.markers = []) :
    x.next pf = if x.cutter.closeCut then none else some .closeNext := by
  simp only [Stream.next, hact, hopen, no_early_marker hearly, no_tail_at_cut htail, hdone]
  simp [hm]

variable (hdone : ¬ x.accountDone = true)
include hdone

theorem next_of_gap {before after : List Entry} {e : Entry} (hcap : x.capture = before ++ e :: after)
    (he : e.gapHas x.cutter.cutIndex = true) (hb : ∀ f ∈ before, f.gapHas x.cutter.cutIndex = false) :
    x.next pf = some (.gapNext e) := by
  have hfind : x.capture.find? (fun e => e.gapHas x.cutter.cutIndex) = some e := by
    rw [hcap]
    exact find?_at (p := fun e : Entry => e.gapHas x.cutter.cutIndex) he hb
  simp [Stream.next, hact, hopen, no_early_marker hearly, no_tail_at_cut htail, hdone, hfind]

theorem next_of_data (hcap : ∀ e ∈ x.capture, e.gapHas x.cutter.cutIndex = false) :
    x.next pf = (x.dataPlan pf).map .dataNext := by
  have hfind : x.capture.find? (fun e => e.gapHas x.cutter.cutIndex) = none :=
    List.find?_eq_none.2 fun e he => Bool.eq_false_iff.1 (hcap e he)
  simp [Stream.next, hact, hopen, no_early_marker hearly, no_tail_at_cut htail, hdone, hfind]

end Active

/-! ### The choice among streams (R103) -/

/-- Stream `i` stands before stream `j` in the choice: when `j` has capacity, so has `i`, and its fill fraction is no
lower; of equal fractions the lower number stands first. -/
def State.standsBefore (s : State) (i j : StreamId) : Prop :=
  0 < (s.stream j).usable →
    0 < (s.stream i).usable ∧
    (s.stream j).capture.length * (s.stream i).usable ≤ (s.stream i).capture.length * (s.stream j).usable ∧
    ((s.stream j).capture.length * (s.stream i).usable = (s.stream i).capture.length * (s.stream j).usable →
      i.num ≤ j.num)

/-- Fractions compared through a third: `a/A ≤ b/B ≤ c/C`. -/
theorem cross_le_trans {a A b B c C : Nat} (hB : 0 < B) (h : a * B ≤ b * A) (h' : b * C ≤ c * B) :
    a * C ≤ c * A := by
  refine Nat.le_of_mul_le_mul_right (c := B) ?_ hB
  calc a * C * B = a * B * C := by ring
    _ ≤ b * A * C := Nat.mul_le_mul_right C h
    _ = b * C * A := by ring
    _ ≤ c * B * A := Nat.mul_le_mul_right A h'
    _ = c * A * B := by ring

/-- Equal outer fractions are equal to the one between them. -/
theorem cross_eq_of_eq {a A b B c C : Nat} (hA : 0 < A) (hC : 0 < C) (h : a * B ≤ b * A) (h' : b * C ≤ c * B)
    (heq : a * C = c * A) : a * B = b * A ∧ b * C = c * B :=
  ⟨Nat.le_antisymm h (cross_le_trans hC h' heq.ge), Nat.le_antisymm h' (cross_le_trans hA heq.ge h)⟩

theorem standsBefore_refl (s : State) (i : StreamId) : s.standsBefore i i := fun h => ⟨h, le_rfl, fun _ => le_rfl⟩

theorem standsBefore_trans {s : State} {i j k : StreamId} (hj : 0 < (s.stream j).usable)
    (hij : s.standsBefore i j) (hjk : s.standsBefore j k) : s.standsBefore i k := by
  intro hk
  obtain ⟨hi, hle, hnum⟩ := hij hj
  obtain ⟨-, hle', hnum'⟩ := hjk hk
  refine ⟨hi, cross_le_trans hj hle' hle, fun heq => ?_⟩
  obtain ⟨heq', heq⟩ := cross_eq_of_eq hk hi hle' hle heq
  exact (hnum heq).trans (hnum' heq')

/-- The better of the stream chosen so far and the next one. -/
def State.better (s : State) (best i : StreamId) : StreamId :=
  if (s.stream i).outranks (s.stream best) then i else best

/-- A comparison leaves a stream that stands before the other of the two, when the other has capacity. -/
theorem better_spec (s : State) {best i : StreamId} (h : best.num ≤ i.num) :
    (s.better best i = i ∧ 0 < (s.stream i).usable ∧ s.standsBefore i best) ∨
    (s.better best i = best ∧ (0 < (s.stream i).usable → 0 < (s.stream best).usable) ∧ s.standsBefore best i) := by
  unfold State.better Stream.outranks State.standsBefore
  rcases Nat.eq_zero_or_pos (s.stream i).usable with hi | hi
  · exact .inr (by simp [hi])
  · rcases Nat.eq_zero_or_pos (s.stream best).usable with hb | hb
    · exact .inl (by simp [hb, hi, hi.ne'])
    · by_cases hlt : (s.stream best).capture.length * (s.stream i).usable <
          (s.stream i).capture.length * (s.stream best).usable
      · exact .inl ⟨by simp [hi.ne', hb.ne', hlt], hi, fun _ => ⟨hi, hlt.le, fun heq => absurd heq hlt.ne⟩⟩
      · exact .inr ⟨by simp [hi.ne', hb.ne', hlt], fun _ => hb, fun _ => ⟨hb, Nat.not_lt.1 hlt, fun _ => h⟩⟩

/-- Of streams in rising order, the one that is left stands before each. -/
theorem foldl_better (s : State) {l : List StreamId} {a : StreamId} (h : (a :: l).Pairwise (·.num < ·.num)) :
    l.foldl s.better a ∈ a :: l ∧ ∀ j ∈ a :: l, s.standsBefore (l.foldl s.better a) j := by
  induction l generalizing a with
  | nil => simp [standsBefore_refl]
  | cons i l ih =>
    obtain ⟨ha, hil⟩ := List.pairwise_cons.1 h
    obtain ⟨hi, hl⟩ := List.pairwise_cons.1 hil
    rw [List.foldl_cons]
    rcases better_spec s (ha i List.mem_cons_self).le with ⟨hb, hcap, hbefore⟩ | ⟨hb, hcap, hbefore⟩ <;> rw [hb]
    · obtain ⟨hmem, hall⟩ := ih hil
      refine ⟨List.mem_cons_of_mem _ hmem, List.forall_mem_cons.2 ⟨?_, hall⟩⟩
      exact standsBefore_trans hcap (hall i List.mem_cons_self) hbefore
    · have hal : (a :: l).Pairwise (·.num < ·.num) :=
        List.pairwise_cons.2 ⟨fun j hj => ha j (List.mem_cons_of_mem _ hj), hl⟩
      obtain ⟨hmem, hall⟩ := ih hal
      obtain ⟨hfirst, hrest⟩ := List.forall_mem_cons.1 hall
      refine ⟨List.mem_cons.2 ((List.mem_cons.1 hmem).imp_right (List.mem_cons_of_mem _)),
        List.forall_mem_cons.2 ⟨hfirst, List.forall_mem_cons.2 ⟨fun hpos => ?_, hrest⟩⟩⟩
      exact standsBefore_trans (hcap hpos) hfirst hbefore hpos

/-- The streams ready to be cut, in rising order. -/
def State.readyStreams (s : State) : List StreamId := StreamId.all.filter fun i => (s.stream i).ready s.powerFail

theorem mem_readyStreams {s : State} {i : StreamId} : i ∈ s.readyStreams ↔
    (s.stream i).drain = .flowing ∧ ((s.stream i).next s.powerFail).isSome = true := by
  simp [State.readyStreams, StreamId.mem_all, Stream.ready]

theorem readyStreams_pairwise (s : State) : s.readyStreams.Pairwise (·.num < ·.num) :=
  List.Pairwise.filter _ (by decide)

/-- The choice made so far, compared with the next stream. -/
def State.choice (s : State) (best : Option StreamId) (i : StreamId) : Option StreamId :=
  match best with
  | none => some i
  | some j => if (s.stream i).outranks (s.stream j) then some i else some j

theorem chooseStream_eq (s : State) : s.chooseStream = s.readyStreams.foldl s.choice none := rfl

theorem foldl_choice (s : State) (l : List StreamId) (a : StreamId) :
    l.foldl s.choice (some a) = some (l.foldl s.better a) := by
  induction l generalizing a with
  | nil => rfl
  | cons i l ih =>
    rw [List.foldl_cons, List.foldl_cons, ← ih]
    exact congrArg (l.foldl s.choice) (apply_ite some ..).symm

theorem chooseStream_eq_none_iff (s : State) : s.chooseStream = none ↔ s.readyStreams = [] := by
  rw [chooseStream_eq]
  cases s.readyStreams with
  | nil => simp
  | cons a l => simp [State.choice, foldl_choice]

/-- The stream chosen is ready and stands before every ready stream (R103). -/
theorem chooseStream_spec {s : State} {i : StreamId} (h : s.chooseStream = some i) :
    i ∈ s.readyStreams ∧ ∀ j ∈ s.readyStreams, s.standsBefore i j := by
  have hsorted := readyStreams_pairwise s
  rw [chooseStream_eq] at h
  cases hready : s.readyStreams with
  | nil => rw [hready] at h; nomatch h
  | cons a l =>
    rw [hready] at h hsorted
    obtain rfl : l.foldl s.better a = i := Option.some.inj ((foldl_choice s l a).symm.trans h)
    exact foldl_better s hsorted

/-! ### The end of a DATA record (R90 to R93) -/

theorem dataHas_iff {e : Entry} {i : Nat} : e.dataHas i = true ↔ e.first ≤ i ∧ i < e.first + e.kept * 2 ^ e.k := by
  rw [Entry.dataHas, Bool.and_eq_true, decide_eq_true_iff, decide_eq_true_iff]
  rfl

theorem fromData_none {i : Nat} {l : List Entry} (h : ∀ e ∈ l, ¬ e.dataHas i = true) : fromData i l = [] := by
  induction l with
  | nil => rfl
  | cons e l ih =>
    obtain ⟨he, hl⟩ := List.forall_mem_cons.1 h
    rw [fromData, if_neg he, ih hl]

theorem fromData_at {i : Nat} {before rest : List Entry} {e : Entry} (he : e.dataHas i = true)
    (hb : ∀ g ∈ before, ¬ g.dataHas i = true) : fromData i (before ++ e :: rest) = e :: rest := by
  induction before with
  | nil => exact if_pos he
  | cons g before ih =>
    obtain ⟨hg, hb⟩ := List.forall_mem_cons.1 hb
    rw [List.cons_append, fromData, if_neg hg, ih hb]

/-- An entry that a DATA record of exponent `k` may run on into (R90). -/
def Entry.joins (k : Nat) (g : Entry) : Bool := decide (g.k = k ∧ g.gap = none)

/-- All samples of the entry are in capture memory (R92). -/
def Entry.isSealed (g : Entry) : Bool := decide (g.st = .full ∨ g.st = .draining)

/-- The coverage end of a list of entries that follow an end `stop`. -/
def endFrom (stop : Nat) (l : List Entry) : Nat := (l.getLast?.map Entry.covEnd).getD stop

@[simp] theorem endFrom_nil (stop : Nat) : endFrom stop [] = stop := rfl

@[simp] theorem endFrom_cons (stop : Nat) (e : Entry) (l : List Entry) :
    endFrom stop (e :: l) = endFrom e.covEnd l := by
  rw [endFrom, endFrom, List.getLast?_cons]
  cases l.getLast? <;> rfl

theorem joins_iff {k : Nat} {g : Entry} : g.joins k = true ↔ ¬ (g.k ≠ k ∨ g.gap.isSome = true) := by
  rw [Entry.joins, decide_eq_true_iff, not_or, ne_eq, not_not, Bool.not_eq_true, Option.isSome_eq_false_iff,
    Option.isNone_iff_eq_none]

/-- The chain of a record runs on as long as entries join it (R90, R91). -/
theorem chainEnd_eq (k stop : Nat) (l : List Entry) :
    chainEnd k stop l = (endFrom stop (l.takeWhile (Entry.joins k)), !(l.dropWhile (Entry.joins k)).isEmpty) := by
  induction l generalizing stop with
  | nil => rfl
  | cons e l ih =>
    rw [chainEnd, List.takeWhile_cons, List.dropWhile_cons]
    by_cases hj : e.joins k = true
    · rw [if_neg (joins_iff.1 hj), if_pos hj, if_pos hj, endFrom_cons, ih]
    · rw [if_pos (not_not.1 (hj ∘ joins_iff.2)), if_neg hj, if_neg hj]
      rfl

/-- The sealed part of the chain (R92). -/
theorem sealedEnd_eq (k stop : Nat) (l : List Entry) :
    sealedEnd k stop l = endFrom stop ((l.takeWhile (Entry.joins k)).takeWhile Entry.isSealed) := by
  induction l generalizing stop with
  | nil => rfl
  | cons e l ih =>
    rw [sealedEnd, List.takeWhile_cons]
    by_cases hj : e.joins k = true
    · rw [if_pos hj, List.takeWhile_cons]
      obtain ⟨hk, hg⟩ := not_or.1 (joins_iff.1 hj)
      by_cases hs : e.isSealed = true
      · have hst : e.st = .full ∨ e.st = .draining := of_decide_eq_true hs
        rw [if_pos hs, endFrom_cons, ← ih]
        exact if_neg fun h => h.elim hk fun h => h.elim hg fun h => h hst
      · have hst : ¬ (e.st = .full ∨ e.st = .draining) := fun h => hs (decide_eq_true h)
        rw [if_neg hs]
        exact if_pos (.inr (.inr hst))
    · have hbreak := not_not.1 (hj ∘ joins_iff.2)
      rw [if_neg hj]
      exact if_pos (hbreak.imp_right .inl)

/-- The first cut point above `f` in queue order (R93). -/
theorem cutPoint_eq (k f : Nat) (l : List Marker) :
    cutPoint k f l = (l.map fun m => (m.index + (2 ^ k - 1)) / 2 ^ k * 2 ^ k).find? fun p => decide (f < p) := by
  induction l with
  | nil => rfl
  | cons m l ih =>
    rw [cutPoint, List.map_cons, List.find?_cons, ih]
    unfold roundUp
    by_cases h : f < (m.index + (2 ^ k - 1)) / 2 ^ k * 2 ^ k <;> simp [h]

/-- The smallest of the limits that apply is one of them, and none is smaller. -/
theorem least_spec (base : Nat) (limits : List (Option Nat)) :
    least base limits ∈ base :: limits.flatMap Option.toList ∧
      ∀ l ∈ base :: limits.flatMap Option.toList, least base limits ≤ l := by
  induction limits generalizing base with
  | nil => simp [least]
  | cons o limits ih =>
    cases o with
    | none => exact ih base
    | some v =>
      obtain ⟨hmem, hle⟩ := ih (min base v)
      obtain ⟨hmin, hrest⟩ := List.forall_mem_cons.1 hle
      change least (min base v) limits ∈ base :: v :: limits.flatMap Option.toList ∧
        ∀ l ∈ base :: v :: limits.flatMap Option.toList, least (min base v) limits ≤ l
      refine ⟨?_, List.forall_mem_cons.2 ⟨hmin.trans (Nat.min_le_left ..),
        List.forall_mem_cons.2 ⟨hmin.trans (Nat.min_le_right ..), hrest⟩⟩⟩
      rcases List.mem_cons.1 hmem with h | h
      · rw [h]
        rcases Nat.le_total base v with hv | hv
        · rw [Nat.min_eq_left hv]; exact List.mem_cons_self
        · rw [Nat.min_eq_right hv]; exact List.mem_cons_of_mem _ List.mem_cons_self
      · exact List.mem_cons_of_mem _ (List.mem_cons_of_mem _ h)

theorem least_eq {base v : Nat} {limits : List (Option Nat)} (hmem : v ∈ base :: limits.flatMap Option.toList)
    (hle : ∀ l ∈ base :: limits.flatMap Option.toList, v ≤ l) : least base limits = v :=
  Nat.le_antisymm ((least_spec base limits).2 v hmem) (hle _ (least_spec base limits).1)

/-- The limits of R91 after the extent: the end of a broken chain, the first cut point, the end of the data. -/
def Stream.dataLimits (x : Stream) (e : Entry) (rest : List Entry) : List (Option Nat) :=
  [if rest.dropWhile (Entry.joins e.k) = [] then none else some (endFrom e.covEnd (rest.takeWhile (Entry.joins e.k))),
    if x.cfg.cutOnMark then
      (x.markers.map fun m => (m.index + (2 ^ e.k - 1)) / 2 ^ e.k * 2 ^ e.k).find? fun p =>
        decide (x.cutter.cutIndex < p)
    else none,
    if x.phase = .closing ∧ x.writer.mode = .stopped then some (endFrom 0 x.capture) else none]

theorem dataPlan_none {x : Stream} (h : ∀ e ∈ x.capture, ¬ e.dataHas x.cutter.cutIndex = true) (pf : Bool) :
    x.dataPlan pf = none := by
  rw [Stream.dataPlan, fromData_none h]

section Plan

variable {x : Stream} {before rest : List Entry} {e : Entry} (pf : Bool) (hcap : x.capture = before ++ e :: rest)
  (he : e.dataHas x.cutter.cutIndex = true) (hb : ∀ g ∈ before, ¬ g.dataHas x.cutter.cutIndex = true)
include hcap he hb

theorem dataPlan_unsealed (hs : ¬ (e.st = .full ∨ e.st = .draining)) : x.dataPlan pf = none := by
  rw [Stream.dataPlan, hcap, fromData_at he hb]
  exact if_neg hs

/-- The record that begins in a sealed entry ends at the least of its limits, if all samples to there are sealed. -/
theorem dataPlan_sealed (hs : e.st = .full ∨ e.st = .draining) : x.dataPlan pf =
    let stop := least (x.cutter.cutIndex + extentInForce pf x.cfg.extent / x.cfg.width.bytes * 2 ^ e.k)
      (x.dataLimits e rest)
    if stop ≤ endFrom e.covEnd ((rest.takeWhile (Entry.joins e.k)).takeWhile Entry.isSealed) then some ⟨e.k, stop⟩
    else none := by
  have htail : x.tail = some (rest.getLast?.getD e) := by
    rw [Stream.tail, hcap, List.getLast?_append, List.getLast?_cons]
    rfl
  have hend : endFrom 0 x.capture = (rest.getLast?.getD e).covEnd := by
    rw [endFrom, show x.capture.getLast? = _ from htail]
    rfl
  have hbroken : (if (chainEnd e.k e.covEnd rest).2 = true then some (chainEnd e.k e.covEnd rest).1 else none) =
      if rest.dropWhile (Entry.joins e.k) = [] then none
      else some (endFrom e.covEnd (rest.takeWhile (Entry.joins e.k))) := by
    rw [chainEnd_eq]
    cases rest.dropWhile (Entry.joins e.k) <;> rfl
  rw [Stream.dataPlan, hcap, fromData_at he hb]
  dsimp only
  rw [if_pos hs, htail, hbroken, cutPoint_eq, sealedEnd_eq, Stream.dataLimits, hend]

/-- A record that ends at the smallest of its limits is complete when the sealed part of its chain reaches there. -/
theorem dataPlan_of_least (hs : e.st = .full ∨ e.st = .draining) {stop : Nat}
    (hmem : stop ∈ (x.cutter.cutIndex + extentInForce pf x.cfg.extent / x.cfg.width.bytes * 2 ^ e.k) ::
      (x.dataLimits e rest).flatMap Option.toList)
    (hle : ∀ l ∈ (x.cutter.cutIndex + extentInForce pf x.cfg.extent / x.cfg.width.bytes * 2 ^ e.k) ::
      (x.dataLimits e rest).flatMap Option.toList, stop ≤ l) :
    let sealedTo := endFrom e.covEnd ((rest.takeWhile (Entry.joins e.k)).takeWhile Entry.isSealed)
    (stop ≤ sealedTo → x.dataPlan pf = some ⟨e.k, stop⟩) ∧ (sealedTo < stop → x.dataPlan pf = none) := by
  have hplan := dataPlan_sealed pf hcap he hb hs
  rw [least_eq hmem hle] at hplan
  exact ⟨fun hin => hplan.trans (if_pos hin), fun hout => hplan.trans (if_neg (Nat.not_le.2 hout))⟩

end Plan

/-! ### The statement -/

/-- Settles O39: the cases of R87 in order, the choice of R103, and the limits of R91. -/
theorem nextRecordAndStream : Obligations.NextRecordAndStream := by
  refine ⟨fun x pf => ?_, fun s => ?_, fun x pf => ?_⟩
  · intro c early tail done
    have hdone_iff : x.accountDone = true ↔ done := accountDone_iff x
    refine ⟨fun hr hc => ?_, fun hp => ?_⟩
    · exact next_of_not_active (Bool.eq_false_iff.2 fun h => (active_iff.1 h).elim hr hc) pf
    have hact : x.active = true := active_iff.2 hp
    refine ⟨next_of_openDue pf hact, fun hopen => ⟨fun m rest hm hlt => next_of_early pf hact hopen hm hlt,
      fun hearly => ⟨fun g hg hfirst => next_of_tail pf hact hopen hearly hg hfirst, fun htail => ⟨fun hdone => ?_,
        fun hdone => ⟨fun before e after hcap hlo hhi hb => ?_, fun hcap => ?_⟩⟩⟩⟩⟩
    · have hdone := hdone_iff.2 hdone
      refine ⟨fun m rest hm => next_of_done_mark pf hact hopen hearly htail hdone hm, fun hm hclose => ?_,
        fun hm hclose => ?_⟩
      · rw [next_of_done_end pf hact hopen hearly htail hdone hm, show x.cutter.closeCut = false from hclose]
        rfl
      · rw [next_of_done_end pf hact hopen hearly htail hdone hm, show x.cutter.closeCut = true from hclose]
        rfl
    · exact next_of_gap pf hact hopen hearly htail (hdone ∘ hdone_iff.1) hcap (gapHas_iff.2 ⟨hlo, hhi⟩)
        fun f hf => gapHas_eq_false.2 (hb f hf)
    · exact next_of_data pf hact hopen hearly htail (hdone ∘ hdone_iff.1) fun e he => gapHas_eq_false.2 (hcap e he)
  · intro ready fill cap
    have hready (i : StreamId) : i ∈ s.readyStreams ↔ ready i := mem_readyStreams
    refine ⟨?_, fun i hi => ?_⟩
    · rw [chooseStream_eq_none_iff, List.eq_nil_iff_forall_not_mem]
      exact forall_congr' fun i => not_congr (hready i)
    · obtain ⟨hmem, hall⟩ := chooseStream_spec hi
      exact ⟨(hready i).1 hmem, fun j hj => hall j ((hready j).2 hj)⟩
  · intro f stopOf endOf
    have hend (l : List Entry) : endOf l = endFrom 0 l := by
      simp only [endOf, endFrom]
      cases l.getLast? <;> rfl
    refine ⟨fun hcap => dataPlan_none (fun e he h => hcap e he (dataHas_iff.1 h)) pf,
      fun before e rest hcap hlo hhi hb => ?_⟩
    intro joins chain whole extent points limits
    have he : e.dataHas x.cutter.cutIndex = true := dataHas_iff.2 ⟨hlo, hhi⟩
    have hb (g) (hg : g ∈ before) : ¬ g.dataHas x.cutter.cutIndex = true := fun h => hb g hg (dataHas_iff.1 h)
    refine ⟨fun hfull hdraining => dataPlan_unsealed pf hcap he hb (not_or.2 ⟨hfull, hdraining⟩),
      fun hs stop hmem hle => ?_⟩
    have hwhole : endOf whole =
        endFrom e.covEnd ((rest.takeWhile (Entry.joins e.k)).takeWhile Entry.isSealed) := by
      have hcons : whole = e :: (rest.takeWhile joins).takeWhile Entry.isSealed :=
        List.takeWhile_cons_of_pos (decide_eq_true hs)
      rw [hend, hcons, endFrom_cons]
      rfl
    have hlimits : limits =
        (x.cutter.cutIndex + extentInForce pf x.cfg.extent / x.cfg.width.bytes * 2 ^ e.k) ::
          (x.dataLimits e rest).flatMap Option.toList := by
      have hchain : endOf chain = endFrom e.covEnd (rest.takeWhile (Entry.joins e.k)) := by
        rw [hend]; exact endFrom_cons 0 e _
      simp only [limits, hchain, hend, Stream.dataLimits, List.flatMap_cons, List.flatMap_nil,
        apply_ite Option.toList, Option.toList_none, Option.toList_some, List.append_assoc, List.append_nil]
      rfl
    rw [hlimits] at hmem hle
    rw [hwhole]
    exact dataPlan_of_least pf hcap he hb hs hmem hle

end Sys2Proof.Machine
end
section
/-! SUPPORT. The commit list and the runs behind it: every operation keeps the entries of a stream in sequence order, each
record once and CLOSE last, and every step keeps the law (R86, R87, R101, R129, R145, R146). -/

namespace Sys2Proof.Machine

-- Each proof is checked before the next begins: many at once would take a thread's stack each.
set_option Elab.async false

/-! ### What keeps the law of the commit list -/

/-- What `CommitLaw` reads of an entry: its stream, its sequence number, and whether it is a CLOSE. -/
structure RecordName where
  stream : StreamId
  seq : Nat
  close : Bool

/-- The name of an entry's record. -/
def CommitEntry.name (e : CommitEntry) : RecordName := ⟨e.stream, e.seq, e.body.isClose⟩

/-- The names of the records in the commit list, in its order. -/
def State.records (s : State) : List RecordName := s.link.commit.map CommitEntry.name

/-- The law of the commit list speaks of the names of its records and of the runs of the streams. -/
theorem commitLaw_iff {s : State} : CommitLaw s ↔
    s.records.length ≤ 8 ∧ s.records.Pairwise (fun a b => a.stream = b.stream → a.seq < b.seq) ∧
    (∀ a ∈ s.records, a.seq < (s.stream a.stream).cutter.nextSeq ∧ (s.stream a.stream).active = true ∧
      (a.close = true → a.seq + 1 = (s.stream a.stream).cutter.nextSeq ∧
        (s.stream a.stream).cutter.closeCut = true)) ∧
    ∀ i, (s.stream i).active = true → RunLaw (s.stream i) := by
  simp only [State.records, List.length_map, List.pairwise_map, List.forall_mem_map, CommitEntry.name]
  refine ⟨fun ⟨h1, h2, h3, h4, h5, h6⟩ => ⟨h1, h2, fun e he => ⟨h3 e he, h4 e he, h5 e he⟩, h6⟩,
    fun ⟨h1, h2, h3, h4⟩ => ⟨h1, h2, fun e he => ?_, fun e he => ?_, fun e he => ?_, h4⟩⟩
  · exact (h3 e he).1
  · obtain ⟨-, h, -⟩ := h3 e he; exact h
  · obtain ⟨-, -, h⟩ := h3 e he; exact h

/-- Stream `y` stays in the run of `x`: the run is not left, its sequence numbers and its CLOSE stand where they did, and
`y` meets the law of a run if `x` does. -/
structure Stream.KeepsRun (x y : Stream) : Prop where
  active : x.active = true → y.active = true
  nextSeq : x.active = true → y.cutter.nextSeq = x.cutter.nextSeq
  closeCut : x.active = true → y.cutter.closeCut = x.cutter.closeCut
  law : (x.active = true → RunLaw x) → y.active = true → RunLaw y

/-- A closed account stays closed while the cut index and the end index stand and no coverage is added (R87, R101). -/
theorem accountDone_of_fewer {x y : Stream} (h : x.accountDone = true) (hmode : y.writer.mode = x.writer.mode)
    (htail : y.cutter.tailGap = x.cutter.tailGap) (hcut : y.cutter.cutIndex = x.cutter.cutIndex)
    (hend : y.endIndex = x.endIndex)
    (hcapture : ∀ n, y.capture.any (·.covers n) = true → x.capture.any (·.covers n) = true) :
    y.accountDone = true := by
  simp only [Stream.accountDone, Bool.and_eq_true, Bool.or_eq_true, Bool.not_eq_true', ← Bool.not_eq_true] at h ⊢
  rw [hmode, htail, hcut, hend]
  exact ⟨h.1, h.2.imp_left fun hno hany => hno (hcapture _ hany)⟩

namespace Stream.KeepsRun

variable {x y z : Stream}

theorem refl (x : Stream) : x.KeepsRun x := ⟨id, fun _ => rfl, fun _ => rfl, id⟩

theorem trans (h : x.KeepsRun y) (g : y.KeepsRun z) : x.KeepsRun z where
  active := g.active ∘ h.active
  nextSeq hx := (g.nextSeq (h.active hx)).trans (h.nextSeq hx)
  closeCut hx := (g.closeCut (h.active hx)).trans (h.closeCut hx)
  law := g.law ∘ h.law

/-- A change of a stream that is in no run to one in no run, or to one at the start of a run. -/
theorem of_outside (hx : x.active = false) (hy : y.active = true → RunLaw y) : x.KeepsRun y :=
  have no (h : x.active = true) : False := Bool.false_ne_true (hx.symm.trans h)
  ⟨fun h => (no h).elim, fun h => (no h).elim, fun h => (no h).elim, fun _ => hy⟩

/-- A change of what no law of a run names; entries may leave the capture list. -/
theorem of_rest (hphase : y.phase = x.phase := by rfl) (hmode : y.writer.mode = x.writer.mode := by rfl)
    (hstop : y.writer.stop = x.writer.stop := by rfl) (hindex : y.writer.index = x.writer.index := by rfl)
    (hend : y.endIndex = x.endIndex := by rfl) (hseq : y.cutter.nextSeq = x.cutter.nextSeq := by rfl)
    (hclose : y.cutter.closeCut = x.cutter.closeCut := by rfl)
    (hopen : y.cutter.openDue = x.cutter.openDue := by rfl) (htail : y.cutter.tailGap = x.cutter.tailGap := by rfl)
    (hcut : y.cutter.cutIndex = x.cutter.cutIndex := by rfl) (hmarkers : y.markers = x.markers := by rfl)
    (hcapture : ∀ n, y.capture.any (·.covers n) = true → x.capture.any (·.covers n) = true := by exact fun _ h => h) :
    x.KeepsRun y := by
  have hactive : y.active = x.active := by rw [Stream.active, hphase, Stream.active]
  refine ⟨fun h => hactive.trans h, fun _ => hseq, fun _ => hclose, fun h hy => ?_⟩
  obtain ⟨hrun, hended, hclosed⟩ := h (hactive.symm.trans hy)
  refine ⟨fun h => ?_, fun h => ?_, fun h => ?_⟩
  · rw [hstop, hmode]; exact hrun (hphase.symm.trans h)
  · rw [hend, hindex]; exact hended (hmode.symm.trans h)
  · obtain ⟨h1, h2, h3, h4, h5, h6⟩ := hclosed (hclose.symm.trans h)
    exact ⟨hphase.trans h1, hmode.trans h2, hopen.trans h3, htail.trans h4, hmarkers.trans h5,
      accountDone_of_fewer h6 hmode htail hcut hend hcapture⟩

/-- A writer that has not stopped goes on, or stops at its stop index: CLOSE is not cut yet, so no account is closed. -/
theorem of_writing (h : x.writer.mode ≠ .stopped) (hphase : y.phase = x.phase := by rfl)
    (hstop : y.writer.stop = x.writer.stop := by rfl) (hseq : y.cutter.nextSeq = x.cutter.nextSeq := by rfl)
    (hclose : y.cutter.closeCut = x.cutter.closeCut := by rfl)
    (hmode : y.writer.mode = .stopped → x.writer.stop ≠ none ∧ y.endIndex = y.writer.index := by exact nofun) :
    x.KeepsRun y := by
  have hactive : y.active = x.active := by rw [Stream.active, hphase, Stream.active]
  refine ⟨fun h => hactive.trans h, fun _ => hseq, fun _ => hclose, fun hx hy => ?_⟩
  obtain ⟨hrun, -, hclosed⟩ := hx (hactive.symm.trans hy)
  refine ⟨fun hr => ?_, fun hs => ?_, fun hc => ?_⟩
  · obtain ⟨hnone, -⟩ := hrun (hphase.symm.trans hr)
    refine ⟨hstop.trans hnone, fun hs => ?_⟩
    obtain ⟨hsome, -⟩ := hmode hs
    exact hsome hnone
  · obtain ⟨-, hend⟩ := hmode hs
    exact hend
  · obtain ⟨-, hstopped, -⟩ := hclosed (hclose.symm.trans hc)
    exact absurd hstopped h

end Stream.KeepsRun

/-- The commit list of `t` holds records of the list of `s`, in its order, and every stream stays in its run. -/
structure State.KeepsRuns (s t : State) : Prop where
  records : t.records.Sublist s.records
  stream : ∀ i, (s.stream i).KeepsRun (t.stream i)

namespace State.KeepsRuns

variable {s t u : State}

theorem refl (s : State) : s.KeepsRuns s := ⟨.refl _, fun _ => .refl _⟩

theorem trans (h : s.KeepsRuns t) (g : t.KeepsRuns u) : s.KeepsRuns u :=
  ⟨g.records.trans h.records, fun i => (h.stream i).trans (g.stream i)⟩

/-- A change that touches neither a stream nor the commit list. -/
theorem of_same (hs : t.streams = s.streams := by rfl) (hc : t.link.commit = s.link.commit := by rfl) :
    s.KeepsRuns t := by
  refine ⟨?_, fun i => ?_⟩
  · rw [State.records, hc]; exact .refl _
  · rw [show t.stream i = s.stream i from congrArg (·.get i) hs]; exact .refl _

theorem setStream {i : StreamId} {x : Stream} (h : (s.stream i).KeepsRun x) : s.KeepsRuns (s.setStream i x) := by
  refine ⟨.refl _, fun j => ?_⟩
  rw [State.setStream_stream]
  split
  · next hj => subst hj; exact h
  · exact .refl _

theorem modStream {i : StreamId} {f : Stream → Stream} (h : (s.stream i).KeepsRun (f (s.stream i))) :
    s.KeepsRuns (s.modStream i f) := setStream h

/-- A change of the link controller that keeps the names of the records. -/
theorem modLink {f : Link → Link} (h : (f s.link).commit.map CommitEntry.name = s.link.commit.map CommitEntry.name) :
    s.KeepsRuns (s.modLink f) := by
  refine ⟨?_, fun _ => .refl _⟩
  rw [State.records, State.modLink_link, h]
  exact .refl _

theorem raise (s : State) (i : StreamId) (c : StreamCat) : s.KeepsRuns (s.raise i c) := of_same

/-- Changes made one after another keep the runs if each one does. -/
theorem foldl {α : Type} {f : State → α → State} (h : ∀ (s : State) (a : α), s.KeepsRuns (f s a)) (l : List α)
    (s : State) : s.KeepsRuns (l.foldl f s) := by
  induction l generalizing s with
  | nil => exact refl s
  | cons a l ih => exact (h s a).trans (ih _)

end State.KeepsRuns

/-- The law of the commit list passes along a change that keeps the runs. -/
theorem CommitLaw.of_keeps {s t : State} (h : CommitLaw s) (k : s.KeepsRuns t) : CommitLaw t := by
  obtain ⟨hbound, hordered, hrecords, hruns⟩ := commitLaw_iff.1 h
  refine commitLaw_iff.2 ⟨k.records.length_le.trans hbound, hordered.sublist k.records, fun a ha => ?_,
    fun i => (k.stream i).law (hruns i)⟩
  obtain ⟨hbelow, hactive, hclose⟩ := hrecords a (k.records.subset ha)
  rw [(k.stream a.stream).nextSeq hactive, (k.stream a.stream).closeCut hactive]
  exact ⟨hbelow, (k.stream a.stream).active hactive, hclose⟩

/-! ### Changes of the commit list that keep the names of its records -/

theorem modifyFirst_names {p : CommitEntry → Bool} {f : CommitEntry → CommitEntry} {list : List CommitEntry}
    (h : ∀ e ∈ list, p e = true → (f e).name = e.name) :
    (modifyFirst p f list).map CommitEntry.name = list.map CommitEntry.name := by
  induction list with
  | nil => rfl
  | cons e list ih =>
    obtain ⟨he, hl⟩ := List.forall_mem_cons.1 h
    rw [modifyFirst]
    split
    · next hp => rw [List.map_cons, he hp, List.map_cons]
    · rw [List.map_cons, ih hl, List.map_cons]

theorem map_names {f : CommitEntry → CommitEntry} (h : ∀ e, (f e).name = e.name) (list : List CommitEntry) :
    (list.map f).map CommitEntry.name = list.map CommitEntry.name := by
  rw [List.map_map]
  exact List.map_congr_left fun e _ => h e

theorem removeFirst_sublist {α : Type} (p : α → Bool) (l : List α) : (removeFirst p l).Sublist l := by
  induction l with
  | nil => exact .refl _
  | cons x l ih =>
    rw [removeFirst]
    split
    · exact List.sublist_cons_self ..
    · exact ih.cons_cons x

/-- The SENDING entry replaced by one of its own name. -/
theorem modSending_names {l : Link} {e f : CommitEntry} (he : l.sending = some e) (hf : f.name = e.name) :
    (l.modSending fun _ => f).commit.map CommitEntry.name = l.commit.map CommitEntry.name := by
  obtain hno | ⟨before, x, after, hl, hx, hb⟩ := first_cases CommitEntry.isSending l.commit
  · rw [Link.modSending, modifyFirst_none hno]
  · have hxe : x = e := by
      rw [Link.sending, hl, find?_at hx hb] at he
      exact Option.some.inj he
    rw [Link.modSending, hl, modifyFirst_at hx hb, hxe]
    simp [hf]

/-! ### What follows at once, and the block manager (chapter 1) -/

theorem settle_keepsRuns (s : State) : s.KeepsRuns s.settle := by
  refine ⟨?_, fun i => by rw [settle_stream]; exact .refl _⟩
  have hnames : s.link.selectSending.commit.map CommitEntry.name = s.link.commit.map CommitEntry.name := by
    unfold Link.selectSending
    split
    · exact modifyFirst_names fun _ _ _ => rfl
    · rfl
  rw [State.records, settle_commit, hnames]
  exact .refl _

theorem State.KeepsRuns.settle {s t : State} (h : s.KeepsRuns t) : s.KeepsRuns t.settle :=
  h.trans (settle_keepsRuns t)

theorem upsets_keepsRuns (s : State) (us : List Upset) : s.KeepsRuns (s.upsets us) := by
  refine .foldl (fun s u => ?_) us s
  cases u with
  | capture w b => exact .of_same
  | replay check pos => exact .of_same
  | staging i slot check pos =>
    have hslot (w : Writer) (f : StageBuf → StageBuf) : (w.modSlot slot f).mode = w.mode ∧
        (w.modSlot slot f).stop = w.stop ∧ (w.modSlot slot f).index = w.index := by
      unfold Writer.modSlot
      split <;> exact ⟨rfl, rfl, rfl⟩
    unfold State.upset
    refine .modStream ?_
    obtain ⟨hmode, hstop, hindex⟩ := hslot (s.stream i).writer fun b =>
      if check then { b with parity := flipParity b.parity pos } else { b with data := flipBit b.data 0 pos }
    exact .of_rest (hmode := hmode) (hstop := hstop) (hindex := hindex)

theorem countUnits_keepsRuns (s : State) (addr len : Nat) (us : List Nat) :
    s.KeepsRuns (s.countUnits addr len us) := by
  obtain ⟨g, d, h⟩ := countUnits_eq s addr len us
  rw [h]
  exact .of_same

theorem countStaging_keepsRuns (s : State) (addrs : List Nat) : s.KeepsRuns (s.countStaging addrs) := by
  obtain ⟨g, d, h⟩ := countStaging_eq s addrs
  rw [h]
  exact .of_same

theorem writeFlush_keepsRuns (s : State) (b : StageBuf) (addr : Nat) : s.KeepsRuns (s.writeFlush b addr) := by
  unfold State.writeFlush
  dsimp only
  refine .trans ?_ (.foldl (fun s (p : Nat × Nat) => .of_same) _ _)
  split <;> exact .of_same

/-- Entries of a capture list changed in place where their coverage stays. -/
theorem of_covers {x : Stream} {f : Entry → Entry} (h : ∀ e n, (f e).covers n = e.covers n) :
    x.KeepsRun { x with capture := x.capture.map f } :=
  .of_rest (hcapture := fun n hn => by
    rw [List.any_map] at hn
    simpa only [Function.comp_def, h] using hn)

/-- Released entries leave the capture list, and no law of a run names the others' places (R14, R15). -/
theorem releaseScan_keepsRuns (s : State) (i : StreamId) (all : Bool) : s.KeepsRuns (s.releaseScan i all) := by
  have hsplit := (releaseSplit_spec all (s.stream i).commitIndex (s.stream i).capture).1
  rw [releaseScan_eq]
  refine .trans (.setStream (i := i) (x := (s.stream i).scanned all) ?_) .of_same
  refine .of_rest (hcapture := fun n hn => ?_)
  rw [hsplit, List.any_append, Bool.or_eq_true]
  exact .inr hn

theorem previewReply_keepsRuns (s : State) (p : Preview) : s.KeepsRuns (s.previewReply p) := by
  unfold State.previewReply
  have hgone : s.KeepsRuns { s with preview := none, port := s.port.orphanPreview } := .of_same
  refine .trans (.trans (hgone.trans (.modStream ?_)) (releaseScan_keepsRuns ..)) .of_same
  exact of_covers fun e n => by split <;> rfl

theorem previewAdvance_keepsRuns (fuel : Nat) (s : State) : s.KeepsRuns (s.previewAdvance fuel) := by
  have hread (s : State) (p : Preview) (addrs : List Nat) :
      s.KeepsRuns (({ s with preview := some p } : State).countStaging addrs) :=
    .trans .of_same (countStaging_keepsRuns ..)
  induction fuel generalizing s with
  | zero => exact .refl s
  | succ fuel ih =>
    unfold State.previewAdvance
    split
    · exact .refl s
    · split
      · exact previewReply_keepsRuns ..
      · exact (hread ..).trans (ih _)
      · dsimp only
        split
        · exact .trans .of_same (ih _)
        · split
          · exact .refl s
          · exact (hread ..).trans (ih _)

theorem previewRun_keepsRuns (s : State) : s.KeepsRuns s.previewRun := by
  unfold State.previewRun
  split
  · exact .refl s
  · exact previewAdvance_keepsRuns ..

theorem previewTake_keepsRuns (s : State) (addr len : Nat) : s.KeepsRuns (s.previewTake addr len) := by
  unfold State.previewTake
  split
  · exact .refl s
  · exact .trans (.trans .of_same (countUnits_keepsRuns ..)) (previewRun_keepsRuns _)

theorem finishBuild_keepsRuns (s : State) (e : CommitEntry) (r : Replay) : s.KeepsRuns (s.finishBuild e r) :=
  .of_same (finishBuild_streams ..) (finishBuild_commit ..)

theorem drainTake_keepsRuns (s : State) (addr len pos : Nat) : s.KeepsRuns (s.drainTake addr len pos) := by
  unfold State.drainTake
  split
  · next e r he hr =>
    dsimp only
    have hread (tally : List (Nat × Nat)) (r' : Replay) : s.KeepsRuns (s.modLink fun l =>
        { (l.modSending fun _ => { e with xfer := { e.xfer with tally := tally } }) with replay := some r' }) :=
      .modLink (modSending_names he rfl)
    have hmark (t : State) (c : Bool) : t.KeepsRuns (if c then t.modStream e.stream fun x =>
        { x with capture := markRetire (addr / blockBytes) x.capture } else t) := by
      split
      · exact .modStream (of_covers fun e n => by split <;> rfl)
      · exact .refl t
    split
    · exact (((hread _ _).trans (hmark _ _)).trans (countUnits_keepsRuns ..)).trans (finishBuild_keepsRuns ..)
    · exact ((hread _ _).trans (hmark _ _)).trans (countUnits_keepsRuns ..)
  · exact .refl s

/-! ### The capture writer (chapter 2) -/

/-- The writer's stop at its stop index, which is held (R43). -/
theorem finishStop_keepsRun {x : Stream} (hmode : x.writer.mode ≠ .stopped) (hstop : x.writer.stop ≠ none) :
    x.KeepsRun x.finishStop := .of_writing hmode (hmode := fun _ => ⟨hstop, rfl⟩)

theorem stop_of_reached {w : Writer} (h : w.stopReached = true) : w.stop ≠ none := by
  intro hno
  rw [Writer.stopReached, hno] at h
  exact Bool.false_ne_true h

theorem makeSeal_keepsRun {x : Stream} (hmode : x.writer.mode ≠ .stopped) : x.KeepsRun x.makeSeal := by
  unfold Stream.makeSeal
  dsimp only
  split
  · next hreached =>
    exact .of_writing hmode (hmode := fun _ => ⟨stop_of_reached hreached, rfl⟩)
  · exact .of_writing hmode

theorem sealStarted_keepsRun {x : Stream} (hmode : x.writer.mode ≠ .stopped) : x.KeepsRun x.sealStarted := by
  unfold Stream.sealStarted
  dsimp only
  split
  · refine .trans (y := { x with writer := { x.writer with mode := .sealing, ageRunning := false, write := none } })
      (.of_writing hmode) (makeSeal_keepsRun nofun)
  · split
    · exact .of_writing hmode
    · exact .of_writing hmode

theorem startSeal_keepsRuns {s : State} {i : StreamId} (hmode : (s.stream i).writer.mode ≠ .stopped) :
    s.KeepsRuns (s.startSeal i) := by
  rw [startSeal_eq]
  exact .setStream (sealStarted_keepsRun hmode)

theorem writerStopped_keepsRun {x : Stream} (hstop : x.writer.stop ≠ none) : x.KeepsRun x.writerStopped := by
  unfold Stream.writerStopped
  split
  · next hm => exact sealStarted_keepsRun (by rw [hm]; exact nofun)
  · next hm => exact finishStop_keepsRun (by rw [hm]; exact nofun) hstop
  · next hm => exact finishStop_keepsRun (by rw [hm]; exact nofun) hstop
  · exact .refl x
  · exact .refl x

theorem stopWriter_keepsRuns {s : State} {i : StreamId} (hstop : (s.stream i).writer.stop ≠ none) :
    s.KeepsRuns (s.stopWriter i) := by
  rw [stopWriter_eq]
  exact .setStream (writerStopped_keepsRun hstop)

/-- A RUNNING stream whose stop is asked for is CLOSING; its writer has not stopped and its CLOSE is not cut (R43). -/
theorem stopHeld_keepsRun {x : Stream} (hphase : x.phase = .running) (n : Nat) (reason : CloseReason) :
    x.KeepsRun (x.stopHeld n reason) := by
  have hactive : x.active = true := active_iff.2 (.inl hphase)
  refine ⟨fun _ => rfl, fun _ => rfl, fun _ => rfl, fun hx _ => ?_⟩
  obtain ⟨hrun, hended, hclosed⟩ := hx hactive
  refine ⟨nofun, hended, fun hc => ?_⟩
  obtain ⟨hclosing, -⟩ := hclosed hc
  exact nomatch hphase.symm.trans hclosing

theorem requestStop_keepsRuns {s : State} {i : StreamId} (hphase : (s.stream i).phase = .running)
    (reason : CloseReason) : s.KeepsRuns (s.requestStop i reason) := by
  rw [requestStop_eq, Stream.stopAsked]
  refine .setStream ?_
  split
  · obtain hlt | hat := (le_stopIndex (s.stream i).writer).lt_or_eq
    · rw [stopTaken_below hlt]
      exact stopHeld_keepsRun hphase _ _
    · rw [← hat, stopTaken_at]
      exact (stopHeld_keepsRun hphase _ _).trans (writerStopped_keepsRun nofun)
  · exact .refl _

/-- Stream `i` of `t` is that of `s` with its next sample placed, marked or passed: it stays in its run, and its writer has
not stopped if it had not. Nothing else of the law has changed. -/
structure State.WritesOn (s t : State) (i : StreamId) : Prop where
  link : t.link = s.link
  others : ∀ j, j ≠ i → t.stream j = s.stream j
  phase : (t.stream i).phase = (s.stream i).phase
  stop : (t.stream i).writer.stop = (s.stream i).writer.stop
  nextSeq : (t.stream i).cutter.nextSeq = (s.stream i).cutter.nextSeq
  closeCut : (t.stream i).cutter.closeCut = (s.stream i).cutter.closeCut
  mode : (s.stream i).writer.mode ≠ .stopped → (t.stream i).writer.mode ≠ .stopped

namespace State.WritesOn

variable {s t u : State} {i : StreamId}

theorem refl (s : State) (i : StreamId) : s.WritesOn s i := ⟨rfl, fun _ _ => rfl, rfl, rfl, rfl, rfl, id⟩

theorem trans (h : s.WritesOn t i) (g : t.WritesOn u i) : s.WritesOn u i where
  link := g.link.trans h.link
  others j hj := (g.others j hj).trans (h.others j hj)
  phase := g.phase.trans h.phase
  stop := g.stop.trans h.stop
  nextSeq := g.nextSeq.trans h.nextSeq
  closeCut := g.closeCut.trans h.closeCut
  mode := g.mode ∘ h.mode

theorem setStream {y : Stream} (hphase : y.phase = (s.stream i).phase := by rfl)
    (hstop : y.writer.stop = (s.stream i).writer.stop := by rfl)
    (hseq : y.cutter.nextSeq = (s.stream i).cutter.nextSeq := by rfl)
    (hclose : y.cutter.closeCut = (s.stream i).cutter.closeCut := by rfl)
    (hmode : (s.stream i).writer.mode ≠ .stopped → y.writer.mode ≠ .stopped := by exact id) :
    s.WritesOn (s.setStream i y) i := by
  refine ⟨rfl, fun j hj => State.setStream_stream_other s y hj, ?_, ?_, ?_, ?_, ?_⟩ <;>
    rw [State.setStream_stream_self] <;> assumption

/-- A change of what the law does not name. -/
theorem of_same (hs : t.streams = s.streams := by rfl) (hl : t.link = s.link := by rfl) : s.WritesOn t i := by
  have h (j : StreamId) : t.stream j = s.stream j := congrArg (·.get j) hs
  refine ⟨hl, fun j _ => h j, ?_, ?_, ?_, ?_, ?_⟩ <;> rw [h]
  exact id

theorem notices (h : s.WritesOn t i) (n : Notices) : s.WritesOn { t with notices := n } i := { h with }

theorem raise (h : s.WritesOn t i) (j : StreamId) (c : StreamCat) : s.WritesOn (t.raise j c) i := h.notices _

theorem keepsRuns (h : s.WritesOn t i) (hmode : (s.stream i).writer.mode ≠ .stopped) : s.KeepsRuns t := by
  refine ⟨by rw [State.records, h.link]; exact .refl _, fun j => ?_⟩
  by_cases hj : j = i
  · subst hj
    exact .of_writing hmode h.phase h.stop h.nextSeq h.closeCut fun hs => absurd hs (h.mode hmode)
  · rw [h.others j hj]
    exact .refl _

end State.WritesOn

theorem take_writesOn {s t : State} {i : StreamId} {first k : Nat} {gap : Option Gap}
    (h : s.take i first k gap = some t) : s.WritesOn t i := by
  obtain ⟨b, rest, -, rfl⟩ := take_some h
  dsimp only
  split
  · exact .raise .setStream ..
  · exact .setStream

theorem victimTake_writesOn {s t : State} {i : StreamId} {first k : Nat} (h : s.victimTake i first k = some t) :
    s.WritesOn t i := by
  unfold State.victimTake at h
  split at h
  · nomatch h
  · obtain rfl := Option.some.inj h
    exact .raise .setStream ..

theorem holdBlock_writesOn (s : State) (i : StreamId) : s.WritesOn (s.modStream i Stream.holdBlock) i :=
  .setStream (hmode := fun _ => nofun)

theorem enterDropping_writesOn (s : State) (i : StreamId) : s.WritesOn (s.enterDropping i) i := by
  unfold State.enterDropping
  refine .raise (.setStream (hmode := fun _ => ?_)) ..
  exact nofun

theorem getBlock_writesOn (s : State) (i : StreamId) : s.WritesOn (s.getBlock i).1 i := by
  unfold State.getBlock
  dsimp only
  split
  · next h => exact (take_writesOn h).trans (holdBlock_writesOn ..)
  · split
    · split
      · next h => exact (victimTake_writesOn h).trans (holdBlock_writesOn ..)
      · exact enterDropping_writesOn s i
    · exact enterDropping_writesOn s i

theorem stageKept_writesOn (s : State) (i : StreamId) (bytes : List Byte) : s.WritesOn (s.stageKept i bytes) i := by
  have hflip : s.WritesOn (s.takeStagingFlip i) i := by
    unfold State.takeStagingFlip
    split
    · exact .of_same
    · exact .refl s i
  have hstop (w : Writer) : w.swapIfFull.stop = w.stop := by unfold Writer.swapIfFull; split <;> rfl
  have hmode (w : Writer) : w.swapIfFull.mode = w.mode := by unfold Writer.swapIfFull; split <;> rfl
  refine hflip.trans (.setStream (hstop := hstop _) (hmode := ?_))
  rw [hmode]
  exact id

theorem placeSample_writesOn (s : State) (i : StreamId) : s.WritesOn (s.placeSample i) i := by
  unfold State.placeSample
  dsimp only
  split
  · split
    · exact stageKept_writesOn ..
    · split
      · exact (getBlock_writesOn s i).trans (stageKept_writesOn ..)
      · exact getBlock_writesOn s i
  · exact .refl s i

theorem enterLaneMark_writesOn (s : State) (i : StreamId) : s.WritesOn (s.enterLaneMark i) i := by
  obtain ⟨n, h, -⟩ := enterLaneMark_eq s i
  obtain ⟨markers, lost, pending, hmarked⟩ := laneMarked_eq (s.stream i)
  rw [h, hmarked]
  exact .notices .setStream n

theorem advance_writesOn (s : State) (i : StreamId) : s.WritesOn (s.advance i) i := by
  rw [advance_eq]
  refine .setStream (hstop := Writer.movedPast_stop ..) (hmode := ?_)
  rw [Writer.movedPast_mode]
  exact id

theorem resume_keepsRuns (s : State) (i : StreamId) : s.KeepsRuns (s.resume i) := by
  unfold State.resume
  dsimp only
  split
  · next hm =>
    have hmode : (s.stream i).writer.mode ≠ .stopped := by rw [hm]; exact nofun
    split
    · next h => exact ((take_writesOn h).trans (holdBlock_writesOn ..)).keepsRuns hmode
    · exact .refl s
  · exact .refl s

theorem decimateAt_keepsRuns (s : State) (i : StreamId) : s.KeepsRuns (s.decimateAt i) := by
  have hk : (s.stream i).KeepsRun { s.stream i with
    writer := { (s.stream i).writer with k := (s.stream i).decimate } } := .of_rest
  have hdecimated : (s.stream i).KeepsRun (s.stream i).decimated := by
    unfold Stream.decimated
    dsimp only
    split
    · next h =>
      refine hk.trans (sealStarted_keepsRun ?_)
      show (s.stream i).writer.mode ≠ .stopped
      rw [h.2]
      exact nofun
    · exact hk
  rw [decimateAt_eq]
  split
  · exact .setStream hdecimated
  · exact .trans (.setStream hdecimated) (.of_same (s := s.setStream i _))

theorem boundary_keepsRuns (s : State) (i : StreamId) : s.KeepsRuns (s.boundary i) := by
  unfold State.boundary
  split
  · have hdone : s.KeepsRuns (s.modWriter i fun w => { w with boundaryDone := true }) := .modStream .of_rest
    exact hdone.trans ((decimateAt_keepsRuns _ i).trans (resume_keepsRuns _ i))
  · exact .refl s

theorem lengthStop_keepsRuns (s : State) (i : StreamId) : s.KeepsRuns (s.lengthStop i) := by
  unfold State.lengthStop
  dsimp only
  split
  · next h =>
    obtain ⟨⟨-, hphase⟩, -⟩ : (_ ∧ (s.stream i).phase = .running) ∧ _ := by simpa using h
    exact .trans (.raise s i .run) (requestStop_keepsRuns (s := s.raise i .run) hphase .length)
  · exact .refl s

/-- The sample leaves the writer going, until a full block, the run length or the stop index ends it (R30, R34, R70). -/
theorem finishSample_keepsRuns {s : State} {i : StreamId} (hmode : (s.stream i).writer.mode ≠ .stopped) :
    s.KeepsRuns (s.finishSample i) := by
  have hseal (t : State) (ht : (t.stream i).writer.mode ≠ .stopped) :
      t.KeepsRuns (if (t.stream i).blockFull then t.startSeal i else t) := by
    split
    · exact startSeal_keepsRuns ht
    · exact .refl t
  have hstop (t : State) : t.KeepsRuns (if (t.stream i).writer.stopReached then t.stopWriter i else t) := by
    split
    · next hreached => exact stopWriter_keepsRuns (stop_of_reached hreached)
    · exact .refl t
  unfold State.finishSample
  split
  · exact .refl s
  · have hpast := ((placeSample_writesOn s i).trans (enterLaneMark_writesOn _ i)).trans (advance_writesOn _ i)
    exact (((hpast.keepsRuns hmode).trans (hseal _ (hpast.mode hmode))).trans (lengthStop_keepsRuns _ i)).trans (hstop _)

theorem mode_of_mayProcess {w : Writer} (h : w.mayProcess = true) : w.mode ≠ .stopped := by
  obtain ⟨-, -, hstopped⟩ := (mayProcess_iff w).1 h
  exact hstopped

theorem sampleProcess_keepsRuns (s : State) (i : StreamId) : s.KeepsRuns (s.sampleProcess i) := by
  unfold State.sampleProcess
  dsimp only
  split
  · split
    · next hmay =>
      exact ((boundary_keepsRuns s i).trans (finishSample_keepsRuns (mode_of_mayProcess hmay))).settle
    · exact (boundary_keepsRuns s i).settle
  · exact .refl s

theorem flushAgeExpiry_keepsRuns (s : State) (i : StreamId) : s.KeepsRuns (s.flushAgeExpiry i) := by
  unfold State.flushAgeExpiry
  dsimp only
  split
  · next h =>
    refine (startSeal_keepsRuns ?_).settle
    rw [h.1]
    exact nofun
  · exact .refl s

theorem afterFlush_keepsRuns (s : State) (i : StreamId) : s.KeepsRuns (s.afterFlush i) := by
  unfold State.afterFlush
  dsimp only
  split
  · next h =>
    have hseal : s.KeepsRuns (s.modStream i Stream.makeSeal) :=
      .modStream (makeSeal_keepsRun (by rw [h.1]; exact nofun))
    split
    · next hmay =>
      rw [Bool.and_eq_true] at hmay
      exact hseal.trans (finishSample_keepsRuns (mode_of_mayProcess hmay.2))
    · exact hseal
  · exact .refl s

theorem flushDone_keepsRuns (s : State) (i : StreamId) (addr : Nat) (orphan : Option StageBuf) :
    s.KeepsRuns (s.flushDone i addr orphan) := by
  unfold State.flushDone
  have hwrite (b : StageBuf) : s.KeepsRuns (s.writeFlush b addr).freePort :=
    (writeFlush_keepsRuns ..).trans .of_same
  have hflushed (t : State) : t.KeepsRuns (t.modWriter i Writer.flushed) := by
    have hw (w : Writer) : w.flushed.mode = w.mode ∧ w.flushed.stop = w.stop ∧ w.flushed.index = w.index := by
      unfold Writer.flushed
      split <;> exact ⟨rfl, rfl, rfl⟩
    obtain ⟨hmode, hstop, hindex⟩ := hw (t.stream i).writer
    exact .modStream (.of_rest (hmode := hmode) (hstop := hstop) (hindex := hindex))
  split
  · exact (hwrite _).settle
  · split
    · exact .settle .of_same
    · exact (((hwrite _).trans (hflushed _)).trans (afterFlush_keepsRuns _ i)).settle

/-! ### Markers, lanes and AUX lines (chapters 2 and 3) -/

/-- A marker is entered on a RUNNING stream alone, whose CLOSE is not cut (R53). -/
theorem latchMarker_keepsRuns (s : State) (i : StreamId) (index : Nat) (src : MarkSource) :
    s.KeepsRuns (s.latchMarker i index src) := by
  have hrunning {x y : Stream} (hphase : x.phase = .running) (hy : y.phase = x.phase) (hwriter : y.writer = x.writer)
      (hcutter : y.cutter = x.cutter) (hend : y.endIndex = x.endIndex) : x.KeepsRun y := by
    refine ⟨fun h => by rwa [Stream.active, hy], fun _ => by rw [hcutter], fun _ => by rw [hcutter], fun hx _ => ?_⟩
    obtain ⟨hrun, hended, hclosed⟩ := hx (active_iff.2 (.inl hphase))
    refine ⟨fun _ => ?_, fun h => ?_, fun h => ?_⟩
    · rw [hwriter]; exact hrun hphase
    · rw [hwriter] at h ⊢; exact hend.trans (hended h)
    · rw [hcutter] at h
      obtain ⟨hclosing, -⟩ := hclosed h
      exact nomatch hphase.symm.trans hclosing
  unfold State.latchMarker
  dsimp only
  split
  · next hphase =>
    split
    · exact .setStream (hrunning hphase rfl rfl rfl rfl)
    · refine .trans (.setStream ?_) (.raise ..)
      exact hrunning hphase rfl rfl rfl rfl
  · exact .refl s

/-- A run just entered meets its law: its writer waits for a block, and nothing is cut (R69). -/
theorem enterRunning_runLaw (x : Stream) : RunLaw x.enterRunning := ⟨fun _ => ⟨rfl, nofun⟩, nofun, nofun⟩

theorem startRun_keepsRuns {s : State} {i : StreamId} (h : (s.stream i).phase = .armed) :
    s.KeepsRuns (s.startRun i) := by
  have hactive : (s.stream i).active = false := by rw [Stream.active, h]; rfl
  exact .trans (.modStream (.of_outside hactive fun _ => enterRunning_runLaw _)) (.raise ..)

theorem holdBeat_keepsRuns (s : State) (i : StreamId) (b : HeldBeat) :
    s.KeepsRuns (s.modStream i fun x => x.holdBeat b) := by
  refine .modStream ?_
  unfold Stream.holdBeat
  split
  · exact .of_rest
  · exact .of_rest

theorem beatArrival_keepsRuns (s : State) (i : StreamId) (beat : List Byte) (mark : Option Nat) :
    s.KeepsRuns (s.beatArrival i beat mark) := by
  unfold State.beatArrival
  dsimp only
  split
  · exact .refl s
  · exact .refl s
  · next hphase =>
    split
    · exact (startRun_keepsRuns hphase).trans (holdBeat_keepsRuns ..)
    · exact .refl s
  · exact holdBeat_keepsRuns ..
  · split
    · exact .refl s
    · exact holdBeat_keepsRuns ..

theorem beatTake_keepsRuns (s : State) (i : StreamId) : s.KeepsRuns (s.beatTake i) := by
  unfold State.beatTake
  dsimp only
  split
  · exact .refl s
  · split
    · exact .setStream .of_rest
    · exact .refl s

theorem auxEdge_keepsRuns (s : State) (line : AuxLine) (rising : Bool) : s.KeepsRuns (s.auxEdge line rising) := by
  unfold State.auxEdge
  split
  · refine .foldl (fun s i => ?_) _ s
    unfold State.auxStream
    dsimp only
    split
    · next h => exact startRun_keepsRuns h.1
    · split
      · exact latchMarker_keepsRuns ..
      · exact .refl s
  · exact .refl s

/-! ### Run control (chapter 4) -/

theorem not_active {x : Stream} (hr : x.phase ≠ .running) (hc : x.phase ≠ .closing) : x.active = false :=
  Bool.eq_false_iff.2 fun h => (active_iff.1 h).elim hr hc

/-- A stream that is in no run is taken to another state outside a run. -/
theorem outside_keepsRun {x y : Stream} (hx : x.active = false) (hy : y.active = false) : x.KeepsRun y :=
  .of_outside hx fun h => absurd (hy.symm.trans h) Bool.false_ne_true

theorem disarm_keepsRuns {s : State} {i : StreamId} (h : (s.stream i).phase = .armed) :
    s.KeepsRuns (s.modStream i Stream.disarm) := by
  refine .modStream (outside_keepsRun (not_active ?_ ?_) rfl) <;> rw [h] <;> exact nofun

theorem pfailAssert_keepsRuns (s : State) : s.KeepsRuns s.pfailAssert := by
  have hstream (s : State) (i : StreamId) : s.KeepsRuns (s.powerFailStream i) := by
    unfold State.powerFailStream
    split
    · next hphase =>
      exact .trans (.raise s i .run) (requestStop_keepsRuns (s := s.raise i .run) hphase .powerFail)
    · next hphase => exact (disarm_keepsRuns hphase).trans (.raise ..)
    · exact .refl s
  unfold State.pfailAssert
  split
  · exact .refl s
  · have hline : s.KeepsRuns { s with pfail := true, powerFail := true } := .of_same
    exact .settle (.trans (hline.trans (.foldl hstream StreamId.all _)) .of_same)

theorem pfailDeassert_keepsRuns (s : State) : s.KeepsRuns s.pfailDeassert := by
  unfold State.pfailDeassert
  split
  · exact .of_same
  · exact .refl s

/-- An abort fixes the end index at the writer index, and a run whose CLOSE is cut has no gap formed (R73, R74). -/
theorem aborted_keepsRun {x : Stream} (hrun : x.active = true) : x.KeepsRun x.aborted := by
  refine ⟨fun _ => rfl, fun _ => rfl, fun _ => rfl, fun hx _ => ⟨nofun, fun _ => rfl, fun hc => ?_⟩⟩
  obtain ⟨-, hended, hclosed⟩ := hx hrun
  have hclose : x.cutter.closeCut = true := hc
  obtain ⟨-, hmode, hopen, htail, -, hdone⟩ := hclosed hclose
  have hgap : x.aborted.cutter.tailGap = none := if_neg fun h => h.2 hclose
  refine ⟨rfl, rfl, hopen, hgap, rfl, accountDone_of_fewer hdone (Eq.symm hmode) (hgap.trans htail.symm) rfl
    (hended hmode).symm fun n hn => ?_⟩
  obtain ⟨e, he, hcovers⟩ := List.any_eq_true.1 hn
  obtain ⟨f, hf, rfl⟩ := List.mem_map.1 (show e ∈ abortList x.capture from he)
  obtain ⟨hf, -⟩ := List.mem_filter.1 hf
  refine List.any_eq_true.2 ⟨f, hf, ?_⟩
  rw [← hcovers]
  split <;> rfl

theorem replaceTotals_rest (c : Cutter) (stuck : List CommitEntry) :
    let d := stuck.foldl (fun c e => c.replaceTotals e.body) c
    d.nextSeq = c.nextSeq ∧ d.closeCut = c.closeCut ∧ d.openDue = c.openDue ∧ d.tailGap = c.tailGap ∧
      d.cutIndex = c.cutIndex := by
  induction stuck generalizing c with
  | nil => exact ⟨rfl, rfl, rfl, rfl, rfl⟩
  | cons e stuck ih =>
    obtain ⟨h1, h2, h3, h4, h5⟩ := ih (c.replaceTotals e.body)
    have hone : (c.replaceTotals e.body).nextSeq = c.nextSeq ∧ (c.replaceTotals e.body).closeCut = c.closeCut ∧
        (c.replaceTotals e.body).openDue = c.openDue ∧ (c.replaceTotals e.body).tailGap = c.tailGap ∧
        (c.replaceTotals e.body).cutIndex = c.cutIndex := by
      unfold Cutter.replaceTotals
      split <;> exact ⟨rfl, rfl, rfl, rfl, rfl⟩
    obtain ⟨g1, g2, g3, g4, g5⟩ := hone
    exact ⟨h1.trans g1, h2.trans g2, h3.trans g3, h4.trans g4, h5.trans g5⟩

/-- A replaced record keeps its name: CLOSE is replaced by itself (R76). -/
theorem replaced_name (e : CommitEntry) : e.replaced.name = e.name := by
  have hclose : e.body.replacement.isClose = e.body.isClose := by cases e.body <;> rfl
  rw [CommitEntry.name, CommitEntry.name, ← hclose]
  rfl

theorem replaceStuck_keepsRuns (s : State) (i : StreamId) : s.KeepsRuns (s.replaceStuck i) := by
  unfold State.replaceStuck
  dsimp only
  refine .trans (.modLink (map_names (fun e => ?_) _)) (.modStream ?_)
  · split
    · exact replaced_name e
    · rfl
  · obtain ⟨h1, h2, h3, h4, h5⟩ := replaceTotals_rest (s.stream i).cutter (s.link.commit.filter (CommitEntry.stuckOf i))
    exact .of_rest (hseq := h1) (hclose := h2) (hopen := h3) (htail := h4) (hcut := h5)

theorem abortRun_keepsRuns {s : State} {i : StreamId} (hrun : (s.stream i).active = true) :
    s.KeepsRuns (s.abortRun i) := by
  have hlink : (s.previewSnap i).link = s.link := by
    obtain h | ⟨p, segs, -, -, h⟩ := previewSnap_cases s i <;> rw [h]
  have hstream : (s.previewSnap i).stream i = s.stream i := congrArg (·.get i) (previewSnap_streams s i)
  have hsnap : s.KeepsRuns { s.previewSnap i with
      port := (s.previewSnap i).port.orphanFlush i ((s.previewSnap i).stream i).writer } :=
    .of_same (previewSnap_streams s i) (congrArg Link.commit hlink)
  have habort := hsnap.trans (.modStream (i := i) (f := Stream.aborted) (aborted_keepsRun (hstream ▸ hrun)))
  unfold State.abortRun
  dsimp only
  split
  · exact habort.trans (replaceStuck_keepsRuns ..)
  · exact habort

theorem streamSetup_keepsRuns (s : State) (tag : Byte) (f : SetupFields) : s.KeepsRuns (s.streamSetup tag f) := by
  unfold State.streamSetup
  split
  · exact .of_same
  · next i hi =>
    dsimp only
    split
    · exact .of_same
    · next hphase =>
      have hno : (s.stream i).active = false := by
        obtain h | h := not_not.1 hphase <;> rw [Stream.active, h] <;> rfl
      split
      · exact .trans (.setStream (outside_keepsRun hno rfl)) .of_same
      · split
        · exact .of_same
        · split
          · exact .of_same
          · exact .trans (.setStream (outside_keepsRun hno rfl)) .of_same

theorem runStart_keepsRuns (s : State) (tag : Byte) (f : StartFields) : s.KeepsRuns (s.runStart tag f) := by
  unfold State.runStart
  split
  · exact .of_same
  · next i hi =>
    dsimp only
    split
    · exact .of_same
    · next hphase =>
      have hidle : (s.stream i).phase = .idle := not_not.1 hphase
      have hno : (s.stream i).active = false := by rw [Stream.active, hidle]; rfl
      split
      · exact .of_same
      · split
        · exact .of_same
        · split
          · exact .of_same
          · refine .trans (.setStream (i := i) ?_) .of_same
            split
            · exact .of_outside hno fun _ => enterRunning_runLaw _
            · exact outside_keepsRun hno rfl

theorem runStop_keepsRuns (s : State) (tag stream : Byte) : s.KeepsRuns (s.runStop tag stream) := by
  unfold State.runStop
  split
  · exact .of_same
  · split
    · next hphase => exact (disarm_keepsRuns hphase).trans .of_same
    · next hphase => exact (requestStop_keepsRuns hphase _).settle.trans .of_same
    · exact .of_same

theorem runAbort_keepsRuns (s : State) (tag stream : Byte) : s.KeepsRuns (s.runAbort tag stream) := by
  unfold State.runAbort
  split
  · exact .of_same
  · dsimp only
    split
    · next hphase => exact (disarm_keepsRuns hphase).trans .of_same
    · next hphase => exact (abortRun_keepsRuns (active_iff.2 (.inl hphase))).settle.trans .of_same
    · next hphase => exact (abortRun_keepsRuns (active_iff.2 (.inr hphase))).settle.trans .of_same
    · exact .of_same

/-! ### The cut (R87, R104) -/

@[simp] theorem evalLow_link (s : State) : s.evalLow.link = s.link := by
  unfold State.evalLow; dsimp only; split <;> rfl

@[simp] theorem placeRequest_link (s : State) (size : Nat) : (s.placeRequest size).1.link = s.link := by
  unfold State.placeRequest
  dsimp only
  split
  · exact evalLow_link _
  · dsimp only
    rw [evalLow_link]
    split <;> rfl

theorem placeRequest_keepsRuns (s : State) (size : Nat) : s.KeepsRuns (s.placeRequest size).1 :=
  .of_same (placeRequest_streams ..) (by rw [placeRequest_link])

/-- Once CLOSE is cut a stream has no next record (R87, R101). -/
theorem next_of_closeCut {x : Stream} (h : RunLaw x) (hclose : x.cutter.closeCut = true) (pf : Bool) :
    x.next pf = none := by
  obtain ⟨hphase, -, hopen, htail, hmarkers, hdone⟩ := h.closed hclose
  have hearly : ¬ ∃ m rest, x.markers = m :: rest ∧ m.index < x.cutter.cutIndex := by
    rintro ⟨m, rest, hm, -⟩
    exact nomatch hmarkers.symm.trans hm
  have hgap : ¬ ∃ g, x.cutter.tailGap = some g ∧ g.first = x.cutter.cutIndex := by
    rintro ⟨g, hg, -⟩
    exact nomatch htail.symm.trans hg
  rw [next_of_done_end pf (active_iff.2 (.inr hphase)) hopen hearly hgap hdone hmarkers, if_pos hclose]

/-- CLOSE is next when OPEN is cut, no marker waits and the account is done (R87). -/
theorem closeNext_spec {x : Stream} {pf : Bool} (h : x.next pf = some .closeNext) :
    x.cutter.openDue = false ∧ x.markers = [] ∧ x.accountDone = true := by
  have hdata (p : Option DataPlan) : p.map .dataNext ≠ some NextRecord.closeNext := by
    cases p <;> exact nofun
  unfold Stream.next at h
  dsimp only at h
  split at h
  · exact nomatch h
  · split at h
    · exact nomatch h
    · next hopen =>
      split at h
      · exact nomatch h
      · split at h
        · exact nomatch h
        · split at h
          · next hdone =>
            split at h
            · exact nomatch h
            · next hmarkers =>
              exact ⟨Bool.not_eq_true _ ▸ hopen, List.head?_eq_none_iff.1 hmarkers, hdone⟩
          · split at h
            · exact nomatch h
            · exact absurd h (hdata _)

theorem active_of_next {x : Stream} {pf : Bool} {n : NextRecord} (h : x.next pf = some n) : x.active = true :=
  of_not_not fun hno => nomatch (next_of_not_active (Bool.eq_false_iff.2 hno) pf).symm.trans h

/-- A stream after the cut of a record, the sequence number taken (R104). -/
def CutPlan.afterCut (p : CutPlan) : Stream :=
  { p.after with cutter := { p.after.cutter with nextSeq := p.after.cutter.nextSeq + 1 } }

/-- A cut takes one sequence number, leaves the phase, and cuts CLOSE or leaves it to be cut (R87, R104). -/
theorem cutOf_spec (x : Stream) (n : NextRecord) :
    (x.cutOf n).afterCut.phase = x.phase ∧ (x.cutOf n).after.cutter.nextSeq = x.cutter.nextSeq ∧
      ((x.cutOf n).body.isClose = true → (x.cutOf n).afterCut.cutter.closeCut = true) := by
  cases n with
  | closeNext => exact ⟨rfl, rfl, fun _ => rfl⟩
  | openNext | markNext m | tailNext g | gapNext e | dataNext p => exact ⟨rfl, rfl, nofun⟩

/-- A cut leaves a stream its law: CLOSE is cut of a stopped writer's closed account alone (R87, R101). -/
theorem cutOf_runLaw {x : Stream} {pf : Bool} {n : NextRecord} (h : RunLaw x) (hn : x.next pf = some n) :
    RunLaw (x.cutOf n).afterCut := by
  have hactive := active_of_next hn
  have hopen : x.cutter.closeCut = false :=
    Bool.eq_false_iff.2 fun hc => nomatch (next_of_closeCut h hc pf).symm.trans hn
  cases n with
  | closeNext =>
    obtain ⟨hdue, hmarkers, hdone⟩ := closeNext_spec hn
    obtain ⟨hmode, htail, -⟩ := (accountDone_iff x).1 hdone
    have hphase : x.phase = .closing := (active_iff.1 hactive).resolve_left fun hr => by
      obtain ⟨-, hgoing⟩ := h.running hr
      exact hgoing hmode
    exact ⟨h.running, h.ended, fun _ => ⟨hphase, hmode, hdue, htail, hmarkers, hdone⟩⟩
  | openNext | markNext m | tailNext g | gapNext e | dataNext p =>
    exact ⟨h.running, h.ended, fun hc => absurd (hopen.symm.trans hc) Bool.false_ne_true⟩

/-- A record cut joins the list behind the records of its stream, under the next sequence number (R86, R87, R104). -/
theorem claim_commitLaw {s : State} (h : CommitLaw s) (hroom : s.link.commit.length < 8) {i : StreamId}
    {pf : Bool} {n : NextRecord} (hn : (s.stream i).next pf = some n) (a : Nat) :
    CommitLaw ((s.modLink fun l => { l with commit := l.commit ++ [((s.stream i).cutOf n).entry i a] }).setStream i
      ((s.stream i).cutOf n).afterCut) := by
  obtain ⟨-, hordered, hrecords, hruns⟩ := commitLaw_iff.1 h
  obtain ⟨hphase, hseq, hclose⟩ := cutOf_spec (s.stream i) n
  have hactive := active_of_next hn
  have hopen : (s.stream i).cutter.closeCut ≠ true :=
    fun hc => nomatch (next_of_closeCut (hruns i hactive) hc pf).symm.trans hn
  have hlaw := cutOf_runLaw (hruns i hactive) hn
  generalize (s.stream i).cutOf n = p at hphase hseq hclose hlaw
  have hafter : p.afterCut.active = true := by rw [Stream.active, hphase]; exact hactive
  have hnext : p.afterCut.cutter.nextSeq = (s.stream i).cutter.nextSeq + 1 := congrArg (· + 1) hseq
  have hnames : ((s.modLink fun l => { l with commit := l.commit ++ [p.entry i a] }).setStream i p.afterCut).records =
      s.records ++ [⟨i, (s.stream i).cutter.nextSeq, p.body.isClose⟩] := by
    rw [← hseq]
    exact List.map_append
  refine commitLaw_iff.2 ⟨?_, ?_, fun b hb => ?_, fun j hj => ?_⟩
  · rw [hnames, List.length_append, State.records, List.length_map]
    exact hroom
  · rw [hnames]
    refine List.pairwise_append.2 ⟨hordered, List.pairwise_singleton .., fun b hb c hc hbc => ?_⟩
    obtain rfl := List.mem_singleton.1 hc
    obtain ⟨hbelow, -⟩ := hrecords b hb
    rwa [hbc] at hbelow
  · rw [hnames] at hb
    rw [State.setStream_stream, State.modLink_stream]
    obtain hb | hb := List.mem_append.1 hb
    · obtain ⟨hbelow, hbactive, hbclose⟩ := hrecords b hb
      split
      · next hbi =>
        rw [hbi] at hbelow hbclose
        refine ⟨by rw [hnext]; exact Nat.lt_succ_of_lt hbelow, hafter, fun hc => absurd (hbclose hc).2 hopen⟩
      · exact ⟨hbelow, hbactive, hbclose⟩
    · obtain rfl := List.mem_singleton.1 hb
      rw [if_pos rfl, hnext]
      exact ⟨Nat.lt_succ_self _, hafter, fun hc => ⟨rfl, hclose hc⟩⟩
  · rw [State.setStream_stream] at hj ⊢
    split
    · exact hlaw
    · next hji => rw [if_neg hji] at hj; exact hruns j hj

theorem cutRecord_commitLaw {s : State} (h : CommitLaw s) (hroom : s.link.commit.length < 8) {i : StreamId}
    {pf : Bool} {n : NextRecord} (hn : (s.stream i).next pf = some n) : CommitLaw (s.cutRecord i n) := by
  have hplace := h.of_keeps (placeRequest_keepsRuns s ((s.stream i).cutOf n).body.size)
  have hlink := placeRequest_link s ((s.stream i).cutOf n).body.size
  have hstream : (s.placeRequest ((s.stream i).cutOf n).body.size).1.stream i = s.stream i :=
    congrArg (·.get i) (placeRequest_streams s _)
  unfold State.cutRecord
  dsimp only
  generalize s.placeRequest ((s.stream i).cutOf n).body.size = r at hplace hlink hstream
  split
  · exact hplace
  · next a ha =>
    rw [← hstream] at hn ⊢
    exact (claim_commitLaw hplace (by rwa [hlink]) hn a).of_keeps (settle_keepsRuns _)

theorem cut_commitLaw {s : State} (h : CommitLaw s) : CommitLaw s.cut := by
  unfold State.cut
  split
  · next hroom =>
    split
    · exact h
    · split
      · exact h
      · next hn => exact cutRecord_commitLaw h hroom.1 hn
  · exact h

/-! ### The archive link (chapters 6 and 7) -/

theorem failEntry_keepsRuns (s : State) (p : CommitEntry → Bool) (e : CommitEntry) (cause : FailCause)
    (code : Option Byte) : s.KeepsRuns (s.failEntry p e cause code) := by
  have hfail : s.KeepsRuns (s.modLink fun l =>
      { l with commit := modifyFirst p (fun f => f.failed cause code) l.commit }) :=
    .modLink (modifyFirst_names fun _ _ _ => rfl)
  have hbuffer (t : State) : t.KeepsRuns (if e.st = .sending then
      { t with port := t.port.orphanDrain, link := { t.link with replay := none } } else t) := by
    split
    · exact .of_same
    · exact .refl t
  have hdead (t : State) : t.KeepsRuns (match e.addr with | none => t | some a => t.deadSpan a e.size) := by
    split
    · exact .refl t
    · exact .of_same
  have hstuck (t : State) : t.KeepsRuns (if e.placements < 3 then t
      else (t.modStream e.stream fun x => { x with drain := .blocked }).raise e.stream .archiveFault) := by
    split
    · exact .refl t
    · exact .trans (.modStream .of_rest) (.raise ..)
  exact ((hfail.trans (hbuffer _)).trans (hdead _)).trans (hstuck _)

theorem rePlace_keepsRuns (s : State) : s.KeepsRuns s.rePlace := by
  unfold State.rePlace
  split
  · exact .refl s
  · split
    · exact .refl s
    · next e he =>
      dsimp only
      have hplace := placeRequest_keepsRuns s e.size
      split
      · exact hplace
      · exact .settle (hplace.trans (.modLink (modifyFirst_names fun _ _ _ => rfl)))

theorem trySend_keepsRuns (s : State) : s.KeepsRuns s.trySend := by
  obtain h | ⟨e, r, -, -, -, -, ⟨-, h⟩ | ⟨-, h⟩⟩ := trySend_cases s <;> rw [h]
  · exact .refl s
  · exact .of_same
  · refine .trans ?_ (.of_same (portGrant_streams _) (by rw [portGrant_link]))
    have hcount : s.KeepsRuns (r.badRanges.foldl
        (fun s g => s.countUncorrectable .replay (e.addr.getD 0 + r.off + 64 * g)) s) :=
      .foldl (fun _ _ => .of_same) _ s
    unfold State.rebuild
    dsimp only
    split
    · exact hcount.trans (finishBuild_keepsRuns ..)
    · exact hcount.trans .of_same

theorem durableQuerySend_keepsRuns (s : State) : s.KeepsRuns s.durableQuerySend := by
  unfold State.durableQuerySend
  split
  · exact .of_same
  · exact .refl s

theorem accept_keepsRuns (s : State) : s.KeepsRuns s.accept := by
  obtain h | h | ⟨e, r, he, -, h⟩ := accept_cases s <;> rw [h]
  · exact .refl s
  · exact .of_same
  · refine .settle (.modLink (modSending_names he ?_))
    unfold CommitEntry.afterAccept
    dsimp only
    split <;> rfl

theorem retry_keepsRuns (s : State) (us : List Upset) : s.KeepsRuns (s.retry us) := by
  have hfree : s.KeepsRuns (s.modLink Link.freeSlot) := .of_same
  unfold State.retry
  split
  · dsimp only
    split
    · exact hfree
    · split
      · refine .trans (.trans (hfree.trans (.modLink ?_)) (upsets_keepsRuns _ us)) (trySend_keepsRuns _)
        exact modifyFirst_names fun _ _ _ => rfl
      · exact (hfree.trans (failEntry_keepsRuns ..)).settle
  · exact .refl s

theorem narrow_keepsRuns (s : State) : s.KeepsRuns s.narrow := by
  have hfree : s.KeepsRuns (s.modLink Link.freeSlot) := .of_same
  unfold State.narrow
  split
  · dsimp only
    split
    · split
      · exact .settle (hfree.trans (.modLink (modifyFirst_names fun _ _ _ => rfl)))
      · exact (hfree.trans (failEntry_keepsRuns ..)).settle
    · exact hfree
  · exact .refl s

theorem refuseWrite_keepsRuns (s : State) (code : Byte) : s.KeepsRuns (s.refuseWrite code) := by
  have hfree : s.KeepsRuns (s.modLink Link.freeSlot) := .of_same
  unfold State.refuseWrite
  split
  · dsimp only
    split
    · exact hfree
    · exact (hfree.trans (failEntry_keepsRuns ..)).settle
  · exact .refl s

theorem refusedMessage_keepsRuns (s : State) (a : Nat) (code : Byte) : s.KeepsRuns (s.refusedMessage a code) := by
  unfold State.refusedMessage
  split
  · split
    · exact .of_same
    · exact failEntry_keepsRuns ..
  · exact .refl s

theorem commitTimeout_keepsRuns (s : State) (i : StreamId) (seq : Nat) : s.KeepsRuns (s.commitTimeout i seq) := by
  unfold State.commitTimeout
  split
  · exact .refl s
  · split
    · exact failEntry_keepsRuns ..
    · exact .refl s

theorem abandonLink_keepsRuns (s : State) : s.KeepsRuns s.abandonLink := by
  have hport : s.KeepsRuns { s with port := s.port.orphanDrain } := .of_same
  refine hport.trans (.modLink (f := fun l => { l with
    outstanding := none, commit := l.commit.map CommitEntry.returned, replay := none, sync := l.sync.requeue })
    (map_names (fun e => ?_) _))
  unfold CommitEntry.returned
  split <;> rfl

theorem raiseArchiveFaults_keepsRuns (s : State) : s.KeepsRuns s.raiseArchiveFaults := by
  obtain ⟨n, h, -⟩ := raiseArchiveFaults_eq s
  rw [h]
  exact .of_same

theorem linkFault_keepsRuns (s : State) (cause : LinkFault) : s.KeepsRuns (s.linkFault cause) := by
  unfold State.linkFault
  split
  · exact ((abandonLink_keepsRuns s).trans .of_same).trans (raiseArchiveFaults_keepsRuns _)
  · exact .refl s

theorem responseTimeout_keepsRuns (s : State) : s.KeepsRuns s.responseTimeout := by
  unfold State.responseTimeout
  split
  · exact linkFault_keepsRuns ..
  · exact .refl s

theorem linkDisable_keepsRuns (s : State) : s.KeepsRuns s.linkDisable := by
  unfold State.linkDisable
  split
  · exact .refl s
  · exact ((abandonLink_keepsRuns s).trans .of_same).trans (raiseArchiveFaults_keepsRuns _)

theorem trainingReply_keepsRuns (s : State) : s.KeepsRuns s.trainingReply := by
  unfold State.trainingReply
  split
  · exact .settle .of_same
  · exact .refl s

theorem durable_keepsRuns (s : State) : s.KeepsRuns s.durable := by
  unfold State.durable
  split
  · dsimp only; split <;> exact .of_same
  · exact .refl s

theorem notYet_keepsRuns (s : State) : s.KeepsRuns s.notYet := by
  unfold State.notYet
  split
  · dsimp only; split <;> exact .of_same
  · exact .refl s

/-! ### Leaving (R145) -/

/-- The earliest entry of a stream leaves, its blocks are released, and the run goes on (R145 steps 1 to 4). -/
theorem left_keepsRuns (s : State) (i : StreamId) (e : CommitEntry) : s.KeepsRuns (s.left i e) where
  records := (removeFirst_sublist _ s.link.commit).map _
  stream := ((State.KeepsRuns.setStream (i := i) (x := { s.stream i with commitIndex := e.covEnd }) .of_rest).trans
    (releaseScan_keepsRuns _ i false)).stream

/-- When CLOSE leaves as the earliest entry of its stream, no entry of the stream is left behind it (R101, R146). -/
theorem no_record_behind_close {s : State} (h : CommitLaw s) {i : StreamId} {e : CommitEntry}
    (he : s.link.firstOf i = some e) (hclose : e.body.isClose = true) :
    ∀ f ∈ removeFirst (fun f => decide (f.stream = i)) s.link.commit, f.stream ≠ i := by
  intro f hf hfi
  have hfilter := filter_of_firstOf he
  have hordered := h.ordered.filter fun f => decide (f.stream = i)
  rw [hfilter] at hordered
  obtain ⟨hfirst, -⟩ := List.pairwise_cons.1 hordered
  have hei : e.stream = i := of_decide_eq_true (List.find?_some he :)
  have hlt := hfirst f (List.mem_filter.2 ⟨hf, decide_eq_true hfi⟩) (hei.trans hfi.symm)
  have hbelow := h.below f ((removeFirst_sublist _ _).mem hf)
  obtain ⟨hlast, -⟩ := h.close e (List.mem_of_find?_eq_some he) hclose
  rw [hei] at hlast
  rw [hfi] at hbelow
  omega

/-- A stream without records in the list may leave its run (R72, R145). -/
theorem streamIdle_commitLaw {s : State} (h : CommitLaw s) {i : StreamId}
    (hno : ∀ e ∈ s.link.commit, e.stream ≠ i) : CommitLaw (s.streamIdle i) := by
  obtain ⟨hlink, -, -, -, -, -, hidle, hothers⟩ := streamIdle_keeps s i
  have hother (e) (he : e ∈ s.link.commit) : (s.streamIdle i).stream e.stream = s.stream e.stream :=
    hothers _ (hno e he)
  refine ⟨?_, ?_, fun e he => ?_, fun e he => ?_, fun e he => ?_, fun j hj => ?_⟩
  · rw [hlink]; exact h.bound
  · rw [hlink]; exact h.ordered
  · rw [hlink] at he; rw [hother e he]; exact h.below e he
  · rw [hlink] at he; rw [hother e he]; exact h.active e he
  · rw [hlink] at he; rw [hother e he]; exact h.close e he
  · have hji : j ≠ i := by
      rintro rfl
      rw [Stream.active, hidle] at hj
      exact Bool.false_ne_true hj
    rw [hothers j hji] at hj ⊢
    exact h.runs j hj

theorem leaveOne_commitLaw {s : State} (h : CommitLaw s) {i : StreamId} {e : CommitEntry}
    (he : s.link.firstOf i = some e) : CommitLaw (s.leaveOne i e) := by
  have hleft := h.of_keeps (left_keepsRuns s i e)
  rw [leaveOne_eq]
  split
  · next hclose => exact streamIdle_commitLaw hleft (no_record_behind_close h he hclose)
  · exact hleft

theorem leave_commitLaw {s : State} (h : CommitLaw s) (i : StreamId) : CommitLaw (s.leave i) := by
  have hchain (fuel : Nat) {s : State} (h : CommitLaw s) : CommitLaw (s.leaveChain i fuel) := by
    induction fuel generalizing s with
    | zero => exact h
    | succ fuel ih =>
      unfold State.leaveChain
      split
      · exact h
      · next e he =>
        split
        · exact ih (leaveOne_commitLaw h he)
        · exact h
  exact (hchain s.link.commit.length h).of_keeps .of_same

theorem committed_commitLaw {s : State} (h : CommitLaw s) (a : Nat) : CommitLaw (s.committed a) := by
  unfold State.committed
  split
  · split
    · exact h.of_keeps .of_same
    · refine CommitLaw.of_keeps (leave_commitLaw (h.of_keeps (.modLink ?_)) _) (settle_keepsRuns _)
      exact modifyFirst_names fun _ _ _ => rfl
  · exact h

/-! ### Requests (chapters 1 and 6 to 10) -/

theorem drainResume_keepsRuns (s : State) (tag stream : Byte) : s.KeepsRuns (s.drainResume tag stream) := by
  unfold State.drainResume
  split
  · exact .of_same
  · next i _ =>
    split
    · have hwake : s.KeepsRuns (s.modLink fun l =>
          { l with commit := l.commit.map fun e => if e.stuckOf i then e.resumed else e }) :=
        .modLink (map_names (fun e => by split <;> rfl) _)
      have hflow (t : State) : t.KeepsRuns (t.modStream i fun x => { x with drain := .flowing }) := .modStream .of_rest
      exact (hwake.trans (hflow _)).trans .of_same
    · exact .of_same

theorem markNow_keepsRuns (s : State) (tag stream : Byte) : s.KeepsRuns (s.markNow tag stream) := by
  unfold State.markNow
  split
  · exact .of_same
  · dsimp only
    split
    · exact (latchMarker_keepsRuns ..).trans .of_same
    · exact .of_same

theorem previewStart_keepsRuns (s : State) (i : StreamId) (tag : Byte) (plan : SpanPlan) :
    s.KeepsRuns (s.previewStart i tag plan) := by
  unfold State.previewStart
  dsimp only
  have hpin : s.KeepsRuns (s.modStream i fun y => { y with capture := pinBlocks (Seg.blocks plan.segs) y.capture }) :=
    .modStream (of_covers fun e n => by split <;> rfl)
  exact .settle (.trans (.trans hpin .of_same) (previewRun_keepsRuns _))

theorem previewRequest_keepsRuns (s : State) (tag stream sel : Byte) (maxBytes : BitVec 16) (index : BitVec 48) :
    s.KeepsRuns (s.previewRequest tag stream sel maxBytes index) := by
  unfold State.previewRequest
  split
  · exact .of_same
  · dsimp only
    split
    · exact .of_same
    · split
      · exact .of_same
      · split
        · exact .of_same
        · split
          · exact .of_same
          · split
            · exact previewStart_keepsRuns ..
            · split
              · exact .of_same
              · split
                · exact .of_same
                · exact previewStart_keepsRuns ..

theorem linkControl_keepsRuns (s : State) (tag a : Byte) : s.KeepsRuns (s.linkControl tag a) := by
  have henable : s.KeepsRuns s.linkEnable := by
    unfold State.linkEnable
    split
    · exact .of_same
    · exact .refl s
  unfold State.linkControl
  split
  · exact henable.trans .of_same
  · split
    · exact (linkDisable_keepsRuns s).trans .of_same
    · exact .of_same

theorem windowGrant_keepsRuns (s : State) (tag : Byte) (a n : BitVec 48) : s.KeepsRuns (s.windowGrant tag a n) := by
  refine .of_same (windowGrant_streams s tag a n) ?_
  unfold State.windowGrant
  split
  · rfl
  · split
    · rfl
    · split
      · rfl
      · exact congrArg Link.commit (evalLow_link _)

theorem timingSet_keepsRuns (s : State) (tag f : Byte) (c y l : BitVec 32) : s.KeepsRuns (s.timingSet tag f c y l) := by
  refine .of_same (timingSet_streams s tag f c y l) ?_
  unfold State.timingSet
  dsimp only
  split
  · rfl
  · exact congrArg Link.commit (evalLow_link _)

/-- The requests that touch neither a stream nor the link. -/
theorem plainRequest_commit (s : State) (tag : Byte) :
    (∀ line edge mask, (s.auxRoute tag line edge mask).link = s.link) ∧
    (∀ sel i, (s.statusRequest tag sel i).link = s.link) ∧ (∀ e, (s.noticeMask tag e).link = s.link) ∧
    (∀ e, (s.noticeTake tag e).link = s.link) ∧ (∀ m c, (s.errorSetup tag m c).link = s.link) ∧
    (∀ m f, (s.errorRead tag m f).link = s.link) ∧ ∀ m t p a b, (s.inject tag m t p a b).link = s.link := by
  refine ⟨fun line edge mask => ?_, fun sel i => ?_, fun e => ?_, fun e => ?_, fun m c => ?_, fun m f => ?_,
    fun m t p a b => ?_⟩
  · unfold State.auxRoute; split <;> rfl
  · unfold State.statusRequest
    split
    · rfl
    · split
      · split <;> rfl
      · rfl
  · unfold State.noticeMask; split <;> rfl
  · unfold State.noticeTake; split <;> rfl
  · unfold State.errorSetup; split <;> rfl
  · unfold State.errorRead; split <;> rfl
  · unfold State.inject
    split
    · rfl
    · dsimp only; split <;> rfl

theorem runRequest_keepsRuns (s : State) (tag : Byte) (r : Request) : s.KeepsRuns (s.runRequest tag r) := by
  obtain ⟨haux, hstatus, hmask, htake, hsetup, hread, hinject⟩ := plainRequest_commit s tag
  cases r with
  | ident => exact .of_same
  | streamSetup f => exact streamSetup_keepsRuns s tag f
  | auxRoute line edge mask => exact .of_same (auxRoute_streams ..) (congrArg Link.commit (haux ..))
  | runStart f => exact runStart_keepsRuns s tag f
  | runStop i => exact runStop_keepsRuns s tag i
  | runAbort i => exact runAbort_keepsRuns s tag i
  | drainResume i => exact drainResume_keepsRuns s tag i
  | markNow i => exact markNow_keepsRuns s tag i
  | windowGrant a n => exact windowGrant_keepsRuns s tag a n
  | linkControl a => exact linkControl_keepsRuns s tag a
  | sync m =>
    refine .of_same (syncRequest_streams ..) ?_
    show (s.syncRequest tag m).link.commit = _
    unfold State.syncRequest
    split
    · rfl
    · split <;> rfl
  | preview i sel n x => exact previewRequest_keepsRuns s tag i sel n x
  | status sel i => exact .of_same (statusRequest_streams ..) (congrArg Link.commit (hstatus ..))
  | noticeMask e => exact .of_same (noticeMask_streams ..) (congrArg Link.commit (hmask ..))
  | noticeTake e => exact .of_same (noticeTake_streams ..) (congrArg Link.commit (htake ..))
  | errorSetup m c => exact .of_same (errorSetup_streams ..) (congrArg Link.commit (hsetup ..))
  | errorRead m f => exact .of_same (errorRead_streams ..) (congrArg Link.commit (hread ..))
  | inject m t p a b => exact .of_same (inject_streams ..) (congrArg Link.commit (hinject ..))
  | timingSet f c y l => exact timingSet_keepsRuns s tag f c y l
  | reset => exact .of_same

/-! ### The control link (chapter 9) -/

theorem execute_keepsRuns (fuel : Nat) (s : State) : s.KeepsRuns (s.execute fuel) := by
  induction fuel generalizing s with
  | zero => exact .refl s
  | succ fuel ih =>
    unfold State.execute
    split
    · exact .refl s
    · next f rest hin =>
      split
      · have htake : s.KeepsRuns (s.takeFrame rest) := .of_same
        refine .trans (htake.trans ?_) (ih _)
        unfold State.runFrame
        split
        · exact .of_same
        · exact .of_same
        · exact runRequest_keepsRuns ..
      · exact .refl s

theorem submit_keepsRuns (s : State) (f : InFrame) : s.KeepsRuns (s.submit f) :=
  .trans .of_same (execute_keepsRuns ..)

theorem writePeriodEnd_keepsRuns (s : State) (bytes : List Byte) : s.KeepsRuns (s.writePeriodEnd bytes) := by
  unfold State.writePeriodEnd
  split
  · exact .of_same
  · exact .of_same
  · exact submit_keepsRuns s _

/-- After a reset the commit list is empty and every stream is outside a run (R63, R81, R123). -/
theorem commitLaw_of_reset {s : State} (hs : s.streams = .same .reset) (hl : s.link.commit = []) : CommitLaw s := by
  refine commitLaw_iff.2 ?_
  rw [State.records, hl]
  refine ⟨Nat.zero_le _, .nil, nofun, fun i hi => ?_⟩
  rw [State.stream, hs, Quad.get_same] at hi
  exact absurd hi (by decide)

@[simp] theorem takePfail_link (s : State) (level : Bool) : (s.takePfail level).link = s.link := by
  unfold State.takePfail; dsimp only; split <;> rfl

theorem hardReset_commitLaw (s : State) (cause : ResetCause) : CommitLaw (s.hardReset cause) :=
  commitLaw_of_reset (takePfail_streams ..) (congrArg Link.commit (takePfail_link ..))

theorem readPeriodEnd_commitLaw {s : State} (h : CommitLaw s) (clocked : Nat) : CommitLaw (s.readPeriodEnd clocked) := by
  unfold State.readPeriodEnd
  split
  · exact h
  · have hread : CommitLaw (s.modCtl fun c => { c with reading := none }) := h.of_keeps .of_same
    dsimp only
    split
    · unfold State.removeHead
      split
      · exact hread
      · split
        · exact commitLaw_of_reset (takePfail_streams ..) (congrArg Link.commit (takePfail_link ..))
        · exact hread.of_keeps (.trans .of_same (execute_keepsRuns ..))
    · exact hread

/-! ### Every step -/

theorem flushComplete_keepsRuns {s t : State} {us : List Upset} (h : execFlushComplete us s = .next t) :
    s.KeepsRuns t := by
  unfold execFlushComplete at h
  split at h
  · split at h
    · obtain rfl := Host.Outcome.next.inj h
      exact (upsets_keepsRuns s us).trans (flushDone_keepsRuns ..)
    · nomatch h
  · obtain rfl := Host.Outcome.next.inj h
    exact .refl s

theorem freePort_keepsRuns (s : State) : s.KeepsRuns s.freePort := .of_same

theorem drainReadComplete_keepsRuns {s t : State} {us : List Upset} (h : execDrainReadComplete us s = .next t) :
    s.KeepsRuns t := by
  unfold execDrainReadComplete at h
  split at h
  · split at h
    · obtain rfl := Host.Outcome.next.inj h
      refine (upsets_keepsRuns s us).trans (.settle (.trans ?_ (freePort_keepsRuns _)))
      split
      · exact drainTake_keepsRuns ..
      · exact countUnits_keepsRuns ..
    · nomatch h
  · obtain rfl := Host.Outcome.next.inj h
    exact .refl s

theorem previewReadComplete_keepsRuns {s t : State} {us : List Upset} (h : execPreviewReadComplete us s = .next t) :
    s.KeepsRuns t := by
  unfold execPreviewReadComplete at h
  split at h
  · split at h
    · obtain rfl := Host.Outcome.next.inj h
      have hfree : s.KeepsRuns (s.upsets us).freePort := (upsets_keepsRuns s us).trans .of_same
      refine .settle (hfree.trans ?_)
      split
      · exact previewTake_keepsRuns ..
      · exact countUnits_keepsRuns ..
    · nomatch h
  · obtain rfl := Host.Outcome.next.inj h
    exact .refl s

/-- Every command keeps the law of the commit list. -/
theorem exec_commitLaw {s t : State} (h : CommitLaw s) {c : Instr} (ht : exec c s = .next t) : CommitLaw t := by
  have law {u : State} (k : CommitLaw u) (hu : Host.Outcome.next u = (.next t : Result)) : CommitLaw t := by
    obtain rfl := Host.Outcome.next.inj hu; exact k
  have keeps {u : State} (k : s.KeepsRuns u) (hu : Host.Outcome.next u = (.next t : Result)) : CommitLaw t :=
    law (h.of_keeps k) hu
  cases c with
  | powerOn | rst => exact law (hardReset_commitLaw ..) ht
  | pfailAssert => exact keeps (pfailAssert_keepsRuns s) ht
  | pfailDeassert => exact keeps (pfailDeassert_keepsRuns s) ht
  | beatArrival lane beat mark => exact keeps (beatArrival_keepsRuns s lane beat mark) ht
  | beatTake i => exact keeps (beatTake_keepsRuns s i) ht
  | sampleProcess i => exact keeps (sampleProcess_keepsRuns s i) ht
  | flushAgeExpiry i => exact keeps (flushAgeExpiry_keepsRuns s i) ht
  | flushComplete us => exact h.of_keeps (flushComplete_keepsRuns ht)
  | drainReadComplete us => exact h.of_keeps (drainReadComplete_keepsRuns ht)
  | previewReadComplete us => exact h.of_keeps (previewReadComplete_keepsRuns ht)
  | auxEdge line rising => exact keeps (auxEdge_keepsRuns s line rising) ht
  | cut => exact law (cut_commitLaw h) ht
  | rePlacement => exact keeps (rePlace_keepsRuns s) ht
  | gateEnd => exact keeps (.of_same (gateEnd_streams s) (congrArg Link.commit (evalLow_link _))) ht
  | writeSend us => exact keeps ((upsets_keepsRuns s us).trans (trySend_keepsRuns _)) ht
  | durableQuerySend => exact keeps (durableQuerySend_keepsRuns s) ht
  | accept => exact keeps (accept_keepsRuns s) ht
  | retry us => exact keeps (retry_keepsRuns s us) ht
  | narrow => exact keeps (narrow_keepsRuns s) ht
  | refuse code => exact keeps (refuseWrite_keepsRuns s code) ht
  | committed a => exact law (committed_commitLaw h a.toNat) ht
  | refused a code => exact keeps (refusedMessage_keepsRuns s a.toNat code) ht
  | commitTimeout i seq => exact keeps (commitTimeout_keepsRuns s i seq) ht
  | durable => exact keeps (durable_keepsRuns s) ht
  | notYet => exact keeps (notYet_keepsRuns s) ht
  | pollWaitEnd => exact keeps (by unfold State.pollWaitEnd; split <;> exact .of_same) ht
  | syncTimeout => exact keeps (by unfold State.syncTimeout; split <;> exact .of_same) ht
  | responseTimeout => exact keeps (responseTimeout_keepsRuns s) ht
  | badFrame => exact keeps (linkFault_keepsRuns s .badFrame) ht
  | trainingLost => exact keeps (linkFault_keepsRuns s .trainingLost) ht
  | faultWaitEnd => exact keeps (by unfold State.faultWaitEnd; split <;> exact .of_same) ht
  | trainingReply => exact keeps (trainingReply_keepsRuns s) ht
  | attemptEnd => exact keeps (by unfold State.attemptEnd; split <;> exact .of_same) ht
  | restEnd => exact keeps (by unfold State.restEnd; split <;> exact .of_same) ht
  | badOpener opener => exact keeps (by unfold State.badOpener; split <;> exact .of_same) ht
  | writePeriodEnd bytes => exact keeps (writePeriodEnd_keepsRuns s bytes) ht
  | readPeriodStart => exact keeps (.of_same (State.modCtl_streams s _)) ht
  | readPeriodEnd clocked => exact law (readPeriodEnd_commitLaw h clocked) ht
  | unknownRequest | ident | streamSetup | auxRoute | runStart | runStop | runAbort | drainResume | markNow
  | windowGrant | linkControlEnable | linkControlDisable | sync | preview | statusDevice | statusStream | noticeMask
  | noticeTake | errorSetup | errorRead | inject | timingSet | reset => exact keeps (submit_keepsRuns s _) ht

/-- Settles O56: a cut appends the next record of its stream, a leaving takes the earliest away, a reset empties the list,
and every other command keeps the records and the runs. -/
theorem stepsKeepTheCommitList : Obligations.StepsKeepTheCommitList := by
  intro s t h ht
  unfold step at ht
  split at ht
  · obtain rfl := Host.Outcome.next.inj ht; exact h
  · next c rest hp =>
    have hrest : CommitLaw { s with pending := rest } := h.of_keeps .of_same
    exact exec_commitLaw hrest ht

end Sys2Proof.Machine
end
section
/-! SUPPORT. The records a cut makes: what the samples of [f, stop) are, in the capture list and in the source runs of a
DATA record, and what each record carries (R84, R89, R95 to R101). -/

namespace Sys2Proof.Machine

/-- An entry holds samples of [f, stop) when it begins before the stop and ends behind f (R95). -/
theorem Entry.meets_iff {e : Entry} {f stop : Nat} :
    e.meets f stop = true ↔ e.first < stop ∧ f < e.first + e.kept * 2 ^ e.k := by
  rw [Entry.meets, Bool.and_eq_true, decide_eq_true_iff, decide_eq_true_iff, Entry.covEnd]

/-- What a DATA cut leaves of the capture list: an entry taken from is DRAINED when its last sample is taken (R12, R96). -/
theorem cutList_eq (f stop : Nat) (list : List Entry) :
    cutList f stop list = list.map fun e =>
      if e.first < stop ∧ f < e.first + e.kept * 2 ^ e.k then
        { e with st := if e.first + e.kept * 2 ^ e.k ≤ stop then .drained else .draining }
      else e := by
  refine List.map_congr_left fun e _ => ?_
  by_cases h : e.meets f stop = true
  · rw [if_pos h, if_pos (Entry.meets_iff.1 h), Entry.covEnd]
  · rw [if_neg h, if_neg (mt Entry.meets_iff.2 h)]

/-- A source run for each entry a DATA record takes samples from, its bytes counted in the entry's block (R95). -/
theorem sourceRuns_eq (w : Width) (f stop : Nat) (list : List Entry) :
    sourceRuns w f stop list =
      (list.filter fun e => decide (e.first < stop ∧ f < e.first + e.kept * 2 ^ e.k)).map fun e =>
        let from_ := (max f e.first - e.first) / 2 ^ e.k
        let upto := (min stop (e.first + e.kept * 2 ^ e.k) - e.first) / 2 ^ e.k
        ⟨e.block, from_ * w.bytes, (upto - from_) * w.bytes⟩ := by
  have hmeets (e : Entry) : e.meets f stop = decide (e.first < stop ∧ f < e.first + e.kept * 2 ^ e.k) :=
    (Bool.decide_and ..).symm
  unfold sourceRuns
  simp only [hmeets]
  rfl

/-- Settles O40: each kind of record is the case of `cutOf` for it, the samples of a DATA record being those its entries
hold of [f, stop). -/
theorem recordsCarryTheirAccount : Obligations.RecordsCarryTheirAccount := by
  intro x c
  refine ⟨rfl, fun m rest hm => ?_, fun g => rfl, fun e g hg => ?_, fun stop k => ⟨?_, sourceRuns_eq ..⟩, rfl⟩
  · rw [Stream.cutOf, hm, List.tail_cons]
  · rw [Stream.cutOf, hg, gapCauses]
  · rw [Stream.cutOf, cutList_eq]

end Sys2Proof.Machine
end
section
/-! SUPPORT. What a cut does: the placement request served from the current window, or not at all, and the entry the cut
claims for its record (R83, R104, R111, R113). -/

namespace Sys2Proof.Machine

/-! ### The evaluation of the low state (R119) -/

theorem evalLow_place (s : State) : s.evalLow.place = { s.place with low := s.belowThreshold } := by
  rw [evalLow_eq s _ rfl]; split <;> rfl

@[simp] theorem evalLow_mem (s : State) : s.evalLow.mem = s.mem := by
  rw [evalLow_eq s _ rfl]; split <;> rfl

@[simp] theorem evalLow_ctl (s : State) : s.evalLow.ctl = s.ctl := by
  rw [evalLow_eq s _ rfl]; split <;> rfl

/-- An evaluation raises WINDOW_LOW alone. -/
theorem evalLow_windowEmpty (s : State) :
    s.evalLow.notices.device.windowEmpty = s.notices.device.windowEmpty := by
  rw [evalLow_eq s _ rfl]
  split
  · exact (Notices.raiseDevice_get s.notices .windowLow .windowEmpty).trans (if_neg nofun)
  · rfl

/-! ### A placement request without a misfit retirement (R111, R113) -/

theorem serveWindow_of_fits {size : Nat} {w : Window} (hroom : size ≤ w.remainder) (rest : List Window) :
    serveWindow size (w :: rest) = some (w.start + w.next,
      if w.remainder = size then rest else { w with next := w.next + size } :: rest) := by
  rw [serveWindow, if_neg (Nat.not_lt.2 hroom)]
  split <;> rfl

/-- A request that retires no window abandons no byte, the count within its 48 bits (R112). -/
theorem place_of_no_misfit {s : State} {size : Nat} (h : retireMisfit size s.place.windows = (s.place.windows, 0))
    (hab : s.place.abandoned < 2 ^ 48) :
    (s.modPlace fun p => { p with
      windows := (retireMisfit size s.place.windows).1,
      abandoned := satAdd 281474976710655 p.abandoned (retireMisfit size s.place.windows).2 }) = s := by
  have habandoned : satAdd 281474976710655 s.place.abandoned 0 = s.place.abandoned :=
    Nat.min_eq_right (Nat.le_of_lt_succ hab)
  rw [h, State.modPlace, habandoned]

/-- A request that fits is served from the current window (R111). -/
theorem placeRequest_of_fits {s : State} {size : Nat} {w : Window} {rest : List Window}
    (hw : s.place.windows = w :: rest) (hroom : size ≤ w.remainder) (hab : s.place.abandoned < 2 ^ 48) :
    s.placeRequest size =
      ((s.modPlace fun p => { p with
        windows := if w.remainder = size then rest else { w with next := w.next + size } :: rest }).evalLow,
      some (w.start + w.next)) := by
  have hretire : retireMisfit size s.place.windows = (s.place.windows, 0) := by
    rw [hw, retireMisfit, if_neg (Nat.not_lt.2 hroom)]
  rw [State.placeRequest, place_of_no_misfit hretire hab, hretire, hw, serveWindow_of_fits hroom]

/-- A request with no window listed is not served: the device enters STARVED (R113). -/
theorem placeRequest_of_no_window {s : State} (hw : s.place.windows = []) (hstarved : s.place.starved = false)
    (hab : s.place.abandoned < 2 ^ 48) (size : Nat) :
    s.placeRequest size =
      (((s.modPlace fun p => { p with starved := true }).raiseDev .windowEmpty).evalLow, none) := by
  have hretire : retireMisfit size s.place.windows = (s.place.windows, 0) := by rw [hw, retireMisfit]
  rw [State.placeRequest, place_of_no_misfit hretire hab, hretire, hw, serveWindow, hstarved]
  rfl

/-! ### The cut (R83, R103, R104) -/

theorem cut_of_not_tried {s : State}
    (h : 8 ≤ s.link.commit.length ∨ s.place.starved = true ∨ s.chooseStream = none) : s.cut = s := by
  unfold State.cut
  split
  · next htry =>
    obtain ⟨hroom, hstarved⟩ := htry
    obtain hfull | hstarved' | hnone := h
    · exact absurd hroom (Nat.not_lt.2 hfull)
    · exact absurd hstarved' hstarved
    · rw [hnone]
  · rfl

theorem cut_of_chosen {s : State} {i : StreamId} {n : NextRecord} (hroom : s.link.commit.length < 8)
    (hstarved : s.place.starved = false) (hi : s.chooseStream = some i)
    (hn : (s.stream i).next s.powerFail = some n) : s.cut = s.cutRecord i n := by
  rw [State.cut, if_pos ⟨hroom, Bool.eq_false_iff.1 hstarved⟩, hi]
  dsimp only
  rw [hn]

/-- A record with no space left changes nothing of its stream (R104). -/
theorem cutRecord_of_no_space {s t : State} {i : StreamId} {n : NextRecord}
    (h : s.placeRequest ((s.stream i).cutOf n).body.size = (t, none)) : s.cutRecord i n = t := by
  rw [State.cutRecord, h]

/-- A record placed joins the commit list, its stream as the cut leaves it (R104). -/
theorem cutRecord_of_placed {s t : State} {i : StreamId} {n : NextRecord} {a : Nat}
    (h : s.placeRequest ((s.stream i).cutOf n).body.size = (t, some a)) :
    s.cutRecord i n =
      ((t.modLink fun l => { l with commit := l.commit ++ [((s.stream i).cutOf n).entry i a] }).setStream i
        ((s.stream i).cutOf n).afterCut).settle := by
  rw [State.cutRecord, h]
  rfl

/-- Settles O41: the request of the chosen stream's record is served from the current window, and its entry joins the
list, or it is not served. -/
theorem cutsClaimAnEntry : Obligations.CutsClaimAnEntry := by
  intro s
  refine ⟨fun h => congrArg Host.Outcome.next (cut_of_not_tried h), fun i n hroom hstarved hi hn hab => ?_⟩
  intro r
  have hcut : exec .cut s = .next (s.cutRecord i n) :=
    congrArg Host.Outcome.next (cut_of_chosen hroom hstarved hi hn)
  refine ⟨fun hw => ?_, fun w rest hw hfits => ?_⟩
  · have hrecord := cutRecord_of_no_space (i := i) (n := n) (placeRequest_of_no_window hw hstarved hab _)
    refine ⟨_, hcut.trans (congrArg Host.Outcome.next hrecord), by rw [evalLow_place]; rfl, evalLow_streams _,
      evalLow_link _, (evalLow_windowEmpty _).trans ?_⟩
    exact (Notices.raiseDevice_get s.notices .windowEmpty .windowEmpty).trans (if_pos rfl)
  · have hrecord := cutRecord_of_placed (i := i) (n := n) (placeRequest_of_fits hw hfits hab)
    have hplace (t : State) (f : Link → Link) (x : Stream) :
        ((t.evalLow.modLink f).setStream i x).settle.place = { t.place with low := t.belowThreshold } :=
      (settle_place _).trans (evalLow_place t)
    refine ⟨_, hcut.trans (congrArg Host.Outcome.next hrecord), by rw [hplace]; rfl, by rw [hplace]; rfl,
      by rw [hplace]; exact hstarved, ?_, fun j hj => ?_, ?_, ?_, ?_⟩
    · rw [settle_stream, State.setStream_stream_self]; rfl
    · rw [settle_stream, State.setStream_stream_other _ _ hj, State.modLink_stream]
      exact congrArg (·.get j) (evalLow_streams _)
    · exact (settle_mem _).trans (evalLow_mem _)
    · exact (settle_ctl _).trans (evalLow_ctl _)
    · rw [settle_commit, State.setStream_link, State.modLink_link, evalLow_link]
      rfl

end Sys2Proof.Machine
end
section
/-! SUPPORT. The bytes of a transfer that go out, the sends of WRITE and DURABLE_QUERY, and what RETRY and NARROW do to the
SENDING entry (R106, R122, R132, R135, R138, R148, R151). -/

namespace Sys2Proof.Machine

/-! ### The bytes that go out (R106, log 38) -/

section Bytes

variable {e : CommitEntry} {r : Replay}

theorem readOut_of_not_last (h : r.off + r.len ≠ e.size) : e.readOut r = r.bytes :=
  if_neg (mt of_decide_eq_true h)

/-- A last transfer goes out with the CRC over the bytes before its field laid in that field. -/
theorem readOut_of_last (h : r.off + r.len = e.size) :
    e.readOut r = r.bytes.take (r.len - 4) ++
      leBytes 4 (~~~ crc32Over e.xfer.crc (r.bytes.take (r.len - 4))).toNat :=
  if_pos (decide_eq_true h)

variable (hlast : r.off + r.len = e.size) (hlen : r.bytes.length = r.len) (hfour : 4 ≤ r.len)
include hlast hlen

theorem readOut_take : (e.readOut r).take (r.len - 4) = r.bytes.take (r.len - 4) := by
  rw [readOut_of_last hlast]
  exact List.take_left' (List.length_take_of_le (hlen ▸ Nat.sub_le ..))

theorem readOut_getD {q : Nat} (hq : q < r.len - 4) : (e.readOut r).getD q 0#8 = r.bytes.getD q 0#8 := by
  have hget : (e.readOut r)[q]? = r.bytes[q]? := by
    rw [← List.getElem?_take_of_lt hq, readOut_take hlast hlen, List.getElem?_take_of_lt hq]
  rw [List.getD_eq_getElem?_getD, List.getD_eq_getElem?_getD, hget]

theorem readOut_crc : slice (e.readOut r) (r.len - 4) 4 =
    leBytes 4 (~~~ crc32Over e.xfer.crc ((e.readOut r).take (r.len - 4))).toNat := by
  rw [readOut_take hlast hlen, readOut_of_last hlast]
  have hfront : (r.bytes.take (r.len - 4)).length = r.len - 4 := List.length_take_of_le (hlen ▸ Nat.sub_le ..)
  rw [slice, List.drop_left' hfront]
  exact List.take_of_length_le (leBytes_length ..).le

include hfour in
theorem readOut_length : (e.readOut r).length = r.len := by
  rw [readOut_of_last hlast, List.length_append, leBytes_length, List.length_take_of_le (hlen ▸ Nat.sub_le ..),
    Nat.sub_add_cancel hfour]

end Bytes

/-! ### The sends (R122, R132, R148) -/

theorem mayWrite_iff {l : Link} :
    l.mayWrite = true ↔ l.state = .up ∧ l.outstanding = none ∧ l.sync.phase ≠ .queryDue := by
  simp [Link.mayWrite, isUp_iff, and_assoc]

/-- No WRITE is tried unless it may be sent and a whole transfer of the SENDING entry is in the buffer. -/
theorem trySend_of_not_due {s : State}
    (h : s.link.mayWrite = false ∨ s.link.sending = none ∨ s.link.replay = none ∨
      ∀ r, s.link.replay = some r → r.ready = false) : s.trySend = s := by
  obtain hs | ⟨e, r, hmay, he, hr, hready, -⟩ := trySend_cases s
  · exact hs
  · obtain h | h | h | h := h
    · exact nomatch h.symm.trans hmay
    · exact nomatch h.symm.trans he
    · exact nomatch h.symm.trans hr
    · exact nomatch (h r hr).symm.trans hready

/-- A whole and clean transfer goes out when a WRITE may be sent. -/
theorem trySend_of_clean {s : State} {e : CommitEntry} {r : Replay} (hmay : s.link.mayWrite = true)
    (he : s.link.sending = some e) (hr : s.link.replay = some r) (hready : r.ready = true) (hclean : r.badRanges = []) :
    s.trySend = s.modLink fun l => { l with outstanding := some (.write (e.addr.getD 0 + r.off) (e.readOut r)) } := by
  simp [State.trySend, State.sendIfClean, hmay, he, hr, hready, hclean]

theorem durableQuerySend_eq (s : State) :
    s.durableQuerySend =
      if s.link.state = .up ∧ s.link.outstanding = none ∧ s.link.sync.phase = .queryDue then
        s.modLink fun l => { l with outstanding := some .durableQuery, sync := { l.sync with phase := .queryOut } }
      else s := by
  simp [State.durableQuerySend, isUp_iff, and_assoc]

/-- A RETRY or NARROW is taken when the link is UP and a WRITE outstanding (R135, R138). -/
theorem writeAnswer_iff {l : Link} : (l.isUp && l.writeOut) = true ↔ l.state = .up ∧ l.writeOut = true := by
  rw [Bool.and_eq_true, isUp_iff]

/-! ### The SENDING entry changed, or its placement failed -/

theorem modSending_eq {l : Link} {e : CommitEntry} (h : l.sending = some e) (f : CommitEntry → CommitEntry) :
    l.modSending f = l.modSending fun _ => f e := by
  obtain ⟨hse, before, after, hl, hb⟩ := List.find?_eq_some_iff_append.1 h
  have hb' : ∀ f ∈ before, f.isSending = false := fun f hf => by simpa using hb f hf
  rw [Link.modSending, Link.modSending, hl, modifyFirst_at hse hb', modifyFirst_at hse hb']

/-- The failure of the SENDING entry gives up its buffer and the drain read granted for it (R19, R116, R151, R153). -/
theorem failEntry_of_sending (s : State) (p : CommitEntry → Bool) {e : CommitEntry} {a : Nat} (hst : e.st = .sending)
    (haddr : e.addr = some a) (cause : FailCause) (code : Option Byte) :
    s.failEntry p e cause code = s.afterFailure p e a cause code := by
  have hport : s.port.orphanDrain = { s.port with granted := match s.port.granted with
      | some (.drain b n q _) => some (.drain b n q false)
      | g => g } := by
    obtain ⟨granted, rot, lastReader⟩ := s.port
    cases granted with
    | none => rfl
    | some access => cases access <;> rfl
  simp only [State.failEntry, State.afterFailure, hst, if_true, haddr, State.modLink_port, hport]
  by_cases hp : e.placements < 3
  · rw [if_pos hp, if_pos hp]
    rfl
  · rw [if_neg hp, if_neg hp]
    rfl

/-! ### RETRY and NARROW (R135, R138) -/

section Answers

variable {s : State} {e : CommitEntry} {r : Replay}

/-- The entry in a WRITE sent again, a RETRY more on its count (R135). -/
def CommitEntry.retried (e : CommitEntry) : CommitEntry := { e with xfer := { e.xfer with retry := e.xfer.retry + 1 } }

theorem writeAnswer_ignored (h : s.link.state ≠ .up ∨ s.link.writeOut = false) :
    s.retry [] = s ∧ s.narrow = s := by
  have hno : ¬ (s.link.isUp && s.link.writeOut) = true := fun hanswer => by
    obtain ⟨hup, hout⟩ := writeAnswer_iff.1 hanswer
    exact h.elim (· hup) fun h => nomatch h.symm.trans hout
  exact ⟨if_neg hno, if_neg hno⟩

variable (hup : s.link.state = .up) (hout : s.link.writeOut = true) (he : s.link.sending = some e)
include hup hout he

/-- A RETRY that is not the fifth in a row frees the slot, and the transfer is tried again at once (R135, log 25). -/
theorem retry_of_below (hretry : e.xfer.retry < 4) :
    s.retry [] = ((s.modLink Link.freeSlot).modLink fun l => l.modSending CommitEntry.retried).trySend := by
  rw [State.retry, if_pos (writeAnswer_iff.2 ⟨hup, hout⟩), he]
  exact if_pos hretry

theorem retry_of_fifth (hretry : 4 ≤ e.xfer.retry) :
    s.retry [] = ((s.modLink Link.freeSlot).failEntry CommitEntry.isSending e .retryLimit none).settle := by
  rw [State.retry, if_pos (writeAnswer_iff.2 ⟨hup, hout⟩), he]
  exact if_neg (Nat.not_lt.2 hretry)

/-- The same WRITE goes out again: neither the address nor the bytes depend on the count of RETRY (R135). -/
theorem retry_sends (hretry : e.xfer.retry < 4) (hr : s.link.replay = some r) (hready : r.ready = true)
    (hclean : r.badRanges = []) (hquery : s.link.sync.phase ≠ .queryDue) :
    s.retry [] = s.modLink fun l => { l with
      outstanding := some (.write (e.addr.getD 0 + r.off) (e.readOut r)),
      commit := modifyFirst CommitEntry.isSending CommitEntry.retried l.commit } := by
  have hsending : (s.link.freeSlot.modSending CommitEntry.retried).sending = some e.retried := by
    have he : s.link.freeSlot.sending = some e := he
    rw [modSending_eq he]
    exact modSending_sending he (sending_isSending (e := e) he)
  have hmay : (s.link.freeSlot.modSending CommitEntry.retried).mayWrite = true := mayWrite_iff.2 ⟨hup, rfl, hquery⟩
  rw [retry_of_below hup hout he hretry]
  exact trySend_of_clean (e := e.retried) hmay hsending hr hready hclean

theorem narrow_of_wide (hr : s.link.replay = some r) (hlen : r.len = 4096) :
    s.narrow = ((s.modLink Link.freeSlot).modLink fun l =>
      { (l.modSending fun f => { f with xfer := { f.xfer with narrow := true, retry := 0 } }) with
        replay := none }).settle := by
  rw [State.narrow, if_pos (writeAnswer_iff.2 ⟨hup, hout⟩), he, hr]
  exact if_pos hlen

theorem narrow_of_short (hr : s.link.replay = some r) (hlen : r.len ≠ 4096) :
    s.narrow = ((s.modLink Link.freeSlot).failEntry CommitEntry.isSending e .narrowLimit none).settle := by
  rw [State.narrow, if_pos (writeAnswer_iff.2 ⟨hup, hout⟩), he, hr]
  exact if_neg hlen

end Answers

/-- Settles O46: the bytes read out, the send that is due or not, and the answers of the archive to a WRITE, by whether the
link is UP, the slot free, and the count of RETRY or the length of the transfer at its limit. -/
theorem sendsAndResends : Obligations.SendsAndResends := by
  refine ⟨fun e r => ⟨readOut_of_not_last, fun hlast hlen hfour => ⟨readOut_length hlast hlen hfour,
    fun q => readOut_getD hlast hlen, readOut_crc hlast hlen⟩⟩, fun s => ?_, fun s => ?_⟩
  · intro idle
    have hidle (h : idle) : ¬ (s.link.state = .up ∧ s.link.outstanding = none) := fun ⟨hup, hfree⟩ =>
      h.elim (· hup) (· hfree)
    have hbusy (h : ¬ idle) : s.link.state = .up ∧ s.link.outstanding = none := by
      obtain ⟨hup, hfree⟩ := not_or.1 h
      exact ⟨not_not.1 hup, not_not.1 hfree⟩
    refine ⟨fun h => congrArg Host.Outcome.next (trySend_of_not_due ?_), fun e r hb hquery he hr hready hclean => ?_,
      fun h => congrArg Host.Outcome.next ((durableQuerySend_eq s).trans (if_neg ?_)), fun hb hquery => ?_⟩
    · obtain h | h | h := h
      · exact .inl (Bool.eq_false_iff.2 fun hmay => hidle h (by
          obtain ⟨hup, hfree, -⟩ := mayWrite_iff.1 hmay
          exact ⟨hup, hfree⟩))
      · exact .inl (Bool.eq_false_iff.2 fun hmay => by
          obtain ⟨-, -, hquery⟩ := mayWrite_iff.1 hmay
          exact hquery h)
      · exact .inr h
    · obtain ⟨hup, hfree⟩ := hbusy hb
      exact congrArg Host.Outcome.next (trySend_of_clean (mayWrite_iff.2 ⟨hup, hfree, hquery⟩) he hr hready hclean)
    · rintro ⟨hup, hfree, hquery⟩
      exact h.elim (fun h => hidle h ⟨hup, hfree⟩) (· hquery)
    · obtain ⟨hup, hfree⟩ := hbusy hb
      exact congrArg Host.Outcome.next ((durableQuerySend_eq s).trans (if_pos ⟨hup, hfree, hquery⟩))
  · refine ⟨fun h => ?_, fun e r a hup hout he hr haddr => ?_⟩
    · obtain ⟨hretry, hnarrow⟩ := writeAnswer_ignored h
      exact ⟨congrArg Host.Outcome.next hretry, congrArg Host.Outcome.next hnarrow⟩
    · have hst : e.st = .sending := of_decide_eq_true (sending_isSending he)
      intro free
      refine ⟨fun hretry hready hclean hquery => ?_, fun hretry => ?_, fun hlen => ?_, fun hlen => ?_⟩
      · have hsent := retry_sends hup hout he hretry hr hready hclean hquery
        rw [haddr] at hsent
        exact congrArg Host.Outcome.next hsent
      · rw [← failEntry_of_sending free _ hst haddr]
        exact congrArg Host.Outcome.next (retry_of_fifth hup hout he hretry)
      · exact congrArg Host.Outcome.next (narrow_of_wide hup hout he hr hlen)
      · rw [← failEntry_of_sending free _ hst haddr]
        exact congrArg Host.Outcome.next (narrow_of_short hup hout he hr hlen)

end Sys2Proof.Machine
end
section
/-! SUPPORT. WINDOW_GRANT, placement requests with a misfit retirement, the end of a gate, and the re-placement of a
FAILED entry (R109 to R114, R118, R119, R152, section 11.3). -/

namespace Sys2Proof.Machine

/-! ### Placement requests, by the windows that a misfit retirement leaves (R111 to R113) -/

section Retire

variable {size : Nat} {w : Window} {ws rest : List Window} (hw : ws = w :: rest)
include hw

theorem retireMisfit_of_fits (h : size ≤ w.remainder) : retireMisfit size ws = (w :: rest, 0) := by
  rw [hw, retireMisfit, if_neg (Nat.not_lt.2 h)]

theorem retireMisfit_of_small (h : w.remainder < size) : retireMisfit size ws = (rest, w.remainder) := by
  rw [hw, retireMisfit, if_pos h]

end Retire

theorem retireMisfit_of_nil {size : Nat} {ws : List Window} (hw : ws = []) : retireMisfit size ws = ([], 0) := by
  rw [hw, retireMisfit]

/-- A request is served from the window that is the current one after the retirement, which abandons `n` bytes. -/
theorem placeRequest_served {s : State} {size n : Nat} {w : Window} {rest : List Window}
    (hretire : retireMisfit size s.place.windows = (w :: rest, n)) (hroom : size ≤ w.remainder) :
    s.placeRequest size =
      ((s.modPlace fun p => { p with
        abandoned := satAdd 281474976710655 p.abandoned n,
        windows := if w.remainder = size then rest else { w with next := w.next + size } :: rest }).evalLow,
      some (w.start + w.next)) := by
  rw [State.placeRequest, hretire, serveWindow_of_fits hroom]
  rfl

/-- A request that finds no window after the retirement leaves the device STARVED, and raises WINDOW_EMPTY if it was
not. -/
theorem placeRequest_unserved {s : State} {size n : Nat} (hretire : retireMisfit size s.place.windows = ([], n)) :
    s.placeRequest size =
      let t := s.modPlace fun p => { p with
        abandoned := satAdd 281474976710655 p.abandoned n, windows := [], starved := true }
      ((if s.place.starved then t else t.raiseDev .windowEmpty).evalLow, none) := by
  rw [State.placeRequest, hretire]
  rfl

theorem satAdd_zero {max n : Nat} (h : n ≤ max) : satAdd max n 0 = n := Nat.min_eq_right h

/-- The end of a gate latches the rate counter and evaluates the low state (R118, R119). -/
theorem gateEnd_eq (s : State) :
    let low := decide (s.place.remaining < threshold s.place.rateCounter s.ctl.timing.lead)
    let t : State := { s with place := { s.place with
      latchedRate := s.place.rateCounter, rateCounter := 0, low := low } }
    s.gateEnd = if low = true ∧ s.place.low = false then t.raiseDev .windowLow else t :=
  evalLow_eq _ _ rfl

/-- Settles O42: the request by the window that is current after the retirement, the gate by the evaluation of the low
state. -/
theorem placementAndRate : Obligations.PlacementAndRate := by
  refine ⟨fun size s => ?_, fun s => congrArg Host.Outcome.next (gateEnd_eq s)⟩
  intro served empty plus hab
  have hzero : satAdd 281474976710655 s.place.abandoned 0 = s.place.abandoned := satAdd_zero (Nat.le_of_lt_succ hab)
  refine ⟨fun w rest hw hfits => ?_, fun w v rest hw hsmall hfits => ?_, fun w hw hsmall => ?_, fun hw => ?_⟩
  · rw [placeRequest_served (retireMisfit_of_fits hw hfits) hfits, State.modPlace, hzero]
    rfl
  · exact placeRequest_served (retireMisfit_of_small hw hsmall) hfits
  · exact placeRequest_unserved (retireMisfit_of_small hw hsmall)
  · rw [placeRequest_unserved (retireMisfit_of_nil hw), State.modPlace, hzero]

/-! ### The re-placement (R114, R152) -/

theorem isFailed_iff {e : CommitEntry} : e.isFailed = true ↔ e.st = .failed := beq_iff_eq

theorem rePlace_of_idle {s : State} (h : s.place.starved = true ∨ ∀ e ∈ s.link.commit, e.st ≠ .failed) :
    s.rePlace = s := by
  unfold State.rePlace
  split
  · rfl
  · next hstarved =>
    have hnone : s.link.firstFailed = none :=
      List.find?_eq_none.2 fun e he hf => h.resolve_left hstarved e he (isFailed_iff.1 hf)
    rw [hnone]

/-- A re-placement whose request is not served leaves the entry FAILED. -/
theorem rePlace_of_no_space {s t : State} {e : CommitEntry} (hstarved : s.place.starved = false)
    (he : s.link.firstFailed = some e) (h : s.placeRequest e.size = (t, none)) : s.rePlace = t := by
  rw [State.rePlace, hstarved, he]
  dsimp only
  rw [h]
  rfl

theorem rePlace_of_placed {s t : State} {e : CommitEntry} {a : Nat} (hstarved : s.place.starved = false)
    (he : s.link.firstFailed = some e) (h : s.placeRequest e.size = (t, some a)) :
    s.rePlace = (t.modLink fun l => { l with
      commit := modifyFirst CommitEntry.isFailed (CommitEntry.replacedAt a) l.commit }).settle := by
  rw [State.rePlace, hstarved, he]
  dsimp only
  rw [h]
  rfl

/-- Settles O43: the earliest FAILED entry's request is served from the current window, or the device enters STARVED. -/
theorem rePlacementMovesTheEntry : Obligations.RePlacementMovesTheEntry := by
  intro s
  refine ⟨fun h => congrArg Host.Outcome.next (rePlace_of_idle h),
    fun before e after w rest hstarved hlist he hbefore hw hfits => ?_, fun e hstarved hmem he hw => ?_⟩
  · have hfailed : e.isFailed = true := isFailed_iff.2 he
    have hothers : ∀ f ∈ before, f.isFailed = false := fun f hf =>
      Bool.eq_false_iff.2 (mt isFailed_iff.1 (hbefore f hf))
    have hfirst : s.link.firstFailed = some e := by rw [Link.firstFailed, hlist, find?_at hfailed hothers]
    have hmoved := rePlace_of_placed hstarved hfirst (placeRequest_served (retireMisfit_of_fits hw hfits) hfits)
    refine ⟨_, congrArg Host.Outcome.next hmoved, ?_, ?_, ?_, ?_, ?_⟩
    · rw [settle_streams, State.modLink_streams, evalLow_streams]; rfl
    · rw [settle_mem, State.modLink_mem, evalLow_mem]; rfl
    · rw [settle_ctl, State.modLink_ctl, evalLow_ctl]; rfl
    · rw [settle_place, State.modLink_place, evalLow_place]; rfl
    · rw [settle_commit, State.modLink_link, evalLow_link, State.modPlace_link, hlist, modifyFirst_at hfailed hothers]
      rfl
  · obtain ⟨f, hfirst⟩ : ∃ f, s.link.firstFailed = some f :=
      Option.isSome_iff_exists.1 (List.find?_isSome.2 ⟨e, hmem, isFailed_iff.2 he⟩)
    have hstays := rePlace_of_no_space hstarved hfirst (placeRequest_unserved (retireMisfit_of_nil hw))
    rw [hstarved] at hstays
    refine ⟨_, congrArg Host.Outcome.next hstays, ?_, ?_, ?_, (evalLow_windowEmpty _).trans ?_⟩
    · rw [evalLow_place]; rfl
    · rw [evalLow_link]; rfl
    · rw [evalLow_streams]; rfl
    · exact (Notices.raiseDevice_get s.notices .windowEmpty .windowEmpty).trans (if_pos rfl)

/-! ### WINDOW_GRANT (R109, R110, section 11.3) -/

/-- WINDOW_GRANT's body field by field. -/
def grantParts (start length : BitVec 48) : List (List Byte) :=
  [fieldBytes 6 start, zeros 2, fieldBytes 6 length, zeros 2]

theorem decodeFrame_windowGrant (tag : Byte) (start length : BitVec 48) :
    decodeFrame (requestFrame tag (.windowGrant start length)) = .request (.windowGrant start length) := by
  let body := (grantParts start length).flatten
  have hbody : requestFrame tag (.windowGrant start length) = ⟨kindWindowGrant, tag, body⟩ := by
    simp [requestFrame, requestKind, requestBody, body, grantParts]
  have hlen : body.length = 16 := rfl
  have hstart : fieldAt 48 body 0 6 = start := fieldAt_flatten 0 rfl rfl (by decide)
  have hlength : fieldAt 48 body 8 6 = length := fieldAt_flatten 2 rfl rfl (by decide)
  rw [hbody]
  change (if body.length = 16 then
    Decoded.request (.windowGrant (fieldAt 48 body 0 6) (fieldAt 48 body 8 6)) else .badLength) = _
  rw [if_pos hlen, hstart, hlength]

theorem exec_windowGrant {s : State} (h : s.takesAtOnce) (tag : Byte) (start length : BitVec 48) :
    exec (.windowGrant tag start length) s = .next ((s.takeFrame []).windowGrant tag start length) :=
  congrArg Host.Outcome.next (submit_request h (decodeFrame_windowGrant tag start length))

theorem grantInRange_iff {start length : Nat} : grantInRange start length = true ↔
    start % 512 = 0 ∧ length % 512 = 0 ∧ 33554432 ≤ length ∧ start + length ≤ 2 ^ 48 := by
  simp [grantInRange, and_assoc]

/-- A grant overlaps a listed window or the range of an entry when it shares a byte with one (R109 order 4). -/
theorem grantOverlaps_iff {s : State} {start length : Nat} : s.grantOverlaps start length = true ↔
    (∃ w ∈ s.place.windows, ∃ a, start ≤ a ∧ a < start + length ∧ w.start ≤ a ∧ a < w.start + w.length) ∨
      ∃ e ∈ s.link.commit, ∃ b, e.addr = some b ∧ ∃ a, start ≤ a ∧ a < start + length ∧ b ≤ a ∧ a < b + e.size := by
  have hmeets (e : CommitEntry) : e.meets start length = true ↔
      ∃ b, e.addr = some b ∧ rangesMeet b e.size start length = true := by
    rw [CommitEntry.meets]
    cases e.addr <;> simp
  rw [State.grantOverlaps, Bool.or_eq_true, List.any_eq_true, List.any_eq_true]
  simp only [hmeets, rangesMeet_comm _ _ start length, rangesMeet_iff]

/-- A window joined to the tail adds its length to the remaining bytes (R118). -/
theorem remaining_append {p q : Placement} {start length : Nat}
    (h : q.windows = p.windows ++ [⟨start, length, 0⟩]) : q.remaining = p.remaining + length := by
  rw [Placement.remaining, h, Placement.remaining]
  cases p.windows with
  | nil => simp [Window.remainder]
  | cons w rest => simp [Nat.add_assoc]

/-- The slot of the remaining bytes shows them, or the free value where 6 bytes do not hold them (R120, log 33). -/
theorem slotRemaining_eq (n : Nat) :
    slotRemaining n = leBytes 6 (if n < 2 ^ 48 then n else (Config.remainingField n).toNat) ++ zeros 2 := by
  rw [slotRemaining]
  split <;> rfl

/-- An accepted grant with its evaluation of the low state (R110, R119). -/
theorem addWindow_eq (s : State) (start length : Nat) :
    let low := decide (s.place.remaining + length < threshold s.place.latchedRate s.ctl.timing.lead)
    let t : State := { s with place := { s.place with
      windows := s.place.windows ++ [⟨start, length, 0⟩], starved := false, low := low } }
    s.addWindow start length = if low = true ∧ s.place.low = false then t.raiseDev .windowLow else t := by
  refine evalLow_eq _ _ ?_
  rw [State.belowThreshold, remaining_append (p := s.place) rfl]
  rfl

theorem windowGrant_accepted {s : State} {start length : BitVec 48} (hrange : grantInRange start.toNat length.toNat)
    (hfree : s.grantOverlaps start.toNat length.toNat = false) (hroom : s.place.windows.length < 16) (tag : Byte) :
    s.windowGrant tag start length = (s.addWindow start.toNat length.toNat).reply kindWindowGrant tag .ok
      ([BitVec.ofNat 8 (s.place.windows.length + 1), 0#8, 0#8, 0#8] ++
        slotRemaining (s.place.remaining + length.toNat)) := by
  have hwindows : (s.addWindow start.toNat length.toNat).place.windows =
      s.place.windows ++ [⟨start.toNat, length.toNat, 0⟩] := by
    rw [State.addWindow, evalLow_place]; rfl
  rw [State.windowGrant, hrange, hfree, ← remaining_append hwindows]
  refine (if_neg (Nat.not_le.2 hroom)).trans ?_
  rw [hwindows, List.length_append]
  rfl

/-- Settles O13: the refusals in the order of R109, and the window joined to the tail with its evaluation. -/
theorem windowGrantRules : Obligations.WindowGrantRules := by
  intro tag start length s h inRange taken
  have hrange : grantInRange start.toNat length.toNat = true ↔ inRange := grantInRange_iff
  have htaken : (s.takeFrame []).grantOverlaps start.toNat length.toNat = true ↔ taken := grantOverlaps_iff
  rw [exec_windowGrant h]
  refine ⟨fun hout => ?_, fun hin hover => ?_, fun hin hfree hfull => ?_, fun hin hfree hroom => ?_⟩
  · rw [State.windowGrant, Bool.eq_false_iff.2 (mt hrange.1 hout)]
    exact refuse_at_once h kindWindowGrant tag .range
  · rw [State.windowGrant, hrange.2 hin, htaken.2 hover]
    exact refuse_at_once h kindWindowGrant tag .overlap
  · rw [State.windowGrant, hrange.2 hin, Bool.eq_false_iff.2 (mt htaken.1 hfree)]
    refine (congrArg Host.Outcome.next (if_pos hfull)).trans ?_
    exact refuse_at_once h kindWindowGrant tag .full
  · intro left low t shown
    have hgranted : ({ (s.takeFrame []).addWindow start.toNat length.toNat with ctl := s.ctl } : State) =
        if low = true ∧ s.place.low = false then t.raiseDev .windowLow else t := by
      rw [addWindow_eq]
      by_cases hfall : low = true ∧ s.place.low = false
      · rw [if_pos hfall]
        exact congrArg (fun u : State => { u with ctl := s.ctl }) (if_pos hfall)
      · rw [if_neg hfall]
        exact congrArg (fun u : State => { u with ctl := s.ctl }) (if_neg hfall)
    have hctl : ((s.takeFrame []).addWindow start.toNat length.toNat).ctl = (s.takeFrame []).ctl := evalLow_ctl _
    rw [windowGrant_accepted (s := s.takeFrame []) (hrange.2 hin) (Bool.eq_false_iff.2 (mt htaken.1 hfree)) hroom,
      reply_of_taken h hctl, hgranted, slotRemaining_eq, ← List.append_assoc]
    rfl

end Sys2Proof.Machine
end
section
/-! SUPPORT. Windows and the archive ranges of entries: space is handed out once, every operation keeps the ranges of
entries apart from one another and from the space still to be handed out, and every step keeps the law (R108, R109,
R111, R112, R117, R152). -/

namespace Sys2Proof.Machine

-- Each proof is checked before the next begins: many at once would take a thread's stack each.
set_option Elab.async false

/-! ### The space of the windows and the ranges taken from it (R108, R117) -/

/-- An entry's archive range: its address and its size, none without an address. -/
def CommitEntry.range (e : CommitEntry) : Option (Nat × Nat) := e.addr.map fun a => (a, e.size)

/-- An entry is without an address exactly when it is FAILED or STUCK. -/
def CommitEntry.addressed (e : CommitEntry) : Prop := e.addr = none ↔ (e.st = .failed ∨ e.st = .stuck)

/-- The archive ranges of a commit list, in its order. -/
def heldRanges (list : List CommitEntry) : List (Nat × Nat) := list.filterMap CommitEntry.range

theorem heldRanges_cons (e : CommitEntry) (list : List CommitEntry) :
    heldRanges (e :: list) = e.range.toList ++ heldRanges list := by
  rw [heldRanges, List.filterMap_cons]
  cases e.range <;> rfl

theorem heldRanges_append (l m : List CommitEntry) : heldRanges (l ++ m) = heldRanges l ++ heldRanges m :=
  List.filterMap_append

/-- Two archive ranges, each an address and a size, share no byte. -/
def Apart (p q : Nat × Nat) : Prop := rangesMeet p.1 p.2 q.1 q.2 = false

/-- The part of a window still to be handed out (R108). -/
def Window.unused (w : Window) : Nat × Nat := (w.start + w.next, w.remainder)

/-- The windows `ws` lie apart, the ranges `rs` lie apart, and no range meets space still to be handed out. -/
structure SpaceLaw (ws : List Window) (rs : List (Nat × Nat)) : Prop where
  fits : ∀ w ∈ ws, w.next ≤ w.length
  windows : ws.Pairwise fun v w => Apart (v.start, v.length) (w.start, w.length)
  ranges : rs.Pairwise Apart
  unused : ∀ r ∈ rs, ∀ w ∈ ws, Apart r w.unused

theorem Apart.symm {p q : Nat × Nat} (h : Apart p q) : Apart q p := (rangesMeet_comm ..).trans h

/-- What lies apart from a range lies apart from a part of it. -/
theorem Apart.part {p q : Nat × Nat} (h : Apart p q) {a n : Nat} (ha : q.1 ≤ a) (hn : a + n ≤ q.1 + q.2) :
    Apart p (a, n) := rangesMeet_part h ha hn

theorem apart_of_le {p q : Nat × Nat} (h : p.1 + p.2 ≤ q.1) : Apart p q := by
  rw [Apart, rangesMeet, decide_eq_false_iff_not]
  omega

theorem meets_eq_false_iff {e : CommitEntry} {a n : Nat} :
    e.meets a n = false ↔ ∀ r, e.range = some r → Apart r (a, n) := by
  rw [CommitEntry.meets, CommitEntry.range]
  cases e.addr with
  | none => exact ⟨fun _ => nofun, fun _ => rfl⟩
  | some b => exact ⟨fun h r hr => Option.some.inj hr ▸ h, fun h => h _ rfl⟩

theorem range_eq_some_iff {e : CommitEntry} {r : Nat × Nat} : e.range = some r ↔ e.addr = some r.1 ∧ e.size = r.2 := by
  rw [CommitEntry.range, Option.map_eq_some_iff]
  exact ⟨fun ⟨a, ha, hr⟩ => hr ▸ ⟨ha, rfl⟩, fun ⟨ha, hs⟩ => ⟨r.1, ha, Prod.ext rfl hs⟩⟩

/-- The law of placement speaks of the windows and of the archive ranges of the entries. -/
theorem placementLaw_iff {s : State} : PlacementLaw s ↔
    (∀ e ∈ s.link.commit, e.addressed) ∧ SpaceLaw s.place.windows (heldRanges s.link.commit) := by
  have hentries : (s.link.commit.Pairwise fun e f => ∀ a, f.addr = some a → e.meets a f.size = false) ↔
      (heldRanges s.link.commit).Pairwise Apart := by
    refine Iff.trans (List.Pairwise.iff fun {e f} => ?_) List.pairwise_filterMap.symm
    simp only [meets_eq_false_iff]
    refine ⟨fun h r hr q hq => ?_, fun h a ha r hr => h r hr (a, f.size) (range_eq_some_iff.2 ⟨ha, rfl⟩)⟩
    obtain ⟨ha, hs⟩ := range_eq_some_iff.1 hq
    have hap := h q.1 ha r hr
    rwa [hs] at hap
  have hunused : (∀ e ∈ s.link.commit, ∀ w ∈ s.place.windows, e.meets (w.start + w.next) w.remainder = false) ↔
      ∀ r ∈ heldRanges s.link.commit, ∀ w ∈ s.place.windows, Apart r w.unused := by
    simp only [meets_eq_false_iff, heldRanges, List.mem_filterMap]
    exact ⟨fun h r ⟨e, he, hr⟩ w hw => h e he w hw r hr, fun h e he w hw r hr => h r ⟨e, he, hr⟩ w hw⟩
  exact ⟨fun ⟨h1, h2, h3, h4, h5⟩ => ⟨h3, h1, h2, hentries.1 h4, hunused.1 h5⟩,
    fun ⟨h3, h1, h2, h4, h5⟩ => ⟨h1, h2, h3, hentries.2 h4, hunused.2 h5⟩⟩

namespace SpaceLaw

variable {ws vs : List Window} {rs qs : List (Nat × Nat)}

/-- Windows retired and ranges given up leave the others apart. -/
theorem sublist (h : SpaceLaw ws rs) (hw : vs.Sublist ws) (hr : qs.Sublist rs) : SpaceLaw vs qs where
  fits w hv := h.fits w (hw.mem hv)
  windows := h.windows.sublist hw
  ranges := h.ranges.sublist hr
  unused r hq w hv := h.unused r (hr.mem hq) w (hw.mem hv)

theorem perm (h : SpaceLaw ws rs) (hr : rs.Perm qs) : SpaceLaw ws qs where
  fits := h.fits
  windows := h.windows
  ranges := (hr.pairwise_iff Apart.symm).1 h.ranges
  unused r hq := h.unused r (hr.mem_iff.2 hq)

/-- A range served from the current window is taken out of its unused part, which met no other range (R111). -/
theorem serve (h : SpaceLaw ws rs) {size a : Nat} (hs : serveWindow size ws = some (a, vs)) :
    SpaceLaw vs ((a, size) :: rs) := by
  obtain ⟨w, rest, rfl, hroom, rfl, hvs⟩ := serveWindow_some hs
  obtain ⟨hfits, hrest⟩ := List.forall_mem_cons.1 h.fits
  obtain ⟨hwindow, hwindows⟩ := List.pairwise_cons.1 h.windows
  have hsize : w.next + size ≤ w.length := by rw [Window.remainder] at hroom; omega
  have hranges : ((w.start + w.next, size) :: rs).Pairwise Apart :=
    List.pairwise_cons.2 ⟨fun r hr =>
      Apart.symm ((h.unused r hr w List.mem_cons_self).part le_rfl (Nat.add_le_add_left hroom _)), h.ranges⟩
  have hothers : ∀ r ∈ (w.start + w.next, size) :: rs, ∀ v ∈ rest, Apart r v.unused := by
    refine List.forall_mem_cons.2 ⟨fun v hv => ?_, fun r hr v hv => h.unused r hr v (List.mem_cons_of_mem _ hv)⟩
    have hv' := hrest v hv
    have hpart : Apart (w.start, w.length) v.unused :=
      (hwindow v hv).part (Nat.le_add_right ..) (by rw [Window.remainder]; dsimp only; omega)
    exact Apart.symm (hpart.symm.part (Nat.le_add_right ..) (by dsimp only; omega))
  obtain ⟨rfl, -⟩ | ⟨rfl, hlt⟩ := hvs
  · exact ⟨hrest, hwindows, hranges, hothers⟩
  · refine ⟨List.forall_mem_cons.2 ⟨hsize, hrest⟩, List.pairwise_cons.2 ⟨hwindow, hwindows⟩, hranges,
      fun r hr => List.forall_mem_cons.2 ⟨?_, hothers r hr⟩⟩
    obtain rfl | hr := List.mem_cons.1 hr
    · exact apart_of_le (Nat.add_assoc ..).le
    · refine (h.unused r hr w List.mem_cons_self).part ?_ ?_
      · dsimp only [Window.unused]; omega
      · dsimp only [Window.unused, Window.remainder]; omega

/-- A window granted apart from the listed ones and from every range is all unused (R109, R110). -/
theorem grant (h : SpaceLaw ws rs) {start length : Nat} (hws : ∀ w ∈ ws, Apart (w.start, w.length) (start, length))
    (hrs : ∀ r ∈ rs, Apart r (start, length)) : SpaceLaw (ws ++ [⟨start, length, 0⟩]) rs where
  fits := List.forall_mem_append.2 ⟨h.fits, List.forall_mem_singleton.2 (Nat.zero_le _)⟩
  windows := List.pairwise_append.2 ⟨h.windows, List.pairwise_singleton ..,
    fun w hw => List.forall_mem_singleton.2 (hws w hw)⟩
  ranges := h.ranges
  unused r hr := List.forall_mem_append.2 ⟨h.unused r hr, List.forall_mem_singleton.2 (hrs r hr)⟩

end SpaceLaw

/-! ### What keeps the law of placement -/

/-- If entry `e` is without an address exactly when it is FAILED or STUCK, so is `f`, and `f` keeps the range of `e` or
gives it up. -/
structure CommitEntry.KeepsRange (e f : CommitEntry) : Prop where
  addressed : e.addressed → f.addressed
  held : e.addressed → f.range = e.range ∨ f.range = none

namespace CommitEntry.KeepsRange

variable {e f : CommitEntry}

theorem refl (e : CommitEntry) : e.KeepsRange e := ⟨id, fun _ => .inl rfl⟩

/-- A change of state between two that both hold, or both lack, an address. -/
theorem of_state (hst : (f.st = .failed ∨ f.st = .stuck) ↔ (e.st = .failed ∨ e.st = .stuck))
    (ha : f.addr = e.addr := by rfl) (hs : f.size = e.size := by rfl) : e.KeepsRange f := by
  refine ⟨fun h => ?_, fun _ => .inl ?_⟩
  · rw [CommitEntry.addressed, ha, hst]
    exact h
  · rw [range, ha, hs, range]

/-- A change to an entry that is FAILED or STUCK and has no address. -/
theorem of_unplaced (ha : e.addressed → f.addr = none) (hst : f.st = .failed ∨ f.st = .stuck) : e.KeepsRange f :=
  ⟨fun h => ⟨fun _ => hst, fun _ => ha h⟩, fun h => .inr (by rw [range, ha h]; rfl)⟩

end CommitEntry.KeepsRange

/-- If the entries of `l` are without an address exactly when they are FAILED or STUCK, so are those of `m`, which hold
ranges of those of `l`, in their order. -/
structure KeepsRanges (l m : List CommitEntry) : Prop where
  addressed : (∀ e ∈ l, e.addressed) → ∀ e ∈ m, e.addressed
  ranges : (∀ e ∈ l, e.addressed) → (heldRanges m).Sublist (heldRanges l)

namespace KeepsRanges

variable {l m n : List CommitEntry}

theorem refl (l : List CommitEntry) : KeepsRanges l l := ⟨id, fun _ => .refl _⟩

theorem trans (h : KeepsRanges l m) (g : KeepsRanges m n) : KeepsRanges l n :=
  ⟨g.addressed ∘ h.addressed, fun hl => (g.ranges (h.addressed hl)).trans (h.ranges hl)⟩

theorem of_sublist (h : m.Sublist l) : KeepsRanges l m := ⟨fun hl e he => hl e (h.mem he), fun _ => h.filterMap _⟩

theorem cons {e f : CommitEntry} (he : e.KeepsRange f) (h : KeepsRanges l m) : KeepsRanges (e :: l) (f :: m) := by
  refine ⟨fun hl => ?_, fun hl => ?_⟩ <;> obtain ⟨hle, hl⟩ := List.forall_mem_cons.1 hl
  · exact List.forall_mem_cons.2 ⟨he.addressed hle, h.addressed hl⟩
  · rw [heldRanges_cons, heldRanges_cons]
    refine .append ?_ (h.ranges hl)
    obtain hr | hr := he.held hle
    · rw [hr]
    · rw [hr]; exact List.nil_sublist _

theorem map {f : CommitEntry → CommitEntry} (h : ∀ e : CommitEntry, e.KeepsRange (f e)) (l : List CommitEntry) :
    KeepsRanges l (l.map f) := by
  induction l with
  | nil => exact .refl _
  | cons e l ih => exact .cons (h e) ih

/-- The first entry that satisfies a test is changed. -/
theorem modifyFirst {p : CommitEntry → Bool} {f : CommitEntry → CommitEntry}
    (h : ∀ e, l.find? p = some e → e.KeepsRange (f e)) : KeepsRanges l (modifyFirst p f l) := by
  induction l with
  | nil => exact .refl _
  | cons e l ih =>
    rw [Machine.modifyFirst]
    split
    · next hp => exact .cons (h e (by rw [List.find?_cons, hp])) (.refl l)
    · next hp => exact .cons (.refl e) (ih fun g hg => h g (by rw [List.find?_cons, Bool.eq_false_iff.2 hp, hg]))

end KeepsRanges

/-- State `t` lists the windows of `s`, and the entries of its commit list keep the ranges of those of `s`. -/
structure State.KeepsPlacements (s t : State) : Prop where
  windows : t.place.windows = s.place.windows
  commit : KeepsRanges s.link.commit t.link.commit

namespace State.KeepsPlacements

variable {s t u : State}

theorem refl (s : State) : s.KeepsPlacements s := ⟨rfl, .refl _⟩

theorem trans (h : s.KeepsPlacements t) (g : t.KeepsPlacements u) : s.KeepsPlacements u :=
  ⟨g.windows.trans h.windows, h.commit.trans g.commit⟩

/-- A change that touches neither a window nor the commit list. -/
theorem of_same (hw : t.place.windows = s.place.windows := by rfl) (hc : t.link.commit = s.link.commit := by rfl) :
    s.KeepsPlacements t := ⟨hw, hc ▸ .refl _⟩

/-- A change of the link controller that keeps the ranges of the entries. -/
theorem modLink {f : Link → Link} (h : KeepsRanges s.link.commit (f s.link).commit) :
    s.KeepsPlacements (s.modLink f) := ⟨rfl, h⟩

theorem raise (s : State) (i : StreamId) (c : StreamCat) : s.KeepsPlacements (s.raise i c) := of_same

/-- Changes made one after another keep the placements if each one does. -/
theorem foldl {α : Type} {f : State → α → State} (h : ∀ (s : State) (a : α), s.KeepsPlacements (f s a)) (l : List α)
    (s : State) : s.KeepsPlacements (l.foldl f s) := by
  induction l generalizing s with
  | nil => exact refl s
  | cons a l ih => exact (h s a).trans (ih _)

end State.KeepsPlacements

/-- The law of placement passes along a change that keeps the placements. -/
theorem PlacementLaw.of_keeps {s t : State} (h : PlacementLaw s) (k : s.KeepsPlacements t) : PlacementLaw t := by
  obtain ⟨haddressed, hspace⟩ := placementLaw_iff.1 h
  exact placementLaw_iff.2 ⟨k.commit.addressed haddressed,
    hspace.sublist (k.windows ▸ .refl _) (k.commit.ranges haddressed)⟩

/-! ### What follows at once, and the block manager (chapter 1) -/

theorem selectSending_keepsRanges (l : Link) : KeepsRanges l.commit l.selectSending.commit := by
  unfold Link.selectSending
  split
  · refine .modifyFirst fun e he => .of_state ?_
    have hready : e.st = .ready := eq_of_beq (List.find?_some he :)
    simp [hready]
  · exact .refl _

theorem portGrant_keepsPlacements (s : State) : s.KeepsPlacements s.portGrant := by
  obtain ⟨p, h⟩ := portGrant_eq s
  rw [h]
  exact .of_same

theorem settle_keepsPlacements (s : State) : s.KeepsPlacements s.settle :=
  ⟨by rw [settle_place], by rw [settle_commit]; exact selectSending_keepsRanges s.link⟩

theorem State.KeepsPlacements.settle {s t : State} (h : s.KeepsPlacements t) : s.KeepsPlacements t.settle :=
  h.trans (settle_keepsPlacements t)

theorem upsets_keepsPlacements (s : State) (us : List Upset) : s.KeepsPlacements (s.upsets us) := by
  refine .foldl (fun s u => ?_) us s
  cases u with
  | capture w b | staging i slot check pos | replay check pos => exact .of_same

theorem countUnits_keepsPlacements (s : State) (addr len : Nat) (us : List Nat) :
    s.KeepsPlacements (s.countUnits addr len us) := by
  obtain ⟨g, d, h⟩ := countUnits_eq s addr len us
  rw [h]
  exact .of_same

theorem countStaging_keepsPlacements (s : State) (addrs : List Nat) : s.KeepsPlacements (s.countStaging addrs) := by
  obtain ⟨g, d, h⟩ := countStaging_eq s addrs
  rw [h]
  exact .of_same

theorem writeFlush_keepsPlacements (s : State) (b : StageBuf) (addr : Nat) :
    s.KeepsPlacements (s.writeFlush b addr) := by
  unfold State.writeFlush
  dsimp only
  refine .trans ?_ (.foldl (fun s (p : Nat × Nat) => .of_same) _ _)
  split <;> exact .of_same

theorem previewReply_keepsPlacements (s : State) (p : Preview) : s.KeepsPlacements (s.previewReply p) := by
  obtain ⟨hlink, hplace, -⟩ := previewReply_keeps s p
  exact .of_same (by rw [hplace]) (by rw [hlink])

theorem previewAdvance_keepsPlacements (fuel : Nat) (s : State) : s.KeepsPlacements (s.previewAdvance fuel) := by
  have hread (s : State) (p : Preview) (addrs : List Nat) :
      s.KeepsPlacements (({ s with preview := some p } : State).countStaging addrs) :=
    .trans .of_same (countStaging_keepsPlacements ..)
  induction fuel generalizing s with
  | zero => exact .refl s
  | succ fuel ih =>
    unfold State.previewAdvance
    split
    · exact .refl s
    · split
      · exact previewReply_keepsPlacements ..
      · exact (hread ..).trans (ih _)
      · dsimp only
        split
        · exact .trans .of_same (ih _)
        · split
          · exact .refl s
          · exact (hread ..).trans (ih _)

theorem previewRun_keepsPlacements (s : State) : s.KeepsPlacements s.previewRun := by
  unfold State.previewRun
  split
  · exact .refl s
  · exact previewAdvance_keepsPlacements ..

theorem previewTake_keepsPlacements (s : State) (addr len : Nat) : s.KeepsPlacements (s.previewTake addr len) := by
  unfold State.previewTake
  split
  · exact .refl s
  · exact .trans (.trans .of_same (countUnits_keepsPlacements ..)) (previewRun_keepsPlacements _)

theorem finishBuild_keepsPlacements (s : State) (e : CommitEntry) (r : Replay) :
    s.KeepsPlacements (s.finishBuild e r) := .of_same (by rw [finishBuild_place]) (finishBuild_commit ..)

/-- The SENDING entry replaced by one that is neither FAILED nor STUCK, at the same range. -/
theorem modSending_keepsRanges {l : Link} {f : CommitEntry → CommitEntry}
    (h : ∀ e, l.sending = some e → e.st = .sending →
      ((f e).st ≠ .failed ∧ (f e).st ≠ .stuck) ∧ (f e).addr = e.addr ∧ (f e).size = e.size) :
    KeepsRanges l.commit (l.modSending f).commit := by
  refine .modifyFirst fun e he => ?_
  have hst : e.st = .sending := eq_of_beq (List.find?_some he :)
  obtain ⟨⟨hfailed, hstuck⟩, ha, hs⟩ := h e he hst
  refine .of_state ?_ ha hs
  simp [hst, hfailed, hstuck]

theorem drainTake_keepsPlacements (s : State) (addr len pos : Nat) : s.KeepsPlacements (s.drainTake addr len pos) := by
  unfold State.drainTake
  split
  · next e r he hr =>
    dsimp only
    have hread (tally : List (Nat × Nat)) (r' : Replay) : s.KeepsPlacements (s.modLink fun l =>
        { (l.modSending fun _ => { e with xfer := { e.xfer with tally := tally } }) with replay := some r' }) := by
      refine .modLink (modSending_keepsRanges fun f hf hst => ?_)
      obtain rfl := Option.some.inj (he.symm.trans hf)
      exact ⟨by simp [hst], rfl, rfl⟩
    have hmark (t : State) (c : Bool) : t.KeepsPlacements (if c then t.modStream e.stream fun x =>
        { x with capture := markRetire (addr / blockBytes) x.capture } else t) := by
      split <;> exact .of_same
    have htaken (tally : List (Nat × Nat)) (r' : Replay) (c : Bool) :=
      ((hread tally r').trans (hmark _ c)).trans (countUnits_keepsPlacements _ addr len (unitsOf addr len))
    split
    · exact (htaken ..).trans (finishBuild_keepsPlacements ..)
    · exact htaken ..
  · exact .refl s

/-! ### The capture writer, lanes and AUX lines (chapters 2 and 3) -/

theorem startSeal_keepsPlacements (s : State) (i : StreamId) : s.KeepsPlacements (s.startSeal i) := by
  rw [startSeal_eq]; exact .of_same

theorem stopWriter_keepsPlacements (s : State) (i : StreamId) : s.KeepsPlacements (s.stopWriter i) := by
  rw [stopWriter_eq]; exact .of_same

theorem requestStop_keepsPlacements (s : State) (i : StreamId) (reason : CloseReason) :
    s.KeepsPlacements (s.requestStop i reason) := by
  rw [requestStop_eq]; exact .of_same

theorem take_keepsPlacements {s t : State} {i : StreamId} {first k : Nat} {gap : Option Gap}
    (h : s.take i first k gap = some t) : s.KeepsPlacements t := by
  obtain ⟨b, rest, -, rfl⟩ := take_some h
  dsimp only
  split <;> exact .of_same

theorem victimTake_keepsPlacements {s t : State} {i : StreamId} {first k : Nat}
    (h : s.victimTake i first k = some t) : s.KeepsPlacements t := by
  unfold State.victimTake at h
  split at h
  · nomatch h
  · obtain rfl := Option.some.inj h
    exact .of_same

theorem holdBlock_keepsPlacements (s : State) (i : StreamId) :
    s.KeepsPlacements (s.modStream i Stream.holdBlock) := .of_same

theorem getBlock_keepsPlacements (s : State) (i : StreamId) : s.KeepsPlacements (s.getBlock i).1 := by
  have hdrop : s.KeepsPlacements (s.enterDropping i) := .of_same
  unfold State.getBlock
  dsimp only
  split
  · next h => exact (take_keepsPlacements h).trans (holdBlock_keepsPlacements ..)
  · split
    · split
      · next h => exact (victimTake_keepsPlacements h).trans (holdBlock_keepsPlacements ..)
      · exact hdrop
    · exact hdrop

theorem stageKept_keepsPlacements (s : State) (i : StreamId) (bytes : List Byte) :
    s.KeepsPlacements (s.stageKept i bytes) := by
  have hflip : s.KeepsPlacements (s.takeStagingFlip i) := by
    unfold State.takeStagingFlip
    split <;> exact .of_same
  exact hflip.trans .of_same

theorem placeSample_keepsPlacements (s : State) (i : StreamId) : s.KeepsPlacements (s.placeSample i) := by
  unfold State.placeSample
  dsimp only
  split
  · split
    · exact stageKept_keepsPlacements ..
    · split
      · exact (getBlock_keepsPlacements s i).trans (stageKept_keepsPlacements ..)
      · exact getBlock_keepsPlacements s i
  · exact .refl s

theorem latchMarker_keepsPlacements (s : State) (i : StreamId) (index : Nat) (src : MarkSource) :
    s.KeepsPlacements (s.latchMarker i index src) := by
  unfold State.latchMarker
  dsimp only
  split
  · split <;> exact .of_same
  · exact .refl s

theorem enterLaneMark_keepsPlacements (s : State) (i : StreamId) : s.KeepsPlacements (s.enterLaneMark i) := by
  obtain ⟨n, h, -⟩ := enterLaneMark_eq s i
  rw [h]
  exact .of_same

theorem resume_keepsPlacements (s : State) (i : StreamId) : s.KeepsPlacements (s.resume i) := by
  unfold State.resume
  dsimp only
  split
  · split
    · next h => exact (take_keepsPlacements h).trans (holdBlock_keepsPlacements ..)
    · exact .refl s
  · exact .refl s

theorem boundary_keepsPlacements (s : State) (i : StreamId) : s.KeepsPlacements (s.boundary i) := by
  have hstep (t : State) : t.KeepsPlacements (t.decimateAt i) := by
    rw [decimateAt_eq]
    split <;> exact .of_same
  unfold State.boundary
  split
  · exact .trans .of_same ((hstep _).trans (resume_keepsPlacements _ i))
  · exact .refl s

theorem lengthStop_keepsPlacements (s : State) (i : StreamId) : s.KeepsPlacements (s.lengthStop i) := by
  unfold State.lengthStop
  dsimp only
  split
  · exact .trans .of_same (requestStop_keepsPlacements ..)
  · exact .refl s

theorem finishSample_keepsPlacements (s : State) (i : StreamId) : s.KeepsPlacements (s.finishSample i) := by
  have hseal (t : State) : t.KeepsPlacements (if (t.stream i).blockFull then t.startSeal i else t) := by
    split
    · exact startSeal_keepsPlacements t i
    · exact .refl t
  have hstop (t : State) : t.KeepsPlacements (if (t.stream i).writer.stopReached then t.stopWriter i else t) := by
    split
    · exact stopWriter_keepsPlacements t i
    · exact .refl t
  unfold State.finishSample
  split
  · exact .refl s
  · have hpast : s.KeepsPlacements (((s.placeSample i).enterLaneMark i).advance i) :=
      ((placeSample_keepsPlacements s i).trans (enterLaneMark_keepsPlacements _ i)).trans .of_same
    exact ((hpast.trans (hseal _)).trans (lengthStop_keepsPlacements _ i)).trans (hstop _)

theorem sampleProcess_keepsPlacements (s : State) (i : StreamId) : s.KeepsPlacements (s.sampleProcess i) := by
  unfold State.sampleProcess
  dsimp only
  split
  · split
    · exact ((boundary_keepsPlacements s i).trans (finishSample_keepsPlacements _ i)).settle
    · exact (boundary_keepsPlacements s i).settle
  · exact .refl s

theorem flushAgeExpiry_keepsPlacements (s : State) (i : StreamId) : s.KeepsPlacements (s.flushAgeExpiry i) := by
  unfold State.flushAgeExpiry
  dsimp only
  split
  · exact (startSeal_keepsPlacements s i).settle
  · exact .refl s

theorem afterFlush_keepsPlacements (s : State) (i : StreamId) : s.KeepsPlacements (s.afterFlush i) := by
  have hseal : s.KeepsPlacements (s.modStream i Stream.makeSeal) := .of_same
  unfold State.afterFlush
  dsimp only
  split
  · split
    · exact hseal.trans (finishSample_keepsPlacements ..)
    · exact hseal
  · exact .refl s

theorem flushDone_keepsPlacements (s : State) (i : StreamId) (addr : Nat) (orphan : Option StageBuf) :
    s.KeepsPlacements (s.flushDone i addr orphan) := by
  have hwrite (b : StageBuf) : s.KeepsPlacements (s.writeFlush b addr).freePort :=
    (writeFlush_keepsPlacements ..).trans .of_same
  have hflushed (t : State) : t.KeepsPlacements (t.modWriter i Writer.flushed) := .of_same
  unfold State.flushDone
  split
  · exact (hwrite _).settle
  · split
    · exact .settle .of_same
    · exact (((hwrite _).trans (hflushed _)).trans (afterFlush_keepsPlacements _ i)).settle

theorem beatArrival_keepsPlacements (s : State) (i : StreamId) (beat : List Byte) (mark : Option Nat) :
    s.KeepsPlacements (s.beatArrival i beat mark) := by
  unfold State.beatArrival
  dsimp only
  split
  · exact .refl s
  · exact .refl s
  · split <;> exact .of_same
  · exact .of_same
  · split <;> exact .of_same

theorem beatTake_keepsPlacements (s : State) (i : StreamId) : s.KeepsPlacements (s.beatTake i) := by
  unfold State.beatTake
  dsimp only
  split
  · exact .refl s
  · split <;> exact .of_same

theorem auxEdge_keepsPlacements (s : State) (line : AuxLine) (rising : Bool) :
    s.KeepsPlacements (s.auxEdge line rising) := by
  unfold State.auxEdge
  split
  · refine .foldl (fun s i => ?_) _ s
    unfold State.auxStream
    dsimp only
    split
    · exact .of_same
    · split
      · exact latchMarker_keepsPlacements ..
      · exact .refl s
  · exact .refl s

/-! ### Run control (chapter 4) -/

theorem pfailAssert_keepsPlacements (s : State) : s.KeepsPlacements s.pfailAssert := by
  have hstream (s : State) (i : StreamId) : s.KeepsPlacements (s.powerFailStream i) := by
    unfold State.powerFailStream
    split
    · exact .trans (.raise s i .run) (requestStop_keepsPlacements ..)
    · exact .of_same
    · exact .refl s
  unfold State.pfailAssert
  split
  · exact .refl s
  · have hline : s.KeepsPlacements { s with pfail := true, powerFail := true } := .of_same
    exact .settle (.trans (hline.trans (.foldl hstream StreamId.all _)) .of_same)

theorem pfailDeassert_keepsPlacements (s : State) : s.KeepsPlacements s.pfailDeassert := by
  unfold State.pfailDeassert
  split <;> exact .of_same

/-- The STUCK entries of a stream become FAILED ones, without an address as before, whatever their new size (R76,
R154). -/
theorem stuck_keepsRanges (i : StreamId) {f : CommitEntry → CommitEntry}
    (h : ∀ e, (f e).st = .failed ∧ (f e).addr = e.addr) (l : List CommitEntry) :
    KeepsRanges l (l.map fun e => if e.stuckOf i then f e else e) := by
  refine .map (fun e => ?_) l
  obtain ⟨hst, haddr⟩ := h e
  split
  · next hstuck =>
    obtain ⟨-, hstuck⟩ : _ ∧ e.st = .stuck := by simpa [CommitEntry.stuckOf] using hstuck
    exact .of_unplaced (fun he => haddr.trans (he.2 (.inr hstuck))) (.inl hst)
  · exact .refl e

theorem replaceStuck_keepsPlacements (s : State) (i : StreamId) : s.KeepsPlacements (s.replaceStuck i) :=
  ⟨rfl, stuck_keepsRanges i (f := CommitEntry.replaced) (fun _ => ⟨rfl, rfl⟩) s.link.commit⟩

theorem abortRun_keepsPlacements (s : State) (i : StreamId) : s.KeepsPlacements (s.abortRun i) := by
  have hsnap : s.KeepsPlacements (s.previewSnap i) := by
    obtain h | ⟨p, segs, -, -, h⟩ := previewSnap_cases s i <;> rw [h]
    · exact .refl s
    · exact .of_same
  have habort (t : State) (p : Port) : t.KeepsPlacements (({ t with port := p } : State).modStream i Stream.aborted) :=
    .of_same
  unfold State.abortRun
  dsimp only
  split
  · exact (hsnap.trans (habort ..)).trans (replaceStuck_keepsPlacements ..)
  · exact hsnap.trans (habort ..)

theorem streamSetup_keepsPlacements (s : State) (tag : Byte) (f : SetupFields) :
    s.KeepsPlacements (s.streamSetup tag f) := by
  unfold State.streamSetup
  split
  · exact .of_same
  · dsimp only
    split
    · exact .of_same
    · split
      · exact .of_same
      · split
        · exact .of_same
        · split <;> exact .of_same

theorem runStart_keepsPlacements (s : State) (tag : Byte) (f : StartFields) :
    s.KeepsPlacements (s.runStart tag f) := by
  unfold State.runStart
  split
  · exact .of_same
  · dsimp only
    split
    · exact .of_same
    · split
      · exact .of_same
      · split
        · exact .of_same
        · split <;> exact .of_same

theorem runStop_keepsPlacements (s : State) (tag stream : Byte) : s.KeepsPlacements (s.runStop tag stream) := by
  unfold State.runStop
  split
  · exact .of_same
  · split
    · exact .of_same
    · exact (requestStop_keepsPlacements ..).settle.trans .of_same
    · exact .of_same

theorem runAbort_keepsPlacements (s : State) (tag stream : Byte) : s.KeepsPlacements (s.runAbort tag stream) := by
  unfold State.runAbort
  split
  · exact .of_same
  · dsimp only
    split
    · exact .of_same
    · exact (abortRun_keepsPlacements ..).settle.trans .of_same
    · exact (abortRun_keepsPlacements ..).settle.trans .of_same
    · exact .of_same

/-! ### The archive link (chapter 7) -/

/-- A failed entry gives its range up (R151). -/
theorem failEntry_keepsPlacements (s : State) (p : CommitEntry → Bool) (e : CommitEntry) (cause : FailCause)
    (code : Option Byte) : s.KeepsPlacements (s.failEntry p e cause code) := by
  have hfail : s.KeepsPlacements (s.modLink fun l =>
      { l with commit := modifyFirst p (fun f => f.failed cause code) l.commit }) := by
    refine .modLink (.modifyFirst fun f _ => .of_unplaced (fun _ => rfl) ?_)
    rw [CommitEntry.failed]
    split
    · exact .inl rfl
    · exact .inr rfl
  have hbuffer (t : State) : t.KeepsPlacements (if e.st = .sending then
      { t with port := t.port.orphanDrain, link := { t.link with replay := none } } else t) := by
    split <;> exact .of_same
  have hdead (t : State) : t.KeepsPlacements (match e.addr with | none => t | some a => t.deadSpan a e.size) := by
    split <;> exact .of_same
  have hstuck (t : State) : t.KeepsPlacements (if e.placements < 3 then t
      else (t.modStream e.stream fun x => { x with drain := .blocked }).raise e.stream .archiveFault) := by
    split <;> exact .of_same
  exact ((hfail.trans (hbuffer _)).trans (hdead _)).trans (hstuck _)

theorem trySend_keepsPlacements (s : State) : s.KeepsPlacements s.trySend := by
  obtain h | ⟨e, r, -, -, -, -, ⟨-, h⟩ | ⟨-, h⟩⟩ := trySend_cases s <;> rw [h]
  · exact .refl s
  · exact .of_same
  · refine .trans ?_ (portGrant_keepsPlacements _)
    have hcount : s.KeepsPlacements (r.badRanges.foldl
        (fun s g => s.countUncorrectable .replay (e.addr.getD 0 + r.off + 64 * g)) s) :=
      .foldl (fun _ _ => .of_same) _ s
    unfold State.rebuild
    dsimp only
    split
    · exact hcount.trans (finishBuild_keepsPlacements ..)
    · exact hcount.trans .of_same

theorem accept_keepsPlacements (s : State) : s.KeepsPlacements s.accept := by
  obtain h | h | ⟨e, r, he, -, h⟩ := accept_cases s <;> rw [h]
  · exact .refl s
  · exact .of_same
  · refine .settle (.modLink (modSending_keepsRanges fun f hf hst => ?_))
    obtain rfl := Option.some.inj (he.symm.trans hf)
    unfold CommitEntry.afterAccept
    dsimp only
    split
    · exact ⟨⟨nofun, nofun⟩, rfl, rfl⟩
    · exact ⟨by simp [hst], rfl, rfl⟩

theorem retry_keepsPlacements (s : State) (us : List Upset) : s.KeepsPlacements (s.retry us) := by
  have hfree : s.KeepsPlacements (s.modLink Link.freeSlot) := .of_same
  unfold State.retry
  split
  · dsimp only
    split
    · exact hfree
    · split
      · refine .trans (.trans (hfree.trans (.modLink ?_)) (upsets_keepsPlacements _ us)) (trySend_keepsPlacements _)
        exact modSending_keepsRanges fun e _ hst => ⟨by simp [hst], rfl, rfl⟩
      · exact (hfree.trans (failEntry_keepsPlacements ..)).settle
  · exact .refl s

theorem narrow_keepsPlacements (s : State) : s.KeepsPlacements s.narrow := by
  have hfree : s.KeepsPlacements (s.modLink Link.freeSlot) := .of_same
  unfold State.narrow
  split
  · dsimp only
    split
    · split
      · refine .settle (hfree.trans (.modLink ?_))
        exact modSending_keepsRanges (l := s.link) fun e _ hst => ⟨by simp [hst], rfl, rfl⟩
      · exact (hfree.trans (failEntry_keepsPlacements ..)).settle
    · exact hfree
  · exact .refl s

theorem refuseWrite_keepsPlacements (s : State) (code : Byte) : s.KeepsPlacements (s.refuseWrite code) := by
  have hfree : s.KeepsPlacements (s.modLink Link.freeSlot) := .of_same
  unfold State.refuseWrite
  split
  · dsimp only
    split
    · exact hfree
    · exact (hfree.trans (failEntry_keepsPlacements ..)).settle
  · exact .refl s

theorem refusedMessage_keepsPlacements (s : State) (a : Nat) (code : Byte) :
    s.KeepsPlacements (s.refusedMessage a code) := by
  unfold State.refusedMessage
  split
  · split
    · exact .of_same
    · exact failEntry_keepsPlacements ..
  · exact .refl s

theorem commitTimeout_keepsPlacements (s : State) (i : StreamId) (seq : Nat) :
    s.KeepsPlacements (s.commitTimeout i seq) := by
  unfold State.commitTimeout
  split
  · exact .refl s
  · split
    · exact failEntry_keepsPlacements ..
    · exact .refl s

/-- The entries in flight return to READY at the same addresses (R127). -/
theorem abandonLink_keepsPlacements (s : State) : s.KeepsPlacements s.abandonLink := by
  refine ⟨rfl, .map (fun e => ?_) s.link.commit⟩
  unfold CommitEntry.returned
  split
  · next h =>
    refine .of_state ?_
    obtain hst | hst := h <;> simp [hst]
  · exact .refl e

theorem raiseArchiveFaults_keepsPlacements (s : State) : s.KeepsPlacements s.raiseArchiveFaults := by
  obtain ⟨n, h, -⟩ := raiseArchiveFaults_eq s
  rw [h]
  exact .of_same

theorem linkFault_keepsPlacements (s : State) (cause : LinkFault) : s.KeepsPlacements (s.linkFault cause) := by
  unfold State.linkFault
  split
  · exact ((abandonLink_keepsPlacements s).trans .of_same).trans (raiseArchiveFaults_keepsPlacements _)
  · exact .refl s

theorem responseTimeout_keepsPlacements (s : State) : s.KeepsPlacements s.responseTimeout := by
  unfold State.responseTimeout
  split
  · exact linkFault_keepsPlacements ..
  · exact .refl s

theorem linkDisable_keepsPlacements (s : State) : s.KeepsPlacements s.linkDisable := by
  unfold State.linkDisable
  split
  · exact .refl s
  · exact ((abandonLink_keepsPlacements s).trans .of_same).trans (raiseArchiveFaults_keepsPlacements _)

theorem trainingReply_keepsPlacements (s : State) : s.KeepsPlacements s.trainingReply := by
  unfold State.trainingReply
  split
  · exact .settle .of_same
  · exact .refl s

theorem durable_keepsPlacements (s : State) : s.KeepsPlacements s.durable := by
  unfold State.durable
  split
  · dsimp only
    split <;> exact .of_same
  · exact .refl s

theorem notYet_keepsPlacements (s : State) : s.KeepsPlacements s.notYet := by
  unfold State.notYet
  split
  · dsimp only
    split <;> exact .of_same
  · exact .refl s

/-- Entries leave the list with their ranges, and the windows stand (R145). -/
theorem leave_keepsPlacements (s : State) (i : StreamId) : s.KeepsPlacements (s.leave i) := by
  have hone (s : State) (e : CommitEntry) : s.KeepsPlacements (s.leaveOne i e) := by
    obtain ⟨hlink, hplace, -⟩ := leaveOne_keeps s i e
    exact ⟨by rw [hplace], by rw [hlink]; exact .of_sublist (removeFirst_sublist ..)⟩
  have hchain (fuel : Nat) (s : State) : s.KeepsPlacements (s.leaveChain i fuel) := by
    induction fuel generalizing s with
    | zero => exact .refl s
    | succ fuel ih =>
      unfold State.leaveChain
      split
      · exact .refl s
      · split
        · exact (hone ..).trans (ih _)
        · exact .refl s
  exact (hchain ..).trans .of_same

theorem committed_keepsPlacements (s : State) (a : Nat) : s.KeepsPlacements (s.committed a) := by
  unfold State.committed
  split
  · split
    · exact .of_same
    · refine .settle (.trans (.modLink (.modifyFirst fun e he => .of_state ?_)) (leave_keepsPlacements ..))
      obtain ⟨hst, -⟩ : e.st = .awaitCommit ∧ _ := by
        simpa [CommitEntry.awaits] using (List.find?_some he :)
      simp [hst]
  · exact .refl s

/-! ### Requests (chapters 1 and 6 to 10) -/

theorem drainResume_keepsPlacements (s : State) (tag stream : Byte) :
    s.KeepsPlacements (s.drainResume tag stream) := by
  unfold State.drainResume
  split
  · exact .of_same
  · next i _ =>
    split
    · exact ⟨rfl, stuck_keepsRanges i (f := CommitEntry.resumed) (fun _ => ⟨rfl, rfl⟩) s.link.commit⟩
    · exact .of_same

theorem markNow_keepsPlacements (s : State) (tag stream : Byte) : s.KeepsPlacements (s.markNow tag stream) := by
  unfold State.markNow
  split
  · exact .of_same
  · dsimp only
    split
    · exact (latchMarker_keepsPlacements ..).trans .of_same
    · exact .of_same

theorem previewRequest_keepsPlacements (s : State) (tag stream sel : Byte) (maxBytes : BitVec 16)
    (index : BitVec 48) : s.KeepsPlacements (s.previewRequest tag stream sel maxBytes index) := by
  have hstart (i : StreamId) (plan : SpanPlan) : s.KeepsPlacements (s.previewStart i tag plan) :=
    .settle (.trans .of_same (previewRun_keepsPlacements _))
  unfold State.previewRequest
  split
  · exact .of_same
  · dsimp only
    split
    · exact .of_same
    · split
      · exact .of_same
      · split
        · exact .of_same
        · split
          · exact .of_same
          · split
            · exact hstart ..
            · split
              · exact .of_same
              · split
                · exact .of_same
                · exact hstart ..

theorem linkControl_keepsPlacements (s : State) (tag a : Byte) : s.KeepsPlacements (s.linkControl tag a) := by
  have henable : s.KeepsPlacements s.linkEnable := by
    unfold State.linkEnable
    split <;> exact .of_same
  unfold State.linkControl
  split
  · exact henable.trans .of_same
  · split
    · exact (linkDisable_keepsPlacements s).trans .of_same
    · exact .of_same

theorem evalLow_keepsPlacements (s : State) : s.KeepsPlacements s.evalLow :=
  .of_same (by rw [evalLow_place]) (by rw [evalLow_link])

theorem timingSet_keepsPlacements (s : State) (tag f : Byte) (c y l : BitVec 32) :
    s.KeepsPlacements (s.timingSet tag f c y l) := by
  have hset (t : Timing) : s.KeepsPlacements (s.modCtl fun c => { c with timing := t }) := .of_same
  unfold State.timingSet
  dsimp only
  split
  · exact .of_same
  · exact ((hset _).trans (evalLow_keepsPlacements _)).trans .of_same

/-- The requests but WINDOW_GRANT. -/
theorem runRequest_keepsPlacements (s : State) (tag : Byte) {r : Request} (hr : ∀ a n, r ≠ .windowGrant a n) :
    s.KeepsPlacements (s.runRequest tag r) := by
  cases r with
  | ident | reset => exact .of_same
  | streamSetup f => exact streamSetup_keepsPlacements s tag f
  | auxRoute line edge mask =>
    show s.KeepsPlacements (s.auxRoute tag line edge mask)
    unfold State.auxRoute
    split <;> exact .of_same
  | runStart f => exact runStart_keepsPlacements s tag f
  | runStop i => exact runStop_keepsPlacements s tag i
  | runAbort i => exact runAbort_keepsPlacements s tag i
  | drainResume i => exact drainResume_keepsPlacements s tag i
  | markNow i => exact markNow_keepsPlacements s tag i
  | windowGrant a n => exact absurd rfl (hr a n)
  | linkControl a => exact linkControl_keepsPlacements s tag a
  | sync m =>
    show s.KeepsPlacements (s.syncRequest tag m)
    unfold State.syncRequest
    split
    · exact .of_same
    · split <;> exact .of_same
  | preview i sel n x => exact previewRequest_keepsPlacements s tag i sel n x
  | status sel i =>
    show s.KeepsPlacements (s.statusRequest tag sel i)
    unfold State.statusRequest
    split
    · exact .of_same
    · split
      · split <;> exact .of_same
      · exact .of_same
  | noticeMask e =>
    show s.KeepsPlacements (s.noticeMask tag e)
    unfold State.noticeMask
    split <;> exact .of_same
  | noticeTake e =>
    show s.KeepsPlacements (s.noticeTake tag e)
    unfold State.noticeTake
    split <;> exact .of_same
  | errorSetup m c =>
    show s.KeepsPlacements (s.errorSetup tag m c)
    unfold State.errorSetup
    split <;> exact .of_same
  | errorRead m f =>
    show s.KeepsPlacements (s.errorRead tag m f)
    unfold State.errorRead
    split <;> exact .of_same
  | inject m t p a b =>
    show s.KeepsPlacements (s.inject tag m t p a b)
    unfold State.inject
    split
    · exact .of_same
    · dsimp only
      split <;> exact .of_same
  | timingSet f c y l => exact timingSet_keepsPlacements s tag f c y l

/-! ### A window granted, and addresses placed (R104, R109 to R112, R152) -/

theorem grantOverlaps_eq_false_iff {s : State} {a n : Nat} : s.grantOverlaps a n = false ↔
    (∀ w ∈ s.place.windows, Apart (w.start, w.length) (a, n)) ∧
      ∀ r ∈ heldRanges s.link.commit, Apart r (a, n) := by
  simp only [State.grantOverlaps, Bool.or_eq_false_iff, List.any_eq_false, Bool.not_eq_true, meets_eq_false_iff,
    heldRanges, List.mem_filterMap]
  exact and_congr_right fun _ => ⟨fun h r ⟨e, he, hr⟩ => h e he r hr, fun h e he r hr => h r ⟨e, he, hr⟩⟩

theorem windowGrant_placementLaw {s : State} (h : PlacementLaw s) (tag : Byte) (a n : BitVec 48) :
    PlacementLaw (s.windowGrant tag a n) := by
  unfold State.windowGrant
  split
  · exact h.of_keeps .of_same
  · split
    · exact h.of_keeps .of_same
    · next hover =>
      split
      · exact h.of_keeps .of_same
      · obtain ⟨hws, hrs⟩ := grantOverlaps_eq_false_iff.1 (Bool.eq_false_iff.2 hover)
        obtain ⟨haddressed, hspace⟩ := placementLaw_iff.1 h
        have hgranted : PlacementLaw (s.modPlace fun p =>
            { p with windows := p.windows ++ [⟨a.toNat, n.toNat, 0⟩], starved := false }) :=
          placementLaw_iff.2 ⟨haddressed, hspace.grant hws hrs⟩
        exact (hgranted.of_keeps (evalLow_keepsPlacements _)).of_keeps .of_same

theorem retireMisfit_sublist (size : Nat) (ws : List Window) : (retireMisfit size ws).1.Sublist ws := by
  obtain h | ⟨w, rest, rfl, -, h⟩ := retireMisfit_cases size ws <;> rw [h]
  exact List.sublist_cons_self ..

/-- What a placement request answers, and the windows it leaves. -/
theorem placeRequest_cases (s : State) (size : Nat) :
    ((s.placeRequest size).2 = none ∧
      (s.placeRequest size).1.place.windows = (retireMisfit size s.place.windows).1) ∨
    ∃ a ws, serveWindow size (retireMisfit size s.place.windows).1 = some (a, ws) ∧
      (s.placeRequest size).2 = some a ∧ (s.placeRequest size).1.place.windows = ws := by
  unfold State.placeRequest
  dsimp only
  split
  · next a ws hserve => exact .inr ⟨a, ws, hserve, rfl, by rw [evalLow_place]; rfl⟩
  · refine .inl ⟨rfl, ?_⟩
    dsimp only
    rw [evalLow_place]
    split <;> rfl

/-- A placement request keeps the law, and the address it answers begins a range that is apart from every other
(R111, R112). -/
theorem placeRequest_space {s : State} (h : PlacementLaw s) (size : Nat) :
    let r := s.placeRequest size
    PlacementLaw r.1 ∧ ∀ a, r.2 = some a → SpaceLaw r.1.place.windows ((a, size) :: heldRanges s.link.commit) := by
  obtain ⟨haddressed, hspace⟩ := placementLaw_iff.1 h
  have hretired := hspace.sublist (retireMisfit_sublist size s.place.windows) (.refl _)
  intro r
  rw [placementLaw_iff, show r.1.link = s.link from placeRequest_link s size]
  obtain ⟨hnone, hws⟩ | ⟨a, ws, hserve, hsome, hws⟩ := placeRequest_cases s size
  · rw [show r.1.place.windows = _ from hws]
    exact ⟨⟨haddressed, hretired⟩, fun a ha => nomatch hnone.symm.trans ha⟩
  · have hserved := hretired.serve hserve
    rw [show r.1.place.windows = _ from hws]
    refine ⟨⟨haddressed, hserved.sublist (.refl _) (List.sublist_cons_self ..)⟩, fun b hb => ?_⟩
    obtain rfl := Option.some.inj (hsome.symm.trans hb)
    exact hserved

/-- A record cut joins the list at the address its request was served (R104). -/
theorem cutRecord_placementLaw {s : State} (h : PlacementLaw s) (i : StreamId) (n : NextRecord) :
    PlacementLaw (s.cutRecord i n) := by
  obtain ⟨hplaced, hserved⟩ := placeRequest_space h ((s.stream i).cutOf n).body.size
  have hlink := placeRequest_link s ((s.stream i).cutOf n).body.size
  cases hr : s.placeRequest ((s.stream i).cutOf n).body.size with
  | mk t answer =>
    rw [hr] at hplaced hserved hlink
    cases answer with
    | none => rw [cutRecord_of_no_space hr]; exact hplaced
    | some a =>
      rw [cutRecord_of_placed hr]
      have hcommit : t.link.commit = s.link.commit := congrArg Link.commit hlink
      have hjoined := heldRanges_append t.link.commit [((s.stream i).cutOf n).entry i a]
      refine PlacementLaw.of_keeps (placementLaw_iff.2 ⟨?_, ?_⟩) (settle_keepsPlacements _)
      · exact List.forall_mem_append.2 ⟨hplaced.addressed, List.forall_mem_singleton.2
          (iff_of_false nofun (by simp [CutPlan.entry]))⟩
      · refine (hserved a rfl).perm ?_
        rw [← hcommit]
        exact (List.perm_append_singleton ..).symm.trans (.of_eq hjoined.symm)

theorem cut_placementLaw {s : State} (h : PlacementLaw s) : PlacementLaw s.cut := by
  unfold State.cut
  split
  · split
    · exact h
    · split
      · exact h
      · exact cutRecord_placementLaw h ..
  · exact h

/-- An entry without a range takes one: the range joins those of the list. -/
theorem heldRanges_placed {e f : CommitEntry} {r : Nat × Nat} (he : e.range = none) (hf : f.range = some r)
    (before after : List CommitEntry) :
    (r :: heldRanges (before ++ e :: after)).Perm (heldRanges (before ++ f :: after)) := by
  rw [heldRanges_append, heldRanges_append, heldRanges_cons, heldRanges_cons, he, hf]
  exact List.perm_middle.symm

/-- The earliest FAILED entry, which held no range, takes the range its request was served (R152). -/
theorem replacedAt_placementLaw {s : State} {before after : List CommitEntry} {e : CommitEntry} {a : Nat}
    (hlist : s.link.commit = before ++ e :: after) (he : e.isFailed = true)
    (hbefore : ∀ f ∈ before, f.isFailed = false) (haddressed : ∀ f ∈ s.link.commit, f.addressed)
    (hspace : SpaceLaw s.place.windows ((a, e.size) :: heldRanges s.link.commit)) :
    PlacementLaw (s.modLink fun l => { l with
      commit := modifyFirst CommitEntry.isFailed (CommitEntry.replacedAt a) l.commit }) := by
  rw [hlist] at haddressed hspace
  obtain ⟨hfront, hrest⟩ := List.forall_mem_append.1 haddressed
  obtain ⟨hself, hback⟩ := List.forall_mem_cons.1 hrest
  have hunplaced : e.addr = none := hself.2 (.inl (isFailed_iff.1 he))
  refine placementLaw_iff.2 ?_
  rw [State.modLink_link, hlist, modifyFirst_at he hbefore]
  refine ⟨List.forall_mem_append.2 ⟨hfront, List.forall_mem_cons.2 ⟨?_, hback⟩⟩, hspace.perm ?_⟩
  · exact iff_of_false nofun (by simp [CommitEntry.replacedAt])
  · exact heldRanges_placed (by rw [CommitEntry.range, hunplaced]; rfl) rfl ..

theorem rePlace_placementLaw {s : State} (h : PlacementLaw s) : PlacementLaw s.rePlace := by
  cases hstarved : s.place.starved with
  | true => rw [rePlace_of_idle (.inl hstarved)]; exact h
  | false =>
    obtain hno | ⟨before, e, after, hlist, he, hbefore⟩ := first_cases CommitEntry.isFailed s.link.commit
    · rw [rePlace_of_idle (.inr fun e hm => mt isFailed_iff.2 (Bool.eq_false_iff.1 (hno e hm)))]
      exact h
    · have hfirst : s.link.firstFailed = some e := by rw [Link.firstFailed, hlist, find?_at he hbefore]
      obtain ⟨hplaced, hserved⟩ := placeRequest_space h e.size
      have hlink := placeRequest_link s e.size
      cases hr : s.placeRequest e.size with
      | mk t answer =>
        rw [hr] at hplaced hserved hlink
        have hcommit : t.link.commit = s.link.commit := congrArg Link.commit hlink
        cases answer with
        | none => rw [rePlace_of_no_space hstarved hfirst hr]; exact hplaced
        | some a =>
          rw [rePlace_of_placed hstarved hfirst hr]
          have hmoved := replacedAt_placementLaw (hcommit.trans hlist) he hbefore hplaced.addressed
            (hcommit ▸ hserved a rfl)
          exact hmoved.of_keeps (settle_keepsPlacements _)

/-! ### The control link (chapter 9) -/

theorem runRequest_placementLaw {s : State} (h : PlacementLaw s) (tag : Byte) (r : Request) :
    PlacementLaw (s.runRequest tag r) := by
  by_cases hr : ∃ a n, r = .windowGrant a n
  · obtain ⟨a, n, rfl⟩ := hr
    exact windowGrant_placementLaw h tag a n
  · exact h.of_keeps (runRequest_keepsPlacements s tag fun a n ha => hr ⟨a, n, ha⟩)

theorem execute_placementLaw (fuel : Nat) {s : State} (h : PlacementLaw s) : PlacementLaw (s.execute fuel) := by
  induction fuel generalizing s with
  | zero => exact h
  | succ fuel ih =>
    unfold State.execute
    split
    · exact h
    · next f rest hin =>
      split
      · have htaken : PlacementLaw (s.takeFrame rest) := h.of_keeps .of_same
        refine ih ?_
        unfold State.runFrame
        split
        · exact htaken.of_keeps .of_same
        · exact htaken.of_keeps .of_same
        · exact runRequest_placementLaw htaken ..
      · exact h

theorem submit_placementLaw {s : State} (h : PlacementLaw s) (f : InFrame) : PlacementLaw (s.submit f) :=
  execute_placementLaw _ (h.of_keeps .of_same)

theorem writePeriodEnd_placementLaw {s : State} (h : PlacementLaw s) (bytes : List Byte) :
    PlacementLaw (s.writePeriodEnd bytes) := by
  unfold State.writePeriodEnd
  split
  · exact h.of_keeps .of_same
  · exact h.of_keeps .of_same
  · exact submit_placementLaw h _

/-- The level of PFAIL# taken after a reset names neither a window nor an entry (R79). -/
theorem takePfail_keepsPlacements (s : State) (level : Bool) : s.KeepsPlacements (s.takePfail level) := by
  unfold State.takePfail
  dsimp only
  split <;> exact .of_same

theorem hardReset_placementLaw (s : State) (cause : ResetCause) : PlacementLaw (s.hardReset cause) :=
  reset_placementLaw.of_keeps (.trans .of_same (takePfail_keepsPlacements _ s.pfail))

theorem softReset_placementLaw (s : State) : PlacementLaw s.softReset :=
  reset_placementLaw.of_keeps (.trans .of_same (takePfail_keepsPlacements _ s.pfail))

theorem readPeriodEnd_placementLaw {s : State} (h : PlacementLaw s) (clocked : Nat) :
    PlacementLaw (s.readPeriodEnd clocked) := by
  unfold State.readPeriodEnd
  split
  · exact h
  · have hread : PlacementLaw (s.modCtl fun c => { c with reading := none }) := h.of_keeps .of_same
    dsimp only
    split
    · unfold State.removeHead
      split
      · exact hread
      · split
        · exact softReset_placementLaw _
        · exact execute_placementLaw _ (hread.of_keeps .of_same)
    · exact hread

/-! ### Every step -/

theorem flushComplete_keepsPlacements {s t : State} {us : List Upset} (h : execFlushComplete us s = .next t) :
    s.KeepsPlacements t := by
  unfold execFlushComplete at h
  split at h
  · split at h
    · obtain rfl := Host.Outcome.next.inj h
      exact (upsets_keepsPlacements s us).trans (flushDone_keepsPlacements ..)
    · nomatch h
  · obtain rfl := Host.Outcome.next.inj h
    exact .refl s

theorem freePort_keepsPlacements (s : State) : s.KeepsPlacements s.freePort := .of_same

theorem drainReadComplete_keepsPlacements {s t : State} {us : List Upset}
    (h : execDrainReadComplete us s = .next t) : s.KeepsPlacements t := by
  unfold execDrainReadComplete at h
  split at h
  · split at h
    · obtain rfl := Host.Outcome.next.inj h
      refine (upsets_keepsPlacements s us).trans (.settle (.trans ?_ (freePort_keepsPlacements _)))
      split
      · exact drainTake_keepsPlacements ..
      · exact countUnits_keepsPlacements ..
    · nomatch h
  · obtain rfl := Host.Outcome.next.inj h
    exact .refl s

theorem previewReadComplete_keepsPlacements {s t : State} {us : List Upset}
    (h : execPreviewReadComplete us s = .next t) : s.KeepsPlacements t := by
  unfold execPreviewReadComplete at h
  split at h
  · split at h
    · obtain rfl := Host.Outcome.next.inj h
      refine (upsets_keepsPlacements s us).trans (.settle ((freePort_keepsPlacements _).trans ?_))
      split
      · exact previewTake_keepsPlacements ..
      · exact countUnits_keepsPlacements ..
    · nomatch h
  · obtain rfl := Host.Outcome.next.inj h
    exact .refl s

/-- Every command keeps the law of placement. -/
theorem exec_placementLaw {s t : State} (h : PlacementLaw s) {c : Instr} (ht : exec c s = .next t) :
    PlacementLaw t := by
  have law {u : State} (k : PlacementLaw u) (hu : Host.Outcome.next u = (.next t : Result)) : PlacementLaw t := by
    obtain rfl := Host.Outcome.next.inj hu; exact k
  have keeps {u : State} (k : s.KeepsPlacements u) (hu : Host.Outcome.next u = (.next t : Result)) :
      PlacementLaw t := law (h.of_keeps k) hu
  cases c with
  | powerOn | rst => exact law (hardReset_placementLaw ..) ht
  | pfailAssert => exact keeps (pfailAssert_keepsPlacements s) ht
  | pfailDeassert => exact keeps (pfailDeassert_keepsPlacements s) ht
  | beatArrival lane beat mark => exact keeps (beatArrival_keepsPlacements s lane beat mark) ht
  | beatTake i => exact keeps (beatTake_keepsPlacements s i) ht
  | sampleProcess i => exact keeps (sampleProcess_keepsPlacements s i) ht
  | flushAgeExpiry i => exact keeps (flushAgeExpiry_keepsPlacements s i) ht
  | flushComplete us => exact h.of_keeps (flushComplete_keepsPlacements ht)
  | drainReadComplete us => exact h.of_keeps (drainReadComplete_keepsPlacements ht)
  | previewReadComplete us => exact h.of_keeps (previewReadComplete_keepsPlacements ht)
  | auxEdge line rising => exact keeps (auxEdge_keepsPlacements s line rising) ht
  | cut => exact law (cut_placementLaw h) ht
  | rePlacement => exact law (rePlace_placementLaw h) ht
  | gateEnd => exact keeps (.trans .of_same (evalLow_keepsPlacements _)) ht
  | writeSend us => exact keeps ((upsets_keepsPlacements s us).trans (trySend_keepsPlacements _)) ht
  | durableQuerySend => exact keeps (by unfold State.durableQuerySend; split <;> exact .of_same) ht
  | accept => exact keeps (accept_keepsPlacements s) ht
  | retry us => exact keeps (retry_keepsPlacements s us) ht
  | narrow => exact keeps (narrow_keepsPlacements s) ht
  | refuse code => exact keeps (refuseWrite_keepsPlacements s code) ht
  | committed a => exact keeps (committed_keepsPlacements s a.toNat) ht
  | refused a code => exact keeps (refusedMessage_keepsPlacements s a.toNat code) ht
  | commitTimeout i seq => exact keeps (commitTimeout_keepsPlacements s i seq) ht
  | durable => exact keeps (durable_keepsPlacements s) ht
  | notYet => exact keeps (notYet_keepsPlacements s) ht
  | pollWaitEnd => exact keeps (by unfold State.pollWaitEnd; split <;> exact .of_same) ht
  | syncTimeout => exact keeps (by unfold State.syncTimeout; split <;> exact .of_same) ht
  | responseTimeout => exact keeps (responseTimeout_keepsPlacements s) ht
  | badFrame => exact keeps (linkFault_keepsPlacements s .badFrame) ht
  | trainingLost => exact keeps (linkFault_keepsPlacements s .trainingLost) ht
  | faultWaitEnd => exact keeps (by unfold State.faultWaitEnd; split <;> exact .of_same) ht
  | trainingReply => exact keeps (trainingReply_keepsPlacements s) ht
  | attemptEnd => exact keeps (by unfold State.attemptEnd; split <;> exact .of_same) ht
  | restEnd => exact keeps (by unfold State.restEnd; split <;> exact .of_same) ht
  | badOpener opener => exact keeps (by unfold State.badOpener; split <;> exact .of_same) ht
  | writePeriodEnd bytes => exact law (writePeriodEnd_placementLaw h bytes) ht
  | readPeriodStart => exact keeps .of_same ht
  | readPeriodEnd clocked => exact law (readPeriodEnd_placementLaw h clocked) ht
  | unknownRequest | ident | streamSetup | auxRoute | runStart | runStop | runAbort | drainResume | markNow
  | windowGrant | linkControlEnable | linkControlDisable | sync | preview | statusDevice | statusStream | noticeMask
  | noticeTake | errorSetup | errorRead | inject | timingSet | reset => exact law (submit_placementLaw h _) ht

/-- Settles O55: a grant adds a window apart from all the rest, a cut and a re-placement take a range out of the current
window's unused part, and every other command keeps the windows and gives no range out. -/
theorem stepsKeepPlacements : Obligations.StepsKeepPlacements := by
  intro s t h ht
  unfold step at ht
  split at ht
  · obtain rfl := Host.Outcome.next.inj ht; exact h
  · next c rest hp =>
    have hrest : PlacementLaw { s with pending := rest } := h.of_keeps .of_same
    exact exec_placementLaw hrest ht

end Sys2Proof.Machine
end
section
/-! SUPPORT. The link controller through every step: what leaves it alone, what keeps one entry SENDING at most, and what
a link that is not UP holds (R122, R126, R127, R130). -/

namespace Sys2Proof.Machine

/-! ### The SENDING entries of a commit list (R130) -/

/-- How many entries of a commit list are SENDING. -/
def sendings (l : List CommitEntry) : Nat := l.countP CommitEntry.isSending

theorem isSending_iff {e : CommitEntry} : e.isSending = true ↔ e.st = .sending := beq_iff_eq

theorem isSending_of_st {e : CommitEntry} (h : e.st ≠ .sending) : e.isSending = false := beq_eq_false_iff_ne.2 h

/-- Two entries in the same state, or both not SENDING, count alike. -/
theorem isSending_congr {e f : CommitEntry} (h : f.st = .sending ↔ e.st = .sending) : f.isSending = e.isSending :=
  Bool.eq_iff_iff.2 (isSending_iff.trans (h.trans isSending_iff.symm))

theorem sendings_cons (e : CommitEntry) (l : List CommitEntry) :
    sendings (e :: l) = sendings l + if e.isSending then 1 else 0 := List.countP_cons

theorem sendings_append (l m : List CommitEntry) : sendings (l ++ m) = sendings l + sendings m := List.countP_append

theorem sending_ne_none_iff {l : Link} : l.sending ≠ none ↔ 0 < sendings l.commit := by
  rw [Option.ne_none_iff_isSome, Link.sending, List.find?_isSome, sendings, List.countP_pos_iff]

theorem sendings_pos {l : Link} {e : CommitEntry} (h : l.sending = some e) : 0 < sendings l.commit :=
  sending_ne_none_iff.1 (h ▸ nofun)

theorem sendings_map {f : CommitEntry → CommitEntry} (h : ∀ e, (f e).isSending = e.isSending) (l : List CommitEntry) :
    sendings (l.map f) = sendings l := by
  rw [sendings, List.countP_map]
  exact List.countP_congr fun e _ => by rw [Function.comp_apply, h]

/-- The first entry that satisfies a test is changed, and is SENDING after the change if and only if it was before. -/
theorem sendings_modifyFirst {p : CommitEntry → Bool} {f : CommitEntry → CommitEntry} {l : List CommitEntry}
    (h : ∀ e, p e = true → (f e).isSending = e.isSending) : sendings (modifyFirst p f l) = sendings l := by
  induction l with
  | nil => rfl
  | cons e l ih =>
    rw [modifyFirst]
    split
    · next hp => rw [sendings_cons, sendings_cons, h e hp]
    · rw [sendings_cons, sendings_cons, ih]

/-- Whatever the SENDING entry becomes, no other entry becomes SENDING. -/
theorem sendings_modifySending_le (f : CommitEntry → CommitEntry) (l : List CommitEntry) :
    sendings (modifyFirst CommitEntry.isSending f l) ≤ sendings l := by
  obtain hno | ⟨before, e, after, rfl, he, hb⟩ := first_cases CommitEntry.isSending l
  · rw [modifyFirst_none hno]
  · rw [modifyFirst_at he hb, sendings_append, sendings_append, sendings_cons, sendings_cons, he]
    split <;> simp

/-- With none SENDING, one entry is chosen at most (R130). -/
theorem sendings_chosen_le {l : List CommitEntry} (h : sendings l = 0) :
    sendings (modifyFirst (fun e => e.st == .ready) (fun e => { e with st := .sending }) l) ≤ 1 := by
  obtain hno | ⟨before, e, after, rfl, he, hb⟩ := first_cases (fun e : CommitEntry => e.st == .ready) l
  · rw [modifyFirst_none hno, h]
    exact Nat.zero_le 1
  · rw [sendings_append, sendings_cons] at h
    rw [modifyFirst_at (p := fun e : CommitEntry => e.st == .ready) he hb, sendings_append, sendings_cons]
    split <;> omega

/-- The entries that leave are not SENDING (R145). -/
theorem sendings_withoutLeaving (i : StreamId) (l : List CommitEntry) : sendings (withoutLeaving i l) = sendings l := by
  induction l with
  | nil => rfl
  | cons e l ih =>
    rw [withoutLeaving]
    split
    · split
      · next hst => rw [ih, sendings_cons, isSending_of_st (by rw [hst]; nofun)]; rfl
      · rfl
    · rw [sendings_cons, sendings_cons, ih]

/-! ### The law of the link -/

/-- What the law of the link says of a link controller. -/
structure Link.Lawful (l : Link) : Prop where
  one : sendings l.commit ≤ 1
  down : l.state ≠ .up → sendings l.commit = 0 ∧ l.outstanding = none ∧ l.replay = none
  write : l.writeOut = true → 0 < sendings l.commit ∧ l.replay ≠ none

theorem linkLaw_iff {s : State} : LinkLaw s ↔ s.link.Lawful := by
  have hone : (s.link.commit.filter CommitEntry.isSending).length = sendings s.link.commit :=
    List.countP_eq_length_filter.symm
  constructor
  · rintro ⟨one, up, write⟩
    refine ⟨hone ▸ one, fun hdown => ⟨?_, ?_, ?_⟩, fun hw => ?_⟩
    · exact Nat.eq_zero_of_not_pos fun hpos => hdown (up (.inl (sending_ne_none_iff.2 hpos)))
    · exact not_not.1 fun hout => hdown (up (.inr (.inl hout)))
    · exact not_not.1 fun hr => hdown (up (.inr (.inr hr)))
    · obtain ⟨hs, hr⟩ := write hw
      exact ⟨sending_ne_none_iff.1 hs, hr⟩
  · rintro ⟨one, down, write⟩
    refine ⟨hone ▸ one, fun hheld => not_not.1 fun hdown => ?_, fun hw => ?_⟩
    · obtain ⟨hs, hout, hr⟩ := down hdown
      obtain h | h | h := hheld
      · exact (sending_ne_none_iff.1 h).ne' hs
      · exact h hout
      · exact h hr
    · obtain ⟨hs, hr⟩ := write hw
      exact ⟨sending_ne_none_iff.2 hs, hr⟩

namespace Link.Lawful

variable {l m : Link}

/-- A link without a SENDING entry, a request and a transfer, whatever its state. -/
theorem of_idle (hs : sendings m.commit = 0) (hout : m.outstanding = none) (hr : m.replay = none) : m.Lawful :=
  ⟨hs ▸ Nat.zero_le 1, fun _ => ⟨hs, hout, hr⟩, fun hw => by rw [Link.writeOut, hout] at hw; nomatch hw⟩

/-- A change that leaves alone what the law names. -/
theorem carry (h : l.Lawful) (hst : m.state = l.state := by rfl) (hs : sendings m.commit = sendings l.commit := by rfl)
    (hout : m.outstanding = l.outstanding := by rfl) (hr : m.replay = none ↔ l.replay = none := by exact Iff.rfl) :
    m.Lawful := by
  refine ⟨hs ▸ h.one, fun hdown => ?_, fun hw => ?_⟩
  · obtain ⟨h1, h2, h3⟩ := h.down (hst ▸ hdown)
    exact ⟨hs.trans h1, hout.trans h2, hr.2 h3⟩
  · obtain ⟨h1, h2⟩ := h.write (by rwa [Link.writeOut, ← hout])
    exact ⟨hs ▸ h1, mt hr.1 h2⟩

/-- A change after which no request is outstanding, and no more entries are SENDING than before. -/
theorem freed (h : l.Lawful) (hst : m.state = l.state := by rfl) (hs : sendings m.commit ≤ sendings l.commit)
    (hout : m.outstanding = none := by rfl) (hr : l.replay = none → m.replay = none) : m.Lawful := by
  refine ⟨hs.trans h.one, fun hdown => ?_, fun hw => ?_⟩
  · obtain ⟨h1, -, h3⟩ := h.down (hst ▸ hdown)
    exact ⟨Nat.le_zero.1 (hs.trans h1.le), hout, hr h3⟩
  · rw [Link.writeOut, hout] at hw
    nomatch hw

/-- A request or a transfer more is lawful on a link that is UP, a WRITE only with its entry and its transfer. -/
theorem of_up (h : l.Lawful) (hup : m.state = .up) (hs : m.commit = l.commit := by rfl)
    (hw : m.writeOut = true → 0 < sendings m.commit ∧ m.replay ≠ none) : m.Lawful :=
  ⟨hs ▸ h.one, fun hdown => absurd hup hdown, hw⟩

end Link.Lawful

/-- What a failed placement leaves of the link (R151). -/
theorem failEntry_link (s : State) (p : CommitEntry → Bool) (e : CommitEntry) (cause : FailCause) (code : Option Byte) :
    (s.failEntry p e cause code).link = { s.link with
      commit := modifyFirst p (fun f => f.failed cause code) s.link.commit,
      replay := if e.st = .sending then none else s.link.replay } := by
  have hstuck (t : State) : (if e.placements < 3 then t
      else (t.modStream e.stream fun x => { x with drain := .blocked }).raise e.stream .archiveFault).link =
        t.link := by
    split <;> rfl
  have hdead (t : State) : (match e.addr with | none => t | some a => t.deadSpan a e.size : State).link = t.link := by
    split <;> rfl
  unfold State.failEntry
  refine (hstuck _).trans ((hdead _).trans ?_)
  split <;> rfl

/-! ### What follows at once (R130, R132) -/

/-- At most one entry is chosen, none while another is SENDING, and a transfer is begun on a link that is UP. -/
theorem settle_lawful {s : State} (h : s.link.Lawful) : s.settle.link.Lawful := by
  have hbuilt : s.link.replay ≠ none → s.settle.link.replay = s.link.replay := fun hr =>
    (settle_without_build s (.inr (.inr hr))).1
  rw [settle_link]
  by_cases hup : s.link.state = .up
  · by_cases hs : s.link.sending = none
    · refine ⟨?_, fun hdown => absurd hup hdown, fun hw => ?_⟩
      · have hzero : sendings s.link.commit = 0 :=
          Nat.eq_zero_of_not_pos fun hpos => sending_ne_none_iff.2 hpos hs
        show sendings s.link.selectSending.commit ≤ 1
        rw [Link.selectSending, isUp_iff.2 hup, hs]
        exact sendings_chosen_le hzero
      · obtain ⟨hpos, -⟩ := h.write hw
        exact absurd hs (sending_ne_none_iff.2 hpos)
    · have hkept : s.link.selectSending = s.link := by
        obtain ⟨e, he⟩ := Option.ne_none_iff_exists'.1 hs
        exact selectSending_of_no_choice (.inr (.inl ⟨e, List.mem_of_find?_eq_some he,
          isSending_iff.1 (sending_isSending he)⟩))
      rw [hkept]
      refine h.of_up hup (hw := fun hw => ?_)
      obtain ⟨hpos, hr⟩ := h.write hw
      exact ⟨hpos, by rw [hbuilt hr]; exact hr⟩
  · rw [selectSending_of_no_choice (.inl hup), (settle_without_build s (.inl hup)).1]
    exact h

theorem finishBuild_lawful {s : State} (h : s.link.Lawful) (hr : s.link.replay ≠ none) (e : CommitEntry) (r : Replay) :
    (s.finishBuild e r).link.Lawful := by
  obtain ⟨r', hb | hb⟩ := finishBuild_eq s e r <;> rw [hb] <;> exact h.carry (hr := iff_of_false nofun hr)

theorem upsets_lawful {s : State} (h : s.link.Lawful) (us : List Upset) : (s.upsets us).link.Lawful := by
  unfold State.upsets
  induction us generalizing s with
  | nil => exact h
  | cons u us ih =>
    refine ih ?_
    cases u with
    | capture word bit => exact h
    | staging i slot check pos => exact h
    | replay check pos => exact h.carry (hr := Option.map_eq_none_iff)

/-! ### What leaves the link alone: capture memory and the preview reader (chapters 1 and 8) -/

/-- Changes made one after another leave the link alone if each one does. -/
theorem foldl_link {α : Type} {f : State → α → State} (h : ∀ (s : State) (a : α), (f s a).link = s.link) (l : List α)
    (s : State) : (l.foldl f s).link = s.link := by
  induction l generalizing s with
  | nil => rfl
  | cons a l ih => exact (ih _).trans (h s a)

theorem countUnits_link (s : State) (addr len : Nat) (us : List Nat) : (s.countUnits addr len us).link = s.link := by
  obtain ⟨g, d, h⟩ := countUnits_eq s addr len us
  rw [h]

theorem countStaging_link (s : State) (addrs : List Nat) : (s.countStaging addrs).link = s.link := by
  obtain ⟨g, d, h⟩ := countStaging_eq s addrs
  rw [h]

theorem writeFlush_link (s : State) (b : StageBuf) (addr : Nat) : (s.writeFlush b addr).link = s.link := by
  unfold State.writeFlush
  dsimp only
  refine (foldl_link (f := fun s (p : Nat × Nat) => s.countUncorrectable .staging p.2) (fun _ _ => rfl) _ _).trans ?_
  split <;> rfl

theorem previewReply_link (s : State) (p : Preview) : (s.previewReply p).link = s.link := (previewReply_keeps s p).1

theorem previewAdvance_link (fuel : Nat) (s : State) : (s.previewAdvance fuel).link = s.link := by
  induction fuel generalizing s with
  | zero => rfl
  | succ fuel ih =>
    unfold State.previewAdvance
    split
    · rfl
    · split
      · exact previewReply_link ..
      · exact (ih _).trans (countStaging_link ..)
      · dsimp only
        split
        · exact ih _
        · split
          · rfl
          · exact (ih _).trans (countStaging_link ..)

theorem previewRun_link (s : State) : s.previewRun.link = s.link := by
  unfold State.previewRun
  split
  · rfl
  · exact previewAdvance_link ..

theorem previewTake_link (s : State) (addr len : Nat) : (s.previewTake addr len).link = s.link := by
  unfold State.previewTake
  split
  · rfl
  · exact (previewRun_link _).trans (countUnits_link ..)

theorem previewSnap_link (s : State) (i : StreamId) : (s.previewSnap i).link = s.link := by
  obtain h | ⟨p, segs, -, -, h⟩ := previewSnap_cases s i <;> rw [h]

/-- The SENDING entry keeps its place and its state, and the buffer stays in use (R132, R165). -/
theorem drainTake_lawful {s : State} (h : s.link.Lawful) (addr len pos : Nat) :
    (s.drainTake addr len pos).link.Lawful := by
  unfold State.drainTake
  split
  · next e r he hr =>
    dsimp only
    have hread (tally : List (Nat × Nat)) (r' : Replay) : Link.Lawful
        { (s.link.modSending fun _ => { e with xfer := { e.xfer with tally := tally } }) with replay := some r' } := by
      refine h.carry (hs := sendings_modifyFirst fun f hf => ?_) (hr := iff_of_false nofun (by rw [hr]; nofun))
      rw [hf]
      exact sending_isSending (l := s.link) (e := e) he
    have hmark (t : State) (c : Bool) : (if c then t.modStream e.stream fun x =>
        { x with capture := markRetire (addr / blockBytes) x.capture } else t).link = t.link := by
      split <;> rfl
    have hlink (t : State) (c : Bool) : ((if c then t.modStream e.stream fun x =>
        { x with capture := markRetire (addr / blockBytes) x.capture } else t).countUnits addr len
          (unitsOf addr len)).link = t.link := (countUnits_link ..).trans (hmark t c)
    split
    · refine finishBuild_lawful ?_ ?_ _ _ <;> rw [hlink]
      · exact hread ..
      · exact nofun
    · rw [hlink]
      exact hread ..
  · exact h

/-! ### What leaves the link alone: the capture writer, lanes and AUX lines (chapters 2 and 3) -/

theorem startSeal_link (s : State) (i : StreamId) : (s.startSeal i).link = s.link := by rw [startSeal_eq]; rfl

theorem stopWriter_link (s : State) (i : StreamId) : (s.stopWriter i).link = s.link := by rw [stopWriter_eq]; rfl

theorem requestStop_link (s : State) (i : StreamId) (reason : CloseReason) :
    (s.requestStop i reason).link = s.link := by rw [requestStop_eq]; rfl

theorem resume_link (s : State) (i : StreamId) : (s.resume i).link = s.link := by
  unfold State.resume
  dsimp only
  split
  · split
    · next h => exact (take_writesOn h).link
    · rfl
  · rfl

theorem boundary_link (s : State) (i : StreamId) : (s.boundary i).link = s.link := by
  have hstep (t : State) : (t.decimateAt i).link = t.link := by
    rw [decimateAt_eq]
    split <;> rfl
  unfold State.boundary
  split
  · exact (resume_link _ i).trans (hstep _)
  · rfl

theorem lengthStop_link (s : State) (i : StreamId) : (s.lengthStop i).link = s.link := by
  unfold State.lengthStop
  dsimp only
  split
  · exact requestStop_link ..
  · rfl

theorem finishSample_link (s : State) (i : StreamId) : (s.finishSample i).link = s.link := by
  have hseal (t : State) : (if (t.stream i).blockFull then t.startSeal i else t).link = t.link := by
    split
    · exact startSeal_link t i
    · rfl
  have hstop (t : State) : (if (t.stream i).writer.stopReached then t.stopWriter i else t).link = t.link := by
    split
    · exact stopWriter_link t i
    · rfl
  unfold State.finishSample
  split
  · rfl
  · have hpast := ((placeSample_writesOn s i).trans (enterLaneMark_writesOn _ i)).trans (advance_writesOn _ i)
    exact (hstop _).trans ((lengthStop_link _ i).trans ((hseal _).trans hpast.link))

theorem sampleProcess_lawful {s : State} (h : s.link.Lawful) (i : StreamId) : (s.sampleProcess i).link.Lawful := by
  have hboundary : (s.boundary i).link.Lawful := by rwa [boundary_link]
  unfold State.sampleProcess
  dsimp only
  split
  · split
    · exact settle_lawful (by rwa [finishSample_link])
    · exact settle_lawful hboundary
  · exact h

theorem flushAgeExpiry_lawful {s : State} (h : s.link.Lawful) (i : StreamId) : (s.flushAgeExpiry i).link.Lawful := by
  unfold State.flushAgeExpiry
  dsimp only
  split
  · exact settle_lawful (by rwa [startSeal_link])
  · exact h

theorem afterFlush_link (s : State) (i : StreamId) : (s.afterFlush i).link = s.link := by
  unfold State.afterFlush
  dsimp only
  split
  · split
    · exact finishSample_link ..
    · rfl
  · rfl

theorem flushDone_lawful {s : State} (h : s.link.Lawful) (i : StreamId) (addr : Nat) (orphan : Option StageBuf) :
    (s.flushDone i addr orphan).link.Lawful := by
  have hwrite (b : StageBuf) : (s.writeFlush b addr).freePort.link = s.link := writeFlush_link ..
  unfold State.flushDone
  split
  · exact settle_lawful (by rwa [hwrite])
  · split
    · exact settle_lawful h
    · exact settle_lawful (by rwa [afterFlush_link, State.modWriter_link, hwrite])

theorem latchMarker_link (s : State) (i : StreamId) (index : Nat) (src : MarkSource) :
    (s.latchMarker i index src).link = s.link := by
  unfold State.latchMarker
  dsimp only
  split
  · split <;> rfl
  · rfl

theorem beatArrival_link (s : State) (i : StreamId) (beat : List Byte) (mark : Option Nat) :
    (s.beatArrival i beat mark).link = s.link := by
  unfold State.beatArrival
  dsimp only
  split
  · rfl
  · rfl
  · split <;> rfl
  · rfl
  · split <;> rfl

theorem beatTake_link (s : State) (i : StreamId) : (s.beatTake i).link = s.link := by
  unfold State.beatTake
  dsimp only
  split
  · rfl
  · split <;> rfl

theorem auxEdge_link (s : State) (line : AuxLine) (rising : Bool) : (s.auxEdge line rising).link = s.link := by
  unfold State.auxEdge
  split
  · refine foldl_link (fun s i => ?_) _ s
    unfold State.auxStream
    dsimp only
    split
    · rfl
    · split
      · exact latchMarker_link ..
      · rfl
  · rfl

/-! ### Run control (chapter 4) -/

theorem pfailAssert_lawful {s : State} (h : s.link.Lawful) : s.pfailAssert.link.Lawful := by
  have hstream (s : State) (i : StreamId) : (s.powerFailStream i).link = s.link := by
    unfold State.powerFailStream
    split
    · exact requestStop_link ..
    · rfl
    · rfl
  unfold State.pfailAssert
  split
  · exact h
  · refine settle_lawful ?_
    rw [State.raiseDev_link, foldl_link hstream]
    exact h

theorem pfailDeassert_link (s : State) : s.pfailDeassert.link = s.link := by
  unfold State.pfailDeassert
  split <;> rfl

/-- The STUCK entries of a stream change state, to one that is not SENDING (R76, R154). -/
theorem sendings_stuck (i : StreamId) {f : CommitEntry → CommitEntry} (h : ∀ e, (f e).st = .failed)
    (l : List CommitEntry) : sendings (l.map fun e => if e.stuckOf i then f e else e) = sendings l := by
  refine sendings_map (fun e => ?_) l
  split
  · next hstuck =>
    obtain ⟨-, hst⟩ : _ ∧ e.st = .stuck := by simpa [CommitEntry.stuckOf] using hstuck
    exact isSending_congr (by rw [h, hst]; exact iff_of_false nofun nofun)
  · rfl

theorem abortRun_lawful {s : State} (h : s.link.Lawful) (i : StreamId) : (s.abortRun i).link.Lawful := by
  have hsnap : (s.previewSnap i).link.Lawful := by rwa [previewSnap_link]
  unfold State.abortRun
  dsimp only
  split
  · exact hsnap.carry (hs := sendings_stuck i (f := CommitEntry.replaced) (fun _ => rfl) _)
  · exact hsnap

theorem streamSetup_link (s : State) (tag : Byte) (f : SetupFields) : (s.streamSetup tag f).link = s.link := by
  unfold State.streamSetup
  split
  · rfl
  · dsimp only
    split
    · rfl
    · split
      · rfl
      · split
        · rfl
        · split <;> rfl

theorem runStart_link (s : State) (tag : Byte) (f : StartFields) : (s.runStart tag f).link = s.link := by
  unfold State.runStart
  split
  · rfl
  · dsimp only
    split
    · rfl
    · split
      · rfl
      · split
        · rfl
        · split <;> rfl

theorem runStop_lawful {s : State} (h : s.link.Lawful) (tag stream : Byte) : (s.runStop tag stream).link.Lawful := by
  unfold State.runStop
  split
  · exact h
  · split
    · exact h
    · exact settle_lawful (by rwa [requestStop_link])
    · exact h

theorem runAbort_lawful {s : State} (h : s.link.Lawful) (tag stream : Byte) : (s.runAbort tag stream).link.Lawful := by
  unfold State.runAbort
  split
  · exact h
  · dsimp only
    split
    · exact h
    · exact settle_lawful (abortRun_lawful h _)
    · exact settle_lawful (abortRun_lawful h _)
    · exact h

/-! ### The cut and the re-placement (R104, R152) -/

theorem cutRecord_lawful {s : State} (h : s.link.Lawful) (i : StreamId) (n : NextRecord) :
    (s.cutRecord i n).link.Lawful := by
  have hlink := placeRequest_link s ((s.stream i).cutOf n).body.size
  cases hr : s.placeRequest ((s.stream i).cutOf n).body.size with
  | mk t answer =>
    rw [hr] at hlink
    have ht : t.link.Lawful := by rwa [show t.link = s.link from hlink]
    cases answer with
    | none => rw [cutRecord_of_no_space hr]; exact ht
    | some a =>
      rw [cutRecord_of_placed hr]
      refine settle_lawful (ht.carry (hs := ?_))
      exact sendings_append t.link.commit [((s.stream i).cutOf n).entry i a]

theorem cut_lawful {s : State} (h : s.link.Lawful) : s.cut.link.Lawful := by
  unfold State.cut
  split
  · split
    · exact h
    · split
      · exact h
      · exact cutRecord_lawful h ..
  · exact h

theorem rePlace_lawful {s : State} (h : s.link.Lawful) : s.rePlace.link.Lawful := by
  unfold State.rePlace
  split
  · exact h
  · split
    · exact h
    · next e _ =>
      have hlink : (s.placeRequest e.size).1.link.Lawful := by rwa [placeRequest_link]
      dsimp only
      split
      · exact hlink
      · refine settle_lawful (hlink.carry (hs := sendings_modifyFirst fun f hf => isSending_congr ?_))
        rw [isFailed_iff.1 hf]
        exact iff_of_false nofun nofun

/-! ### The archive link (chapter 7) -/

/-- A failed placement of the SENDING entry, its request answered: it is SENDING no more, and its transfer is given up
(R151). -/
theorem failSending_lawful {s : State} (h : s.link.Lawful) {e : CommitEntry} (he : s.link.sending = some e)
    (cause : FailCause) (code : Option Byte) :
    ((s.modLink Link.freeSlot).failEntry CommitEntry.isSending e cause code).link.Lawful := by
  rw [failEntry_link, isSending_iff.1 (sending_isSending he)]
  exact h.freed (hs := sendings_modifySending_le ..) (hr := fun _ => rfl)

/-- A failed placement of an entry that awaits its commit (R141, R142, R151). -/
theorem failAwaiting_lawful {s : State} (h : s.link.Lawful) {p : CommitEntry → Bool} {e : CommitEntry}
    (hfind : s.link.commit.find? p = some e) (hst : e.st = .awaitCommit) (cause : FailCause) (code : Option Byte) :
    (s.failEntry p e cause code).link.Lawful := by
  obtain ⟨he, before, after, hlist, hb⟩ := List.find?_eq_some_iff_append.1 hfind
  have hfailed : (e.failed cause code).isSending = e.isSending := by
    refine isSending_congr (iff_of_false ?_ (by rw [hst]; nofun))
    rw [CommitEntry.failed]
    split <;> nofun
  rw [failEntry_link, hst]
  refine h.carry (hs := ?_)
  rw [hlist, modifyFirst_at he fun f hf => by simpa using hb f hf, sendings_append, sendings_append, sendings_cons,
    sendings_cons, hfailed]

theorem trySend_lawful {s : State} (h : s.link.Lawful) : s.trySend.link.Lawful := by
  obtain hs | ⟨e, r, hmay, he, hr, -, ⟨-, hs⟩ | ⟨-, hs⟩⟩ := trySend_cases s <;> rw [hs]
  · exact h
  · obtain ⟨hup, -⟩ := mayWrite_iff.1 hmay
    refine h.of_up hup (hw := fun _ => ⟨sendings_pos he, ?_⟩)
    show s.link.replay ≠ none
    rw [hr]
    nofun
  · have hcount : (r.badRanges.foldl (fun s g =>
        s.countUncorrectable .replay (e.addr.getD 0 + r.off + 64 * g)) s).link = s.link :=
      foldl_link (f := fun s g => s.countUncorrectable .replay (e.addr.getD 0 + r.off + 64 * g)) (fun _ _ => rfl) _ s
    have hbusy : s.link.replay ≠ none := by rw [hr]; nofun
    rw [portGrant_link]
    unfold State.rebuild
    dsimp only
    split
    · refine finishBuild_lawful ?_ ?_ _ _ <;> rwa [hcount]
    · rw [State.modLink_link, hcount]
      exact h.carry (hr := iff_of_false nofun hbusy)

theorem durableQuerySend_lawful {s : State} (h : s.link.Lawful) : s.durableQuerySend.link.Lawful := by
  rw [durableQuerySend_eq]
  split
  · next hdue => exact h.of_up hdue.1 (hw := nofun)
  · exact h

theorem accept_lawful {s : State} (h : s.link.Lawful) : s.accept.link.Lawful := by
  obtain hs | hs | ⟨e, r, -, -, hs⟩ := accept_cases s <;> rw [hs]
  · exact h
  · exact h.freed (hs := Nat.le_refl _) (hr := id)
  · exact settle_lawful (h.freed (hs := sendings_modifySending_le ..) (hr := fun _ => rfl))

theorem freeSlot_lawful {s : State} (h : s.link.Lawful) : (s.modLink Link.freeSlot).link.Lawful :=
  h.freed (hs := Nat.le_refl _) (hr := id)

theorem retry_lawful {s : State} (h : s.link.Lawful) (us : List Upset) : (s.retry us).link.Lawful := by
  unfold State.retry
  split
  · dsimp only
    split
    · exact freeSlot_lawful h
    · next e he =>
      split
      · refine trySend_lawful (upsets_lawful ?_ us)
        exact h.freed (hs := sendings_modifySending_le ..) (hr := id)
      · exact settle_lawful (failSending_lawful h he ..)
  · exact h

theorem narrow_lawful {s : State} (h : s.link.Lawful) : s.narrow.link.Lawful := by
  unfold State.narrow
  split
  · dsimp only
    split
    · next e r he hr =>
      split
      · exact settle_lawful (h.freed (hs := sendings_modifySending_le ..) (hr := fun _ => rfl))
      · exact settle_lawful (failSending_lawful h he ..)
    · exact freeSlot_lawful h
  · exact h

theorem refuseWrite_lawful {s : State} (h : s.link.Lawful) (code : Byte) : (s.refuseWrite code).link.Lawful := by
  unfold State.refuseWrite
  split
  · dsimp only
    split
    · exact freeSlot_lawful h
    · next e he => exact settle_lawful (failSending_lawful h he ..)
  · exact h

theorem refusedMessage_lawful {s : State} (h : s.link.Lawful) (a : Nat) (code : Byte) :
    (s.refusedMessage a code).link.Lawful := by
  unfold State.refusedMessage
  split
  · split
    · exact h.carry
    · next e he => exact failAwaiting_lawful h he (awaits_iff.1 (List.find?_some he)).1 ..
  · exact h

theorem commitTimeout_lawful {s : State} (h : s.link.Lawful) (i : StreamId) (seq : Nat) :
    (s.commitTimeout i seq).link.Lawful := by
  unfold State.commitTimeout
  split
  · exact h
  · next e he =>
    split
    · next hwait => exact failAwaiting_lawful h he hwait.1 ..
    · exact h

/-- The entry named becomes COMMITTED, and entries leave, none of them SENDING (R140, R145). -/
theorem committed_lawful {s : State} (h : s.link.Lawful) (a : Nat) : (s.committed a).link.Lawful := by
  unfold State.committed
  split
  · split
    · exact h.carry
    · refine settle_lawful ?_
      rw [leave_link]
      refine h.carry (hs := (sendings_withoutLeaving ..).trans (sendings_modifyFirst fun f hf => isSending_congr ?_))
      rw [(awaits_iff.1 hf).1]
      exact iff_of_false nofun nofun
  · exact h

theorem raiseArchiveFaults_link (s : State) : s.raiseArchiveFaults.link = s.link := by
  obtain ⟨n, h, -⟩ := raiseArchiveFaults_eq s
  rw [h]

/-- The entries in flight return to READY (R127). -/
theorem sendings_returned (l : List CommitEntry) : sendings (l.map CommitEntry.returned) = 0 := by
  refine List.countP_eq_zero.2 fun f hf => ?_
  obtain ⟨e, -, rfl⟩ := List.mem_map.1 hf
  rw [isSending_iff, CommitEntry.returned]
  split
  · nofun
  · next hst => exact fun h => hst (.inl h)

theorem linkFault_lawful {s : State} (h : s.link.Lawful) (cause : LinkFault) : (s.linkFault cause).link.Lawful := by
  unfold State.linkFault
  split
  · rw [raiseArchiveFaults_link]
    exact .of_idle (sendings_returned _) rfl rfl
  · exact h

theorem linkDisable_lawful {s : State} (h : s.link.Lawful) : s.linkDisable.link.Lawful := by
  unfold State.linkDisable
  split
  · exact h
  · rw [raiseArchiveFaults_link]
    exact .of_idle (sendings_returned _) rfl rfl

theorem responseTimeout_lawful {s : State} (h : s.link.Lawful) : s.responseTimeout.link.Lawful := by
  unfold State.responseTimeout
  split
  · exact linkFault_lawful h _
  · exact h

/-- A link that is not UP goes to any other state: it holds nothing (R124 to R126). -/
theorem retrain_lawful {l m : Link} (h : l.Lawful) (hdown : l.state ≠ .up) (hc : m.commit = l.commit := by rfl)
    (hout : m.outstanding = l.outstanding := by rfl) (hr : m.replay = l.replay := by rfl) : m.Lawful := by
  obtain ⟨h1, h2, h3⟩ := h.down hdown
  exact .of_idle (hc ▸ h1) (hout.trans h2) (hr.trans h3)

theorem linkEnable_lawful {s : State} (h : s.link.Lawful) : s.linkEnable.link.Lawful := by
  unfold State.linkEnable
  split
  · next hst => exact retrain_lawful h (by rw [hst]; nofun)
  · exact h

theorem faultWaitEnd_lawful {s : State} (h : s.link.Lawful) : s.faultWaitEnd.link.Lawful := by
  unfold State.faultWaitEnd
  split
  · next hst => exact retrain_lawful h (by rw [hst]; nofun)
  · exact h

theorem trainingReply_lawful {s : State} (h : s.link.Lawful) : s.trainingReply.link.Lawful := by
  unfold State.trainingReply
  split
  · next hst => exact settle_lawful (retrain_lawful h (by rw [hst.1]; nofun))
  · exact h

theorem attemptEnd_lawful {s : State} (h : s.link.Lawful) : s.attemptEnd.link.Lawful := by
  unfold State.attemptEnd
  split
  · exact h.carry
  · exact h

theorem restEnd_lawful {s : State} (h : s.link.Lawful) : s.restEnd.link.Lawful := by
  unfold State.restEnd
  split
  · exact h.carry
  · exact h

theorem durable_lawful {s : State} (h : s.link.Lawful) : s.durable.link.Lawful := by
  unfold State.durable
  split
  · dsimp only
    split
    · exact (freeSlot_lawful h).carry
    · exact freeSlot_lawful h
  · exact h

theorem notYet_lawful {s : State} (h : s.link.Lawful) : s.notYet.link.Lawful := by
  unfold State.notYet
  split
  · dsimp only
    split
    · exact (freeSlot_lawful h).carry
    · exact freeSlot_lawful h
  · exact h

theorem pollWaitEnd_lawful {s : State} (h : s.link.Lawful) : s.pollWaitEnd.link.Lawful := by
  unfold State.pollWaitEnd
  split
  · exact h.carry
  · exact h

theorem syncTimeout_lawful {s : State} (h : s.link.Lawful) : s.syncTimeout.link.Lawful := by
  unfold State.syncTimeout
  split
  · exact h
  · exact h.carry

/-! ### Requests (chapters 1 and 6 to 10) -/

theorem drainResume_lawful {s : State} (h : s.link.Lawful) (tag stream : Byte) :
    (s.drainResume tag stream).link.Lawful := by
  unfold State.drainResume
  split
  · exact h
  · next i _ =>
    split
    · exact h.carry (hs := sendings_stuck i (f := CommitEntry.resumed) (fun _ => rfl) _)
    · exact h

theorem markNow_link (s : State) (tag stream : Byte) : (s.markNow tag stream).link = s.link := by
  unfold State.markNow
  split
  · rfl
  · dsimp only
    split
    · exact latchMarker_link ..
    · rfl

theorem windowGrant_link (s : State) (tag : Byte) (a n : BitVec 48) : (s.windowGrant tag a n).link = s.link := by
  unfold State.windowGrant
  split
  · rfl
  · split
    · rfl
    · split
      · rfl
      · exact evalLow_link _

theorem linkControl_lawful {s : State} (h : s.link.Lawful) (tag a : Byte) : (s.linkControl tag a).link.Lawful := by
  unfold State.linkControl
  split
  · exact linkEnable_lawful h
  · split
    · exact linkDisable_lawful h
    · exact h

theorem syncRequest_lawful {s : State} (h : s.link.Lawful) (tag mask : Byte) :
    (s.syncRequest tag mask).link.Lawful := by
  unfold State.syncRequest
  split
  · exact h
  · split
    · exact h
    · exact h.carry

theorem previewRequest_lawful {s : State} (h : s.link.Lawful) (tag stream sel : Byte) (maxBytes : BitVec 16)
    (index : BitVec 48) : (s.previewRequest tag stream sel maxBytes index).link.Lawful := by
  have hstart (i : StreamId) (plan : SpanPlan) : (s.previewStart i tag plan).link.Lawful := by
    unfold State.previewStart
    dsimp only
    refine settle_lawful ?_
    rw [previewRun_link]
    exact h
  unfold State.previewRequest
  split
  · exact h
  · dsimp only
    split
    · exact h
    · split
      · exact h
      · split
        · exact h
        · split
          · exact h
          · split
            · exact hstart ..
            · split
              · exact h
              · split
                · exact h
                · exact hstart ..

theorem timingSet_link (s : State) (tag f : Byte) (c y l : BitVec 32) : (s.timingSet tag f c y l).link = s.link := by
  unfold State.timingSet
  dsimp only
  split
  · rfl
  · exact evalLow_link _

theorem runRequest_lawful {s : State} (h : s.link.Lawful) (tag : Byte) (r : Request) :
    (s.runRequest tag r).link.Lawful := by
  have quiet {t : State} (ht : t.link = s.link) : t.link.Lawful := by rwa [ht]
  obtain ⟨haux, hstatus, hmask, htake, hsetup, hread, hinject⟩ := plainRequest_commit s tag
  cases r with
  | ident | reset => exact h
  | streamSetup f => exact quiet (streamSetup_link s tag f)
  | auxRoute line edge mask => exact quiet (haux ..)
  | runStart f => exact quiet (runStart_link s tag f)
  | runStop i => exact runStop_lawful h tag i
  | runAbort i => exact runAbort_lawful h tag i
  | drainResume i => exact drainResume_lawful h tag i
  | markNow i => exact quiet (markNow_link s tag i)
  | windowGrant a n => exact quiet (windowGrant_link s tag a n)
  | linkControl a => exact linkControl_lawful h tag a
  | sync m => exact syncRequest_lawful h tag m
  | preview i sel n x => exact previewRequest_lawful h tag i sel n x
  | status sel i => exact quiet (hstatus ..)
  | noticeMask e => exact quiet (hmask ..)
  | noticeTake e => exact quiet (htake ..)
  | errorSetup m c => exact quiet (hsetup ..)
  | errorRead m f => exact quiet (hread ..)
  | inject m t p a b => exact quiet (hinject ..)
  | timingSet f c y l => exact quiet (timingSet_link s tag f c y l)

/-! ### The control link (chapter 9) -/

theorem execute_lawful (fuel : Nat) {s : State} (h : s.link.Lawful) : (s.execute fuel).link.Lawful := by
  induction fuel generalizing s with
  | zero => exact h
  | succ fuel ih =>
    unfold State.execute
    split
    · exact h
    · next f rest hin =>
      split
      · refine ih ?_
        unfold State.runFrame
        split
        · exact h
        · exact h
        · exact runRequest_lawful (s := s.takeFrame rest) h ..
      · exact h

theorem submit_lawful {s : State} (h : s.link.Lawful) (f : InFrame) : (s.submit f).link.Lawful :=
  execute_lawful _ (s := s.modCtl fun c => c.file f) h

theorem writePeriodEnd_lawful {s : State} (h : s.link.Lawful) (bytes : List Byte) :
    (s.writePeriodEnd bytes).link.Lawful := by
  unfold State.writePeriodEnd
  split
  · exact h
  · exact h
  · exact submit_lawful h _

theorem reset_lawful : State.reset.link.Lawful := .of_idle rfl rfl rfl

theorem hardReset_lawful (s : State) (cause : ResetCause) : (s.hardReset cause).link.Lawful := by
  unfold State.hardReset
  rw [takePfail_link]
  exact reset_lawful

/-- After a RESET the link is empty, DISABLED or in training (R123, R189). -/
theorem softReset_lawful (s : State) : s.softReset.link.Lawful := by
  unfold State.softReset
  rw [takePfail_link]
  exact .of_idle rfl rfl rfl

theorem readPeriodEnd_lawful {s : State} (h : s.link.Lawful) (clocked : Nat) :
    (s.readPeriodEnd clocked).link.Lawful := by
  unfold State.readPeriodEnd
  split
  · exact h
  · dsimp only
    split
    · unfold State.removeHead
      split
      · exact h
      · split
        · exact softReset_lawful _
        · exact execute_lawful _ h
    · exact h

/-! ### Every step -/

theorem flushComplete_lawful {s t : State} (h : s.link.Lawful) {us : List Upset}
    (ht : execFlushComplete us s = .next t) : t.link.Lawful := by
  unfold execFlushComplete at ht
  split at ht
  · split at ht
    · obtain rfl := Host.Outcome.next.inj ht
      exact flushDone_lawful (upsets_lawful h us) ..
    · nomatch ht
  · obtain rfl := Host.Outcome.next.inj ht
    exact h

theorem drainReadComplete_lawful {s t : State} (h : s.link.Lawful) {us : List Upset}
    (ht : execDrainReadComplete us s = .next t) : t.link.Lawful := by
  unfold execDrainReadComplete at ht
  split at ht
  · split at ht
    · obtain rfl := Host.Outcome.next.inj ht
      refine settle_lawful ?_
      rw [State.freePort_link]
      split
      · exact drainTake_lawful (upsets_lawful h us) ..
      · rw [countUnits_link]
        exact upsets_lawful h us
    · nomatch ht
  · obtain rfl := Host.Outcome.next.inj ht
    exact h

theorem previewReadComplete_lawful {s t : State} (h : s.link.Lawful) {us : List Upset}
    (ht : execPreviewReadComplete us s = .next t) : t.link.Lawful := by
  unfold execPreviewReadComplete at ht
  split at ht
  · split at ht
    · obtain rfl := Host.Outcome.next.inj ht
      refine settle_lawful ?_
      split
      · rw [previewTake_link]
        exact upsets_lawful h us
      · rw [countUnits_link]
        exact upsets_lawful h us
    · nomatch ht
  · obtain rfl := Host.Outcome.next.inj ht
    exact h

/-- Every command keeps the law of the link. -/
theorem exec_lawful {s t : State} (h : s.link.Lawful) {c : Instr} (ht : exec c s = .next t) : t.link.Lawful := by
  have law {u : State} (k : u.link.Lawful) (hu : Host.Outcome.next u = (.next t : Result)) : t.link.Lawful := by
    obtain rfl := Host.Outcome.next.inj hu; exact k
  have quiet {u : State} (k : u.link = s.link) (hu : Host.Outcome.next u = (.next t : Result)) : t.link.Lawful :=
    law (by rwa [k]) hu
  cases c with
  | powerOn | rst => exact law (hardReset_lawful ..) ht
  | pfailAssert => exact law (pfailAssert_lawful h) ht
  | pfailDeassert => exact quiet (pfailDeassert_link s) ht
  | beatArrival lane beat mark => exact quiet (beatArrival_link s lane beat mark) ht
  | beatTake i => exact quiet (beatTake_link s i) ht
  | sampleProcess i => exact law (sampleProcess_lawful h i) ht
  | flushAgeExpiry i => exact law (flushAgeExpiry_lawful h i) ht
  | flushComplete us => exact flushComplete_lawful h ht
  | drainReadComplete us => exact drainReadComplete_lawful h ht
  | previewReadComplete us => exact previewReadComplete_lawful h ht
  | auxEdge line rising => exact quiet (auxEdge_link s line rising) ht
  | cut => exact law (cut_lawful h) ht
  | rePlacement => exact law (rePlace_lawful h) ht
  | gateEnd => exact quiet (u := s.gateEnd) (evalLow_link _) ht
  | writeSend us => exact law (trySend_lawful (upsets_lawful h us)) ht
  | durableQuerySend => exact law (durableQuerySend_lawful h) ht
  | accept => exact law (accept_lawful h) ht
  | retry us => exact law (retry_lawful h us) ht
  | narrow => exact law (narrow_lawful h) ht
  | refuse code => exact law (refuseWrite_lawful h code) ht
  | committed a => exact law (committed_lawful h a.toNat) ht
  | refused a code => exact law (refusedMessage_lawful h a.toNat code) ht
  | commitTimeout i seq => exact law (commitTimeout_lawful h i seq) ht
  | durable => exact law (durable_lawful h) ht
  | notYet => exact law (notYet_lawful h) ht
  | pollWaitEnd => exact law (pollWaitEnd_lawful h) ht
  | syncTimeout => exact law (syncTimeout_lawful h) ht
  | responseTimeout => exact law (responseTimeout_lawful h) ht
  | badFrame => exact law (linkFault_lawful h .badFrame) ht
  | trainingLost => exact law (linkFault_lawful h .trainingLost) ht
  | faultWaitEnd => exact law (faultWaitEnd_lawful h) ht
  | trainingReply => exact law (trainingReply_lawful h) ht
  | attemptEnd => exact law (attemptEnd_lawful h) ht
  | restEnd => exact law (restEnd_lawful h) ht
  | badOpener opener => exact quiet (by unfold State.badOpener; split <;> rfl) ht
  | writePeriodEnd bytes => exact law (writePeriodEnd_lawful h bytes) ht
  | readPeriodStart => exact quiet (u := s.readPeriodStart) rfl ht
  | readPeriodEnd clocked => exact law (readPeriodEnd_lawful h clocked) ht
  | unknownRequest | ident | streamSetup | auxRoute | runStart | runStop | runAbort | drainResume | markNow
  | windowGrant | linkControlEnable | linkControlDisable | sync | preview | statusDevice | statusStream | noticeMask
  | noticeTake | errorSetup | errorRead | inject | timingSet | reset => exact law (submit_lawful h _) ht

/-- Settles O57: an entry is chosen, a transfer begun and a request sent on a link that is UP alone; an answer frees the
slot before its entry is changed; a fault, a DISABLE and a reset leave nothing in flight. -/
theorem stepsKeepTheLink : Obligations.StepsKeepTheLink := by
  intro s t h ht
  have hlink := linkLaw_iff.1 h
  refine linkLaw_iff.2 ?_
  unfold step at ht
  split at ht
  · obtain rfl := Host.Outcome.next.inj ht
    exact hlink
  · next c rest hp => exact exec_lawful (s := { s with pending := rest }) hlink ht

end Sys2Proof.Machine
end
section
/-! SUPPORT. Link faults, the training cycle, and LINK_CONTROL, with the frames the host sends (R121, R122, R124 to
R127, R176, R177). -/

namespace Sys2Proof.Machine

/-! ### A link that goes down (R126, R127) -/

/-- A granted drain access goes on without its reader; any other access keeps its own (R19). -/
theorem orphanDrain_eq (p : Port) : p.orphanDrain = { p with granted := match p.granted with
    | some (.drain a n q _) => some (.drain a n q false)
    | g => g } := by
  obtain ⟨granted, rot, lastReader⟩ := p
  cases granted with
  | none => rfl
  | some access => cases access <;> rfl

theorem abandonLink_eq (s : State) : s.abandonLink = s.linkLost s.link.state := by
  rw [State.abandonLink, orphanDrain_eq]
  rfl

/-- The raises of ARCHIVE_FAULT are the same whatever becomes of the port and the link. -/
theorem raiseArchiveFaults_of_rest (s : State) (p : Port) (l : Link) :
    ({ s with port := p, link := l } : State).raiseArchiveFaults =
      { s.raiseArchiveFaults with port := p, link := l } := by
  refine List.foldl_hom (fun u : State => { u with port := p, link := l }) fun u i => ?_
  show (if (u.stream i).active then _ else _) = _
  split <;> rfl

/-- The notices after a fault or a DISABLE, which do not depend on what the link becomes (R124, R126). -/
theorem faultNotices (s : State) : ∃ n : Notices, s.notices.RaisedFor n .archiveFault
      (fun i => (s.stream i).phase = .running ∨ (s.stream i).phase = .closing) ∧
    ∀ p l, ({ s with port := p, link := l } : State).raiseArchiveFaults =
      { s with port := p, link := l, notices := n } := by
  obtain ⟨n, heq, hraised⟩ := raiseArchiveFaults_eq s
  refine ⟨n, hraised, fun p l => ?_⟩
  rw [raiseArchiveFaults_of_rest, heq]

theorem linkFault_of_up {s : State} (hup : s.link.state = .up) (cause : LinkFault) :
    s.linkFault cause = (({ s with
      port := (s.linkLost .faulted).port
      link := { (s.linkLost .faulted).link with
        faultCount := min 65535 (s.link.faultCount + 1), lastCause := some cause } } : State).raiseArchiveFaults) := by
  rw [State.linkFault, if_pos (isUp_iff.2 hup), abandonLink_eq]
  rfl

theorem linkFault_of_down {s : State} (hdown : s.link.state ≠ .up) (cause : LinkFault) : s.linkFault cause = s :=
  if_neg fun h => hdown (isUp_iff.1 h)

theorem responseTimeout_of_free {s : State} (h : s.link.outstanding = none) : s.responseTimeout = s := by
  rw [State.responseTimeout, h]
  rfl

theorem responseTimeout_of_outstanding {s : State} (h : s.link.outstanding ≠ none) :
    s.responseTimeout = s.linkFault .responseTimeout := if_pos (Option.isSome_iff_ne_none.2 h)

theorem responseTimeout_of_down {s : State} (hdown : s.link.state ≠ .up) : s.responseTimeout = s := by
  by_cases h : s.link.outstanding = none
  · exact responseTimeout_of_free h
  · rw [responseTimeout_of_outstanding h, linkFault_of_down hdown]

/-- Settles O52: a fault of a link that is UP with the notices it raises, and the training cycle by the phase it is
in. -/
theorem faultsAndTraining : Obligations.FaultsAndTraining := by
  refine ⟨fun s => ⟨fun hdown => ?_, fun hfree => congrArg Host.Outcome.next (responseTimeout_of_free hfree),
    fun hup => ?_, fun hst => congrArg Host.Outcome.next (if_pos hst),
    fun hst => congrArg Host.Outcome.next (if_neg hst)⟩, fun s => ⟨fun h => ?_, fun h => ?_,
    fun h => congrArg Host.Outcome.next (if_pos h), fun h => congrArg Host.Outcome.next (if_neg h)⟩⟩
  · exact ⟨congrArg Host.Outcome.next (linkFault_of_down hdown _),
      congrArg Host.Outcome.next (linkFault_of_down hdown _),
      congrArg Host.Outcome.next (responseTimeout_of_down hdown)⟩
  · obtain ⟨n, hraised, heq⟩ := faultNotices s
    refine ⟨n, hraised, ?_⟩
    intro t faulted
    have hfault (c : LinkFault) : s.linkFault c = faulted c := (linkFault_of_up hup c).trans (heq ..)
    exact ⟨congrArg Host.Outcome.next (hfault _), congrArg Host.Outcome.next (hfault _), fun hout =>
      congrArg Host.Outcome.next ((responseTimeout_of_outstanding hout).trans (hfault _))⟩
  · exact ⟨congrArg Host.Outcome.next (if_pos h), congrArg Host.Outcome.next (if_pos h)⟩
  · exact ⟨congrArg Host.Outcome.next (if_neg h), congrArg Host.Outcome.next (if_neg h)⟩

/-! ### The frames the host sends (R176, R177) -/

/-- A frame of at most 256 body bytes arrives as it was sent. -/
theorem receive_frameBytes {f : InFrame} (h : f.body.length ≤ 256) : receive (frameBytes f) = .frame f := by
  have hlen : leNat (leBytes 2 f.body.length) = f.body.length := by
    rw [leNat_leBytes]
    exact Nat.mod_eq_of_lt (by omega)
  let checked := f.kind :: f.tag :: (leBytes 2 f.body.length ++ f.body)
  let crc := leBytes 2 (crc16 checked).toNat
  have hcrc : leNat crc = (crc16 checked).toNat := by
    rw [leNat_leBytes]
    exact Nat.mod_eq_of_lt (crc16 checked).isLt
  have hrest : (f.body ++ crc).length = f.body.length + 2 := by rw [List.length_append, leBytes_length]
  change (if 256 < leNat (leBytes 2 f.body.length) then Received.framing
    else if (f.body ++ crc).length ≠ leNat (leBytes 2 f.body.length) + 2 then .framing
    else if leNat ((f.body ++ crc).drop (leNat (leBytes 2 f.body.length))) =
        (crc16 (f.kind :: f.tag :: (leBytes 2 f.body.length ++
          (f.body ++ crc).take (leNat (leBytes 2 f.body.length))))).toNat
      then .frame ⟨f.kind, f.tag, (f.body ++ crc).take (leNat (leBytes 2 f.body.length))⟩ else .crc) = _
  rw [hlen, if_neg (Nat.not_lt.2 h), if_neg (not_not.2 hrest), List.take_left, List.drop_left, if_pos hcrc]

/-- A write period that carries a request's frame is that request (R178). -/
theorem writePeriodEnd_request {s : State} (h : s.takesAtOnce) {tag : Byte} {r : Request}
    (hlen : (requestBody r).length ≤ 256) (hr : decodeFrame (requestFrame tag r) = .request r) :
    s.writePeriodEnd (frameBytes (requestFrame tag r)) = (s.takeFrame []).runRequest tag r := by
  rw [State.writePeriodEnd, receive_frameBytes hlen, ← submit_request h hr]

/-! ### LINK_CONTROL (R124, R206) -/

theorem linkDisable_of_enabled {s : State} (h : s.link.state ≠ .disabled) :
    s.linkDisable = (({ s with
      port := (s.linkLost .disabled).port, link := (s.linkLost .disabled).link } : State).raiseArchiveFaults) := by
  rw [State.linkDisable, if_neg h, abandonLink_eq]
  rfl

/-- The reply of a LINK_CONTROL taken at once carries the state the link has come to (R124). -/
theorem linkControl_reply {s t : State} (h : s.takesAtOnce) (tag : Byte)
    (ht : t.ctl = (s.takeFrame []).ctl := by rfl) :
    Host.Outcome.next (t.reply kindLinkControl tag .ok (byteField t.link.state.code ++ zeros 3)) =
      (.next (({ t with ctl := s.ctl } : State).answered 0x0A#8 tag 0#8
        [BitVec.ofNat 8 t.link.state.code, 0#8, 0#8, 0#8]) : Result) :=
  congrArg Host.Outcome.next (reply_of_taken h ht ..)

/-- Settles O14: the refusal of other actions, ENABLE by the state of the link, and DISABLE, which abandons what is in
flight. -/
theorem linkControlSwitches : Obligations.LinkControlSwitches := by
  intro tag s h
  have hdecode (a : Byte) : decodeFrame (requestFrame tag (.linkControl a)) = .request (.linkControl a) := rfl
  have hrun (a : Byte) : Host.Outcome.next (s.submit (requestFrame tag (.linkControl a))) =
      (.next ((s.takeFrame []).linkControl tag a) : Result) := congrArg Host.Outcome.next (submit_request h (hdecode a))
  have henable {t : State} (ht : (s.takeFrame []).linkEnable = t) : exec (.linkControlEnable tag) s =
      .next (t.reply kindLinkControl tag .ok (byteField t.link.state.code ++ zeros 3)) := by subst ht; exact hrun 1#8
  have hdisable {t : State} (ht : (s.takeFrame []).linkDisable = t) : exec (.linkControlDisable tag) s =
      .next (t.reply kindLinkControl tag .ok (byteField t.link.state.code ++ zeros 3)) := by subst ht; exact hrun 2#8
  refine ⟨fun a h1 h2 => ?_, fun hoff => ⟨?_, ?_⟩, fun hon => ⟨?_, ?_⟩⟩
  · have hframe := writePeriodEnd_request h (r := .linkControl a) (tag := tag) (by simp [requestBody]) (hdecode a)
    refine (congrArg Host.Outcome.next (hframe.trans ((if_neg h1).trans (if_neg h2)))).trans ?_
    exact refuse_at_once h kindLinkControl tag .range
  · exact (henable (if_pos hoff)).trans (linkControl_reply h tag)
  · refine (hdisable (t := s.takeFrame []) (if_pos hoff)).trans ((linkControl_reply h tag).trans ?_)
    rw [show (s.takeFrame []).link.state = .disabled from hoff]
    rfl
  · exact (henable (t := s.takeFrame []) (if_neg hon)).trans (linkControl_reply h tag)
  · obtain ⟨n, hraised, heq⟩ := faultNotices (s.takeFrame [])
    have hdown := (linkDisable_of_enabled (s := s.takeFrame []) hon).trans (heq ..)
    exact ⟨n, hraised, (hdisable hdown).trans (linkControl_reply h tag)⟩

end Sys2Proof.Machine
end
section
/-! SUPPORT. REFUSE, and the third failure of a placement (R139, R151, R153). -/

namespace Sys2Proof.Machine

/-! ### REFUSE (R139) -/

/-- No answer to a WRITE is taken while the link is not UP or no WRITE is outstanding (R121, R122). -/
theorem not_writeAnswer {l : Link} (h : l.state ≠ .up ∨ l.writeOut = false) : ¬ (l.isUp && l.writeOut) = true := by
  intro hanswer
  obtain ⟨hup, hout⟩ := writeAnswer_iff.1 hanswer
  exact h.elim (· hup) fun h => nomatch h.symm.trans hout

theorem refuseWrite_ignored {s : State} (h : s.link.state ≠ .up ∨ s.link.writeOut = false) (code : Byte) :
    s.refuseWrite code = s := if_neg (not_writeAnswer h)

theorem refuseWrite_of_out {s : State} {e : CommitEntry} (hup : s.link.state = .up) (hout : s.link.writeOut = true)
    (he : s.link.sending = some e) (code : Byte) : s.refuseWrite code =
      ((s.modLink Link.freeSlot).failEntry CommitEntry.isSending e .refuse (some code)).settle := by
  rw [State.refuseWrite, if_pos (writeAnswer_iff.2 ⟨hup, hout⟩), he]

/-- Settles O49: a REFUSE that answers a WRITE fails the placement of the SENDING entry. -/
theorem refuseFailsThePlacement : Obligations.RefuseFailsThePlacement := by
  refine fun code s => ⟨fun h => congrArg Host.Outcome.next (refuseWrite_ignored h code),
    fun e a hup hout he haddr => ?_⟩
  have hst : e.st = .sending := isSending_iff.1 (sending_isSending he)
  rw [← failEntry_of_sending _ _ hst haddr]
  exact congrArg Host.Outcome.next (refuseWrite_of_out hup hout he code)

/-! ### The third failure (R153) -/

/-- The third failure blocks the drain of the entry's stream and raises its ARCHIVE_FAULT, after what any failure does,
which raises no notice. -/
theorem failEntry_of_third (s : State) (p : CommitEntry → Bool) {e : CommitEntry} (h : ¬ e.placements < 3)
    (cause : FailCause) (code : Option Byte) : ∃ u : State, u.notices = s.notices ∧ s.failEntry p e cause code =
      (u.modStream e.stream fun x => { x with drain := .blocked }).raise e.stream .archiveFault := by
  have hbuffer (t : State) : (if e.st = .sending then
      { t with port := t.port.orphanDrain, link := { t.link with replay := none } } else t).notices = t.notices := by
    split <;> rfl
  have hdead (t : State) : (match e.addr with | none => t | some a => t.deadSpan a e.size : State).notices =
      t.notices := by
    split <;> rfl
  refine ⟨_, ?_, if_neg h⟩
  exact (hdead _).trans (hbuffer _)

/-- A stream whose drain is BLOCKED with an ARCHIVE_FAULT raised for it. -/
theorem blocked_raised (u : State) (i : StreamId) :
    let t := (u.modStream i fun x => { x with drain := .blocked }).raise i .archiveFault
    (t.stream i).drain = .blocked ∧
      t.notices.streamCount i .archiveFault = min 65535 (u.notices.streamCount i .archiveFault + 1) := by
  have hself := State.modStream_stream_self u i fun x => { x with drain := .blocked }
  refine ⟨congrArg Stream.drain hself, ?_⟩
  exact (Notices.raiseStream_streamCount ..).trans (if_pos ⟨rfl, rfl⟩)

/-- The stream chosen is not BLOCKED (R103, R153). -/
theorem chooseStream_ne_of_blocked {s : State} {i : StreamId} (h : (s.stream i).drain = .blocked) :
    s.chooseStream ≠ some i := by
  intro hi
  obtain ⟨hready, -⟩ := chooseStream_spec hi
  obtain ⟨hflowing, -⟩ := mem_readyStreams.1 hready
  exact nomatch h.symm.trans hflowing

/-- Settles O50: the SENDING entry refused at its third placement, and the choice of the cutter. -/
theorem thirdFailureSticks : Obligations.ThirdFailureSticks := by
  refine ⟨fun code s before e after hup hout hlist hst hbefore hthird => ?_, fun s i => chooseStream_ne_of_blocked⟩
  have hbefore (f) (hf : f ∈ before) : f.isSending = false := isSending_of_st (hbefore f hf)
  have he : s.link.sending = some e := by rw [Link.sending, hlist, find?_at (isSending_iff.2 hst) hbefore]
  have hlast : ¬ e.placements < 3 := by omega
  let t := (s.modLink Link.freeSlot).failEntry CommitEntry.isSending e .refuse (some code)
  let f := e.failed .refuse (some code)
  have hcommit : t.link.commit = before ++ f :: after := by
    refine (congrArg Link.commit (failEntry_link ..)).trans ?_
    exact (congrArg (modifyFirst _ _) hlist).trans (modifyFirst_at (isSending_iff.2 hst) hbefore)
  have hat : t.link.commit[before.length]? = some f := by rw [hcommit]; simp
  have hstuck : f.st = .stuck := if_neg hlast
  obtain ⟨u, hu, ht⟩ := failEntry_of_third (s.modLink Link.freeSlot) CommitEntry.isSending hlast .refuse (some code)
  obtain ⟨hdrain, hfault⟩ := blocked_raised u e.stream
  rw [← ht] at hdrain hfault
  refine ⟨t.settle, f, congrArg Host.Outcome.next (refuseWrite_of_out hup hout he code), ?_, hstuck, rfl, rfl, rfl, rfl,
    rfl, ?_, ?_⟩
  · rw [settle_commit]
    exact (selectSending_getElem? hat).resolve_right fun ⟨hready, _⟩ => nomatch hstuck.symm.trans hready
  · rw [settle_stream]
    exact hdrain
  · rw [settle_streamCount]
    rw [hu] at hfault
    exact hfault

end Sys2Proof.Machine
end
section
/-! SUPPORT. The transfers of a record, and what an ACCEPT adds to it (R131, R134, R137, R162, R163). -/

namespace Sys2Proof.Machine

/-! ### The series of transfers (R131) -/

section Lengths

variable {e : CommitEntry}

theorem transferLen_of_wide (h : e.xfer.narrow = false ∧ 4096 ≤ e.size - e.xfer.accepted) : e.transferLen = 4096 := by
  obtain ⟨hwide, hleft⟩ := h
  rw [CommitEntry.transferLen, hwide, decide_eq_true hleft]
  rfl

theorem transferLen_of_short (h : e.xfer.narrow = true ∨ e.size - e.xfer.accepted < 4096) : e.transferLen = 512 := by
  refine if_neg fun hwide => ?_
  obtain ⟨hno, hleft⟩ := Bool.and_eq_true_iff.1 hwide
  obtain h | h := h
  · rw [h] at hno
    nomatch hno
  · exact Nat.not_le.2 h (of_decide_eq_true hleft)

end Lengths

/-- The transfers of what is left of a record without NARROW: those of 4,096 bytes first, then those of 512 (R131). -/
theorem transferLengths_eq {fuel : Nat} {e : CommitEntry} (hnarrow : e.xfer.narrow = false)
    (hfuel : e.size - e.xfer.accepted < fuel) (hunits : (e.size - e.xfer.accepted) % 512 = 0) :
    transferLengths fuel e = List.replicate ((e.size - e.xfer.accepted) / 4096) 4096 ++
      List.replicate ((e.size - e.xfer.accepted) % 4096 / 512) 512 := by
  induction fuel generalizing e with
  | zero => exact absurd hfuel (Nat.not_lt_zero _)
  | succ fuel ih =>
    generalize hleft : e.size - e.xfer.accepted = left at hfuel hunits ⊢
    rw [transferLengths]
    by_cases hdone : e.size ≤ e.xfer.accepted
    · obtain rfl : left = 0 := by omega
      exact if_pos hdone
    · rw [if_neg hdone]
      have hrest {n : Nat} (hn : e.size - (e.xfer.accepted + n) = left - n) (hlt : left - n < fuel)
          (hmod : (left - n) % 512 = 0) :
          transferLengths fuel { e with xfer := { e.xfer with accepted := e.xfer.accepted + n } } =
            List.replicate ((left - n) / 4096) 4096 ++ List.replicate ((left - n) % 4096 / 512) 512 := by
        rw [← hn] at hlt hmod ⊢
        exact ih hnarrow hlt hmod
      by_cases hwide : 4096 ≤ left
      · rw [transferLen_of_wide ⟨hnarrow, hleft ▸ hwide⟩, hrest (by omega) (by omega) (by omega),
          show left / 4096 = (left - 4096) / 4096 + 1 by omega, show left % 4096 = (left - 4096) % 4096 by omega,
          List.replicate_succ, List.cons_append]
      · rw [transferLen_of_short (.inr (by omega)), hrest (by omega) (by omega) (by omega),
          show left / 4096 = 0 by omega, show (left - 512) / 4096 = 0 by omega,
          show left % 4096 / 512 = (left - 512) % 4096 / 512 + 1 by omega, List.replicate_zero, List.nil_append,
          List.nil_append, List.replicate_succ]

/-- A whole and clean transfer of the SENDING entry goes out. -/
theorem sendIfClean_of_clean {s : State} {e : CommitEntry} {r : Replay} (he : s.link.sending = some e)
    (hr : s.link.replay = some r) (hready : r.ready = true) (hclean : r.badRanges = []) :
    s.sendIfClean = s.modLink fun l =>
      { l with outstanding := some (.write (e.addr.getD 0 + r.off) (e.readOut r)) } := by
  simp [State.sendIfClean, he, hr, hready, hclean]

/-- Settles O44: the length of a transfer by NARROW and what is left, its address, and the series to the end of the
record. -/
theorem transfersFollowTheRule : Obligations.TransfersFollowTheRule := by
  refine fun e => ⟨transferLen_of_wide, transferLen_of_short, rfl, rfl, fun s r a he hr haddr hready hclean hoff => ?_,
    fun hstart hnarrow hunits => ?_⟩
  · rw [sendIfClean_of_clean he hr hready hclean, haddr, hoff]
    rfl
  · have hleft : e.size - e.xfer.accepted = e.size := by omega
    have hseries := transferLengths_eq (fuel := e.size + 1) hnarrow (by omega) (by omega)
    rw [hleft] at hseries
    refine ⟨hseries, ?_⟩
    rw [hseries, List.sum_append, List.sum_replicate, List.sum_replicate, smul_eq_mul, smul_eq_mul]
    omega

/-! ### Damage spans (R162, R163) -/

section Spans

variable {p q : Span} {spans init : List Span} (o : Bool) (hs : spans = init ++ [q])
include hs

theorem addSpans_last : addSpans [p] spans o =
    if p.off ≤ q.off + q.count then
      (init ++ [{ q with count := max (q.off + q.count) (p.off + p.count) - q.off }], o)
    else if spans.length < 8 then (spans ++ [p], o)
    else (init ++ [{ q with count := max (q.off + q.count) (p.off + p.count) - q.off }], true) := by
  subst hs
  change addSpan p (init ++ [q]) o = _
  rw [addSpan, List.getLast?_concat, modifyLast_append]
  rfl

/-- A span that begins within the last one or at its end extends it (R162). -/
theorem addSpans_touching (h : p.off ≤ q.off + q.count) : addSpans [p] spans o =
    (init ++ [{ q with count := max (q.off + q.count) (p.off + p.count) - q.off }], o) :=
  (addSpans_last o hs).trans (if_pos h)

theorem addSpans_apart (h : q.off + q.count < p.off) (hroom : spans.length < 8) :
    addSpans [p] spans o = (spans ++ [p], o) :=
  (addSpans_last o hs).trans ((if_neg (Nat.not_le.2 h)).trans (if_pos hroom))

/-- Past 8 spans the eighth takes in what follows it (R163). -/
theorem addSpans_full (h : q.off + q.count < p.off) (hfull : 8 ≤ spans.length) : addSpans [p] spans o =
    (init ++ [{ q with count := max (q.off + q.count) (p.off + p.count) - q.off }], true) :=
  (addSpans_last o hs).trans ((if_neg (Nat.not_le.2 h)).trans (if_neg (Nat.not_lt.2 hfull)))

end Spans

/-! ### ACCEPT (R134, R137) -/

theorem accept_ignored {s : State} (h : s.link.state ≠ .up ∨ s.link.writeOut = false) : s.accept = s :=
  if_neg (not_writeAnswer h)

section Accepted

variable {s : State} {e : CommitEntry} {r : Replay} {a : Nat} {bytes : List Byte}

/-- The ACCEPT of a transfer: the SENDING entry goes on, by the bytes as they were sent (R134). -/
theorem accept_of_out (hup : s.link.state = .up) (hout : s.link.outstanding = some (.write a bytes))
    (he : s.link.sending = some e) (hr : s.link.replay = some r) :
    s.accept = ({ s with link := { s.link with
      outstanding := none, replay := none,
      commit := modifyFirst CommitEntry.isSending (fun _ => e.afterAccept r bytes s.ctl.timing.commit)
        s.link.commit } } : State).settle := by
  have hwrite : s.link.writeOut = true := by rw [Link.writeOut, hout]
  have hsent : s.link.sentBytes = bytes := by rw [Link.sentBytes, hout]
  rw [State.accept, if_pos (writeAnswer_iff.2 ⟨hup, hwrite⟩), he, hr]
  dsimp only
  rw [← hsent]
  rfl

variable (hoff : r.off = e.xfer.accepted) (timeout : Nat)
include hoff

theorem afterAccept_of_more (hmore : e.xfer.accepted + r.len ≠ e.size) : e.afterAccept r bytes timeout =
    let total := addSpans r.held e.xfer.spans e.xfer.overflow
    { e with xfer := { e.xfer with
      accepted := e.xfer.accepted + r.len, retry := 0, crc := crc32Over e.xfer.crc bytes,
      spans := total.1, overflow := total.2 } } := by
  have hlast : r.isLast e = false := decide_eq_false (hoff ▸ hmore)
  rw [CommitEntry.afterAccept, hlast]
  exact if_neg hmore

/-- The last transfer: its CRC field is not part of the CRC, and the entry awaits its commit (R106, R137). -/
theorem afterAccept_of_last (hall : e.xfer.accepted + r.len = e.size) : e.afterAccept r bytes timeout =
    let total := addSpans r.held e.xfer.spans e.xfer.overflow
    { e with
      xfer := { e.xfer with
        accepted := e.xfer.accepted + r.len, retry := 0, crc := crc32Over e.xfer.crc (bytes.take (r.len - 4)),
        spans := total.1, overflow := total.2 }
      st := .awaitCommit, timer := some timeout } := by
  have hlast : r.isLast e = true := decide_eq_true (hoff ▸ hall)
  rw [CommitEntry.afterAccept, hlast]
  exact if_pos hall

end Accepted

/-- Settles O48: the spans by where one begins, and the SENDING entry by whether its record is whole. -/
theorem acceptAdvancesTheRecord : Obligations.AcceptAdvancesTheRecord := by
  refine ⟨fun p spans o => ⟨fun hs => by subst hs; rfl, fun init q hs => ⟨addSpans_touching o hs, addSpans_apart o hs,
    addSpans_full o hs⟩, fun held => rfl, fun h held => addSpans_length_le held spans o h⟩, fun s =>
    ⟨fun h => congrArg Host.Outcome.next (accept_ignored h), fun e r a bytes hup hout he hr hoff => ?_⟩⟩
  have haccept := accept_of_out hup hout he hr
  refine ⟨fun hmore => congrArg Host.Outcome.next ?_, fun hall => congrArg Host.Outcome.next ?_⟩
  · rw [afterAccept_of_more hoff _ hmore] at haccept
    exact haccept
  · rw [afterAccept_of_last hoff _ hall] at haccept
    exact haccept

end Sys2Proof.Machine
end
section
/-! SUPPORT. Upsets of the replay buffer: the parity of a word after a flip, the ranges found damaged at a read-out, and
the rebuild of a record without payload (R136, R157, R169). -/

namespace Sys2Proof.Machine

/-! ### The parity of a word after a flip (R169) -/

/-- A test changed at one element of a list without repetitions holds of one element more, or of one less. -/
theorem countP_flip {l : List Nat} (hl : l.Nodup) {p p' : Nat → Bool} {j : Nat} (hj : j ∈ l)
    (hp : ∀ i ∈ l, p' i = (p i ^^ decide (i = j))) : (l.countP p' + l.countP p) % 2 = 1 := by
  have hsame {m : List Nat} (hm : j ∉ m) (h : ∀ i ∈ m, p' i = (p i ^^ decide (i = j))) : m.countP p' = m.countP p := by
    refine List.countP_congr fun i hi => ?_
    rw [h i hi, decide_eq_false (ne_of_mem_of_not_mem hi hm), Bool.xor_false]
  induction l with
  | nil => nomatch hj
  | cons i l ih =>
    obtain ⟨hi, hl⟩ := List.nodup_cons.1 hl
    obtain ⟨hpi, hrest⟩ := List.forall_mem_cons.1 hp
    rw [List.countP_cons, List.countP_cons, hpi]
    obtain rfl | hj := List.mem_cons.1 hj
    · rw [hsame hi hrest, decide_eq_true rfl]
      cases p j <;> simp <;> omega
    · have hij : i ≠ j := fun h => hi (h ▸ hj)
      have hodd := ih hl hj hrest
      rw [decide_eq_false hij, Bool.xor_false]
      omega

/-- One bit of a byte inverted changes whether its count of ones is odd. -/
theorem bitCount_flip (x : Byte) {j : Nat} (hj : j < 8) : (bitCount (x ^^^ (1#8 <<< j)) + bitCount x) % 2 = 1 := by
  rw [bitCount, bitCount, ← List.countP_eq_length_filter, ← List.countP_eq_length_filter]
  refine countP_flip List.nodup_range (List.mem_range.2 hj) fun i hi => ?_
  have hone := flipBit_getLsbD [x] 0 j 0 i (by simp) (List.mem_range.1 hi)
  simpa [flipBit, Nat.div_eq_of_lt hj, Nat.mod_eq_of_lt hj] using hone

theorem parityOf_flipBit {bs : List Byte} {q : Nat} (h : q / 8 < bs.length) :
    parityOf (flipBit bs 0 q) = !parityOf bs := by
  have hsplit : bs = bs.take (q / 8) ++ bs[q / 8] :: bs.drop (q / 8 + 1) := by simp
  have hflip := bitCount_flip bs[q / 8] (Nat.mod_lt q (by decide : 8 > 0))
  rw [parityOf, parityOf, flipBit, Nat.zero_add, List.modify_eq_take_cons_drop h]
  conv_rhs => rw [hsplit]
  simp only [List.map_append, List.map_cons, List.sum_append, List.sum_cons]
  rw [Bool.eq_iff_iff]
  simp only [beq_iff_eq, Bool.not_eq_true', beq_eq_false_iff_ne]
  omega

/-- A flip is within one word of 8 bytes. -/
theorem slice_flipBit (bs : List Byte) (q w : Nat) : slice (flipBit bs 0 q) (8 * w) 8 =
    if q / 64 = w then flipBit (slice bs (8 * w) 8) 0 (q % 64) else slice bs (8 * w) 8 := by
  refine List.ext_getElem? fun p => ?_
  have hat : (slice (flipBit bs 0 q) (8 * w) 8)[p]? =
      if p < 8 then (fun x => if q / 8 = 8 * w + p then x ^^^ (1#8 <<< (q % 8)) else x) <$> bs[8 * w + p]?
      else none := by
    rw [slice, flipBit, List.getElem?_take, List.getElem?_drop, List.getElem?_modify, Nat.zero_add]
  have hslice : (slice bs (8 * w) 8)[p]? = if p < 8 then bs[8 * w + p]? else none := by
    rw [slice, List.getElem?_take, List.getElem?_drop]
  rw [hat]
  by_cases hw : q / 64 = w
  · rw [if_pos hw, flipBit, List.getElem?_modify, hslice, Nat.zero_add, show q % 64 % 8 = q % 8 by omega]
    split
    · simp only [show (q / 8 = 8 * w + p) ↔ (q % 64 / 8 = p) by omega]
    · rfl
  · rw [if_neg hw, hslice]
    split
    · simp only [show ¬ q / 8 = 8 * w + p by omega, if_false]
      exact id_map _
    · rfl

/-- A flip changes the parity of its word and of no other. -/
theorem parityOf_slice_flipBit {bs : List Byte} {q w : Nat} (hw : 8 * w + 8 ≤ bs.length) :
    parityOf (slice (flipBit bs 0 q) (8 * w) 8) = (parityOf (slice bs (8 * w) 8) ^^ decide (w = q / 64)) := by
  rw [slice_flipBit]
  split
  · next h =>
    rw [parityOf_flipBit (by simp [slice]; omega), decide_eq_true h.symm, Bool.xor_true]
  · next h => rw [decide_eq_false (Ne.symm h), Bool.xor_false]

theorem parityBits_getElem? (bs : List Byte) (w : Nat) :
    (parityBits bs)[w]? = if w < bs.length / 8 then some (parityOf (slice bs (8 * w) 8)) else none := by
  rw [parityBits, List.getElem?_map]
  split
  · next h => rw [List.getElem?_range h]; rfl
  · next h => rw [List.getElem?_eq_none (by simpa using h)]; rfl

/-! ### The words of the replay buffer that fail their parity (R169) -/

/-- Word `w` of the buffer fails its parity. -/
def Replay.badWord (r : Replay) (w : Nat) : Bool := parityOf (slice r.bytes (8 * w) 8) != r.parity.getD w false

theorem mem_badRanges {r : Replay} {g : Nat} :
    g ∈ r.badRanges ↔ g < r.len / 64 ∧ ∃ k < 8, r.badWord (8 * g + k) = true := by
  simp [Replay.badRanges, Replay.badWord]

theorem badRanges_sorted (r : Replay) : r.badRanges.Pairwise (· < ·) := List.pairwise_lt_range.filter _

/-- The buffer after an upset at a position of its bytes or of its parity bits. -/
def Replay.upset (r : Replay) (check : Bool) (pos : Nat) : Replay :=
  if check then { r with parity := flipParity r.parity pos } else { r with bytes := flipBit r.bytes 0 pos }

/-- The word that an upset is in: eight parity bits, or 512 data bits, to a range. -/
def upsetWord (check : Bool) (pos : Nat) : Nat := if check then pos else pos / 64

theorem upset_badWord {r : Replay} {w : Nat} (hw : 8 * w + 8 ≤ r.bytes.length) (hp : w < r.parity.length)
    (check : Bool) (pos : Nat) :
    (r.upset check pos).badWord w = (r.badWord w ^^ decide (w = upsetWord check pos)) := by
  have hbne (x y z : Bool) : ((x ^^ z) != y) = ((x != y) ^^ z) ∧ (x != (y ^^ z)) = ((x != y) ^^ z) := by
    cases x <;> cases y <;> cases z <;> decide
  cases check with
  | true =>
    change (_ != (flipParity r.parity pos).getD w false) = _
    rw [flipParity_getD _ _ _ hp]
    exact (hbne ..).2
  | false =>
    change (parityOf (slice (flipBit r.bytes 0 pos) (8 * w) 8) != _) = _
    rw [parityOf_slice_flipBit hw]
    exact (hbne ..).1

@[simp] theorem upset_bytes_length (r : Replay) (check : Bool) (pos : Nat) :
    (r.upset check pos).bytes.length = r.bytes.length := by
  cases check
  · exact flipBit_length ..
  · rfl

@[simp] theorem upset_parity_length (r : Replay) (check : Bool) (pos : Nat) :
    (r.upset check pos).parity.length = r.parity.length := by
  cases check
  · rfl
  · exact flipParity_length ..

/-! ### The buffer of a record without payload -/

/-- The buffer with a whole record of 512 bytes without payload. -/
def CommitEntry.plainReplay (e : CommitEntry) : Replay :=
  ⟨0, 512, e.plainBytes, parityBits e.plainBytes, true, [], [], none⟩

section Plain

variable {e : CommitEntry} (h : e.IsPlain)
include h

theorem plainBytes_length : e.plainBytes.length = 512 := by
  have hfront : e.plainFront.length = 508 := plainFront_length h.body
  change (e.plainFront ++ leBytes 4 (crc32 e.plainFront).toNat).length = 512
  rw [List.length_append, leBytes_length, hfront]

theorem plainReplay_parity_length : e.plainReplay.parity.length = 64 := by
  rw [CommitEntry.plainReplay, parityBits, List.length_map, List.length_range, plainBytes_length h]

theorem plainReplay_badWord {w : Nat} (hw : w < 64) : e.plainReplay.badWord w = false := by
  have hget : e.plainReplay.parity.getD w false = parityOf (slice e.plainBytes (8 * w) 8) := by
    change (parityBits e.plainBytes).getD w false = _
    rw [List.getD_eq_getElem?_getD, parityBits_getElem?, plainBytes_length h, if_pos hw]
    rfl
  rw [Replay.badWord, hget]
  exact bne_self_eq_false _

/-- An upset is in one word of the buffer. -/
theorem plainUpset_badWord (check : Bool) (pos : Nat) {w : Nat} (hw : w < 64) :
    (e.plainReplay.upset check pos).badWord w = decide (w = upsetWord check pos) := by
  have hbytes : e.plainReplay.bytes.length = 512 := plainBytes_length h
  have hlast : 8 * w + 8 ≤ e.plainReplay.bytes.length := by omega
  rw [upset_badWord hlast (by rwa [plainReplay_parity_length h]), plainReplay_badWord h hw, Bool.false_xor]

/-- One upset damages one range. -/
theorem plainUpset_badRanges {check : Bool} {pos : Nat} (hpos : upsetWord check pos < 64) :
    (e.plainReplay.upset check pos).badRanges = [upsetWord check pos / 8] := by
  have hlen : (e.plainReplay.upset check pos).len = 512 := by cases check <;> rfl
  refine List.Pairwise.eq_of_mem_iff (badRanges_sorted _) (List.pairwise_singleton ..) fun g => ?_
  rw [mem_badRanges, hlen, List.mem_singleton]
  constructor
  · rintro ⟨hg, k, hk, hbad⟩
    rw [plainUpset_badWord h check pos (by omega), decide_eq_true_iff] at hbad
    omega
  · rintro rfl
    refine ⟨by omega, upsetWord check pos % 8, Nat.mod_lt _ (by decide), ?_⟩
    rw [Nat.div_add_mod, plainUpset_badWord h check pos hpos, decide_eq_true rfl]

/-- Two flips in one word pass its parity (R169). -/
theorem plainUpset_twice {q q' : Nat} (hword : q' / 64 = q / 64) :
    ((e.plainReplay.upset false q).upset false q').badRanges = [] := by
  have hbytes : e.plainReplay.bytes.length = 512 := plainBytes_length h
  refine List.eq_nil_iff_forall_not_mem.2 fun g hg => ?_
  obtain ⟨hg, k, hk, hbad⟩ := mem_badRanges.1 hg
  have hw : 8 * g + k < 64 := by
    have hlen : ((e.plainReplay.upset false q).upset false q').len = 512 := rfl
    omega
  rw [upset_badWord (by rw [upset_bytes_length]; omega)
    (by rwa [upset_parity_length, plainReplay_parity_length h]), plainUpset_badWord h false q hw] at hbad
  rw [show upsetWord false q' = upsetWord false q from hword, Bool.xor_self] at hbad
  nomatch hbad

end Plain

/-! ### The rebuild of a record without payload (R133, R169) -/

/-- Buffer `u` holds what a whole record without payload does, range `g` apart. -/
structure CommitEntry.DamagedIn (e : CommitEntry) (u : Replay) (g : Nat) : Prop where
  shape : u = { e.plainReplay with bytes := u.bytes, parity := u.parity }
  bytes : ∀ p, p / 64 ≠ g → u.bytes[p]? = e.plainBytes[p]?
  length : u.bytes.length = e.plainBytes.length
  parity : ∀ w, w / 8 ≠ g → u.parity[w]? = (parityBits e.plainBytes)[w]?

theorem plainUpset_damagedIn (e : CommitEntry) (check : Bool) (pos : Nat) :
    e.DamagedIn (e.plainReplay.upset check pos) (upsetWord check pos / 8) := by
  cases check with
  | true =>
    refine ⟨rfl, fun _ _ => rfl, rfl, fun w hw => ?_⟩
    have hne : pos ≠ w := fun hp => hw (hp ▸ rfl)
    exact List.getElem?_modify_ne _ _ hne
  | false =>
    refine ⟨rfl, fun p hp => ?_, flipBit_length .., fun _ _ => rfl⟩
    have hword : upsetWord false pos = pos / 64 := rfl
    have hne : 0 + pos / 8 ≠ p := by omega
    exact List.getElem?_modify_ne _ _ hne

theorem CommitEntry.DamagedIn.off {e : CommitEntry} {u : Replay} {g : Nat} (hu : e.DamagedIn u g) : u.off = 0 :=
  congrArg Replay.off hu.shape

theorem CommitEntry.DamagedIn.len {e : CommitEntry} {u : Replay} {g : Nat} (hu : e.DamagedIn u g) : u.len = 512 :=
  congrArg Replay.len hu.shape

/-- The buffer as a rebuild of range `g` finds it, no payload to be read again. -/
def Replay.rebuilding (u : Replay) (g : Nat) : Replay := { u with ready := false, ranges := some [g] }

section Rebuild

variable {e : CommitEntry} (h : e.IsPlain) {u : Replay} {g : Nat} (hu : e.DamagedIn u g)
include h hu

/-- The bytes before the CRC field are laid again in the range and in the trailer, and stand as they were elsewhere. -/
theorem rebuilding_laidBytes : (e.laidBytes (u.rebuilding g)).take 508 = e.plainFront := by
  have hpay (p : Nat) : e.isPayload p = false := by
    simp only [CommitEntry.isPayload, payload_of_not_data h.body, Bool.and_eq_false_iff, decide_eq_false_iff_not]
    omega
  have htrailer (spans : List Span) (o : Bool) : trailerHead e.body.isData spans o = zeros 68 := by
    rw [h.body]
    rfl
  have hfront := plainFront_length h.body
  have hlen : u.bytes.length = 512 := hu.length.trans (plainBytes_length h)
  refine List.ext_getElem? fun p => ?_
  by_cases hp : p < 508
  · have hbyte : u.bytes[p]? = some (u.bytes.getD p 0#8) := by
      rw [List.getD_eq_getElem _ _ (by omega)]
      exact List.getElem?_eq_getElem _
    have hplain : e.plainFront[p]? = some (e.plainFront.getD p 0#8) := by
      rw [List.getD_eq_getElem _ _ (by omega)]
      exact List.getElem?_eq_getElem _
    rw [List.getElem?_take_of_lt hp, laidBytes_getElem?, hplain]
    change u.bytes[p]?.map _ = _
    rw [hbyte, Option.map_some, hpay, Bool.false_or, htrailer]
    change some (if (!(u.rebuilding g).touched e p) = true then _ else e.fixedByte _ _ _ (u.off + p)) = _
    rw [hu.off, Nat.zero_add, fixedByte_plain h.body h.size]
    split
    · next hkept =>
      have hg : p / 64 ≠ g := by
        rintro rfl
        simp [Replay.touched, Replay.rebuilding] at hkept
      rw [← hbyte, hu.bytes p hg, ← hplain]
      exact List.getElem?_append_left (by change p < e.plainFront.length; omega)
    · rfl
  · rw [List.getElem?_eq_none (by rw [List.length_take]; omega), List.getElem?_eq_none (by omega)]

/-- The rebuild gives the record's bytes and their parity back (R169). -/
theorem rebuilding_finish : e.finish (u.rebuilding g) = e.plainReplay := by
  have hlast : (u.rebuilding g).isLast e = true :=
    decide_eq_true ((congrArg₂ (· + ·) hu.off hu.len).trans h.size.symm)
  have hlen : (u.rebuilding g).len = 512 := hu.len
  have hbytes : e.sealedBytes (u.rebuilding g) = e.plainBytes := by
    rw [CommitEntry.sealedBytes, CommitEntry.withCrc, hlast, hlen, if_pos rfl]
    dsimp only
    rw [rebuilding_laidBytes h hu, h.xfer]
    rfl
  have hparity : ((parityBits e.plainBytes).zipIdx.map fun p =>
      if (u.rebuilding g).touched e (8 * p.2) then p.1 else (u.rebuilding g).parity.getD p.2 p.1) =
        parityBits e.plainBytes := by
    refine List.ext_getElem? fun w => ?_
    rw [List.getElem?_map, List.getElem?_zipIdx]
    cases hw : (parityBits e.plainBytes)[w]? with
    | none => rfl
    | some b =>
      change some (if (u.rebuilding g).touched e (8 * (0 + w)) then b else u.parity.getD (0 + w) b) = some b
      rw [Nat.zero_add]
      split
      · rfl
      · next hkept =>
        have hg : w / 8 ≠ g := by
          rintro rfl
          refine hkept ?_
          simp [Replay.touched, Replay.rebuilding]
          omega
        rw [List.getD_eq_getElem?_getD, hu.parity w hg, hw]
        rfl
  rw [CommitEntry.finish, hbytes]
  change ({ u with bytes := _, parity := _, ready := true, todo := [], ranges := none } : Replay) = _
  rw [hparity, hu.shape]
  rfl

end Rebuild

/-! ### The read-out that finds an upset, and the next (R136, R169, log 25) -/

/-- A read-out that finds ranges damaged rebuilds them and sends nothing. -/
theorem trySend_of_damaged {s : State} {e : CommitEntry} {r : Replay} (hmay : s.link.mayWrite = true)
    (he : s.link.sending = some e) (hr : s.link.replay = some r) (hready : r.ready = true) (hbad : r.badRanges ≠ []) :
    s.trySend = (s.rebuild e r r.badRanges).portGrant := by
  simp [State.trySend, hmay, he, hr, hready, hbad]

/-- The rebuild of one range of a record without payload is done at once, its error counted. -/
theorem rebuild_plain {s : State} {e : CommitEntry} (h : e.IsPlain) {u : Replay} {g : Nat} (hu : e.DamagedIn u g) :
    s.rebuild e u [g] = (s.countUncorrectable .replay (e.addr.getD 0 + 64 * g)).modLink fun l =>
      { l with replay := some e.plainReplay } := by
  have hreads (lo hi : Nat) : e.reads lo hi = [] := by
    rw [CommitEntry.reads, runs_of_not_data h.body]
    rfl
  have hheld : u.held = [] := congrArg Replay.held hu.shape
  have htodo : u.todo = [] := congrArg Replay.todo hu.shape
  have hclear (g : Nat) : e.clearRange u [] g = [] := by
    unfold CommitEntry.clearRange
    dsimp only
    split <;> rfl
  unfold State.rebuild
  simp only [List.foldl_cons, List.foldl_nil, List.flatMap_cons, List.flatMap_nil, hreads, hheld, hclear, hu.off,
    List.append_nil, List.isEmpty_nil, if_true, Nat.add_zero]
  have hsame : ({ u with off := 0, ready := false, ranges := some [g], held := [], todo := [] } : Replay) =
      u.rebuilding g := by
    rw [Replay.rebuilding, ← hheld, ← htodo, ← hu.off]
  rw [hsame, State.finishBuild, rebuilding_finish h hu]
  rfl

/-- A part that may send the transfer of a 512-byte record without payload, which is whole in the buffer. -/
structure State.HoldsPlain (s : State) (e : CommitEntry) (a : Nat) : Prop where
  may : s.link.mayWrite = true
  sending : s.link.sending = some e
  addr : e.addr = some a
  plain : e.IsPlain
  replay : s.link.replay = some e.plainReplay

namespace State.HoldsPlain

variable {s : State} {e : CommitEntry} {a : Nat}

theorem of_link {t : State} (h : s.HoldsPlain e a) (hl : t.link = s.link) : t.HoldsPlain e a :=
  ⟨hl ▸ h.may, hl ▸ h.sending, h.addr, h.plain, hl ▸ h.replay⟩

/-- What upsets leave of the link. -/
theorem upset_link (h : s.HoldsPlain e a) (check : Bool) (pos : Nat) :
    (s.upset (.replay check pos)).link = { s.link with replay := some (e.plainReplay.upset check pos) } := by
  have hmap : (s.upset (.replay check pos)).link =
      { s.link with replay := s.link.replay.map fun r => r.upset check pos } := rfl
  rw [hmap, h.replay]
  rfl

/-- A clean buffer goes out as it stands. -/
theorem sends (h : s.HoldsPlain e a) :
    exec (.writeSend []) s = .next { s with link := { s.link with outstanding := some (.write a e.plainBytes) } } := by
  have hclean : e.plainReplay.badRanges = [] := by
    refine List.eq_nil_iff_forall_not_mem.2 fun g hg => ?_
    obtain ⟨hg, k, hk, hbad⟩ := mem_badRanges.1 hg
    have hlen : e.plainReplay.len = 512 := rfl
    rw [plainReplay_badWord h.plain (by omega)] at hbad
    nomatch hbad
  have hout : e.readOut e.plainReplay = e.plainBytes := by
    have hfinish : e.finish e.freshReplay = e.plainReplay := finish_plain h.plain
    rw [← hfinish, readOut_finish _ _ (zeros_length _), hfinish]
    rfl
  have hsent := trySend_of_clean h.may h.sending h.replay rfl hclean
  rw [h.addr, hout] at hsent
  exact congrArg Host.Outcome.next hsent

/-- Two flips in one word go out, with a CRC over what goes out before it (R106, R169, log 38). -/
theorem sends_flipped (h : s.HoldsPlain e a) {q q' : Nat} (hword : q' / 64 = q / 64) :
    let stands := flipBit (flipBit e.plainBytes 0 q) 0 q'
    exec (.writeSend [.replay false q, .replay false q']) s = .next { s with link := { s.link with
      replay := some { e.plainReplay with bytes := stands },
      outstanding := some (.write a (stands.take 508 ++ leBytes 4 (crc32 (stands.take 508)).toNat)) } } := by
  intro stands
  let u := (e.plainReplay.upset false q).upset false q'
  let t : State := { s with link := { s.link with replay := some u } }
  have hupsets : s.upsets [.replay false q, .replay false q'] = t := by
    change ({ s with link := { s.link with replay := (s.link.replay.map _).map _ } } : State) = _
    rw [h.replay]
    rfl
  have hlast : u.off + u.len = e.size := h.plain.size.symm
  have hsent := trySend_of_clean (s := t) h.may h.sending rfl rfl (plainUpset_twice h.plain hword)
  rw [h.addr, readOut_of_last hlast, h.plain.xfer] at hsent
  change Host.Outcome.next (s.upsets _).trySend = _
  rw [hupsets]
  exact congrArg Host.Outcome.next hsent

/-- One upset is found, counted and rebuilt, and nothing is sent: the buffer is as before. -/
theorem rebuilds (h : s.HoldsPlain e a) {check : Bool} {pos : Nat} (hpos : upsetWord check pos < 64) :
    ∃ p : Port, exec (.writeSend [.replay check pos]) s =
      .next { s.countUncorrectable .replay (a + 64 * (upsetWord check pos / 8)) with port := p } := by
  let t := s.upset (.replay check pos)
  have hlink : t.link = { s.link with replay := some (e.plainReplay.upset check pos) } := h.upset_link check pos
  have hbad := plainUpset_badRanges h.plain (check := check) hpos
  have hready : (e.plainReplay.upset check pos).ready = true := by cases check <;> rfl
  have htry : t.trySend = (t.rebuild e (e.plainReplay.upset check pos) [upsetWord check pos / 8]).portGrant := by
    rw [← hbad]
    exact trySend_of_damaged (by rw [hlink]; exact h.may) (by rw [hlink]; exact h.sending) (by rw [hlink]) hready
      (by rw [hbad]; nofun)
  obtain ⟨p, hport⟩ := portGrant_eq (t.rebuild e (e.plainReplay.upset check pos) [upsetWord check pos / 8])
  refine ⟨p, congrArg Host.Outcome.next (htry.trans (hport.trans ?_))⟩
  have hback : ({ t.link with replay := some e.plainReplay } : Link) = s.link := by rw [hlink, ← h.replay]
  rw [rebuild_plain h.plain (plainUpset_damagedIn e check pos), h.addr]
  change ({ t.countUncorrectable .replay _ with
    port := p, link := { t.link with replay := some e.plainReplay } } : State) = _
  rw [hback]
  rfl

end State.HoldsPlain

theorem upsetWord_lt {check : Bool} {pos : Nat} (h : pos < if check then 64 else 4096) : upsetWord check pos < 64 := by
  cases check
  · exact Nat.div_lt_of_lt_mul h
  · exact h

/-- The archive address of the first byte of the range that an upset is in. -/
theorem upsetWord_range (check : Bool) (pos : Nat) :
    64 * (upsetWord check pos / 8) = pos / (if check then 8 else 512) * 64 := by
  cases check
  · rw [upsetWord, if_neg Bool.false_ne_true, if_neg Bool.false_ne_true, Nat.div_div_eq_div_mul, Nat.mul_comm]
  · exact Nat.mul_comm ..

/-- Settles O47: two flips in a word go out as they stand; one upset is rebuilt, so that the buffer holds what it did,
and so is the next. -/
theorem replayUpsetsAreRebuilt : Obligations.ReplayUpsetsAreRebuilt := by
  intro e a q check r s hup hfree hquery he haddr hbody hsize hxfer hr hplain hq
  subst hplain
  have h : s.HoldsPlain e a := ⟨mayWrite_iff.2 ⟨hup, hfree, hquery⟩, he, haddr, ⟨hbody, hsize, hxfer⟩, hr⟩
  refine ⟨fun q' hdata hne hword => h.sends_flipped hword, ?_⟩
  obtain ⟨p, hrebuilt⟩ := h.rebuilds (upsetWord_lt hq)
  rw [upsetWord_range] at hrebuilt
  let t : State := { s.countUncorrectable .replay (a + q / (if check then 8 else 512) * 64) with port := p }
  have hagain : t.HoldsPlain e a := h.of_link rfl
  refine ⟨t, hrebuilt, rfl, rfl, rfl, rfl, rfl, hagain.sends, fun check' q' hq' => ?_⟩
  obtain ⟨p', hrebuilt'⟩ := hagain.rebuilds (upsetWord_lt hq')
  exact ⟨_, hrebuilt', rfl, rfl⟩

end Sys2Proof.Machine
end
section
/-! SUPPORT. SYNC: the entries it notes, its wait, its polls and its timeout (R147 to R150). -/

namespace Sys2Proof.Machine

/-! ### What a SYNC notes (R147) -/

/-- The last element that satisfies a test has none after it that does. -/
theorem getLast?_filter_eq_some_iff {α : Type} {p : α → Bool} {l : List α} {x : α} :
    (l.filter p).getLast? = some x ↔
      ∃ older newer, l = older ++ x :: newer ∧ p x = true ∧ ∀ y ∈ newer, p y = false := by
  rw [← List.head?_reverse, ← List.filter_reverse, List.head?_filter, List.find?_eq_some_iff_append]
  constructor
  · rintro ⟨hx, newer, older, hl, hno⟩
    refine ⟨older.reverse, newer.reverse, ?_, hx, fun y hy => ?_⟩
    · rw [← List.reverse_reverse l, hl]
      simp
    · simpa using hno y (List.mem_reverse.1 hy)
  · rintro ⟨older, newer, rfl, hx, hno⟩
    exact ⟨hx, newer.reverse, older.reverse, by simp, fun y hy => by simpa using hno y (List.mem_reverse.1 hy)⟩

theorem mem_newestOf {l : Link} {mask : Byte} {i : StreamId} {q : Nat} : (i, q) ∈ l.newestOf mask.toNat ↔
    mask.getLsbD i.num = true ∧ ∃ older e newer, l.commit = older ++ e :: newer ∧ e.stream = i ∧ e.seq = q ∧
      ∀ f ∈ newer, f.stream ≠ i := by
  have hone (j : StreamId) : (if mask.toNat.testBit j.num then
      ((l.commit.filter fun e => decide (e.stream = j)).getLast?).map fun e => (j, e.seq) else none) = some (i, q) ↔
      j = i ∧ mask.getLsbD i.num = true ∧
        ∃ e, (l.commit.filter fun e => decide (e.stream = i)).getLast? = some e ∧ e.seq = q := by
    rw [Option.ite_none_right_eq_some, Option.map_eq_some_iff]
    constructor
    · rintro ⟨hbit, e, he, hq⟩
      obtain ⟨rfl, rfl⟩ := Prod.mk.inj hq
      exact ⟨rfl, hbit, e, he, rfl⟩
    · rintro ⟨rfl, hbit, e, he, rfl⟩
      exact ⟨hbit, e, he, rfl⟩
  rw [Link.newestOf, List.mem_filterMap]
  simp only [hone, StreamId.mem_all, true_and, exists_eq_left, getLast?_filter_eq_some_iff, decide_eq_true_iff,
    decide_eq_false_iff_not]
  refine and_congr_right fun _ => ⟨?_, ?_⟩
  · rintro ⟨e, ⟨older, newer, hl, hi, hno⟩, hq⟩
    exact ⟨older, e, newer, hl, hi, hq, hno⟩
  · rintro ⟨older, e, newer, hl, hi, hq, hno⟩
    exact ⟨e, ⟨older, newer, hl, hi, hno⟩, hq⟩

/-- A SYNC that notes nothing waits for no leaving (R148). -/
theorem syncStart_eq (s : State) (tag : Byte) (mask : Nat) : s.syncStart tag mask =
    ⟨if s.link.newestOf mask = [] then .queryDue else .waitLeave, tag, s.link.newestOf mask, s.ctl.timing.sync⟩ := by
  rw [State.syncStart, SyncCtx.check]
  by_cases h : s.link.newestOf mask = []
  · rw [if_pos ⟨rfl, h⟩, if_pos h]
  · rw [if_neg fun hc => h hc.2, if_neg h]

/-! ### The SYNC request (R147) -/

section Request

variable {s : State} (h : s.takesAtOnce) (tag mask : Byte)
include h

theorem exec_sync : exec (.sync tag mask) s = .next ((s.takeFrame []).syncRequest tag mask) :=
  congrArg Host.Outcome.next (submit_request h (r := .sync mask) rfl)

theorem sync_refused (hmask : mask = 0#8 ∨ 15 < mask.toNat) :
    exec (.sync tag mask) s = .next (s.answered 0x0B#8 tag 3#8 []) := by
  rw [exec_sync h]
  exact (congrArg Host.Outcome.next (if_pos hmask)).trans (refuse_at_once h kindSync tag .range)

variable (hzero : mask ≠ 0#8) (hwide : mask.toNat ≤ 15)
include hzero hwide

theorem sync_busy (hbusy : s.link.sync.phase ≠ .idle) :
    exec (.sync tag mask) s = .next (s.answered 0x0B#8 tag 1#8 []) := by
  have hmask : ¬ (mask = 0#8 ∨ 16 ≤ mask.toNat) := not_or.2 ⟨hzero, by omega⟩
  rw [exec_sync h]
  exact (congrArg Host.Outcome.next ((if_neg hmask).trans (if_pos hbusy))).trans (refuse_at_once h kindSync tag .busy)

/-- An accepted SYNC keeps its reservation (R147, R185). -/
theorem sync_accepted (hidle : s.link.sync.phase = .idle) : exec (.sync tag mask) s = .next { s with
    ctl := { s.ctl with reserved := s.ctl.reserved + 1 }
    link := { s.link with sync := s.syncStart tag mask.toNat } } := by
  have hmask : ¬ (mask = 0#8 ∨ 16 ≤ mask.toNat) := not_or.2 ⟨hzero, by omega⟩
  have hctl : (s.takeFrame []).ctl = { s.ctl with reserved := s.ctl.reserved + 1 } := by
    obtain ⟨hin, -, -⟩ := h
    rw [← hin]
    rfl
  rw [exec_sync h, ← hctl]
  exact congrArg Host.Outcome.next ((if_neg hmask).trans (if_neg (not_not.2 hidle)))

end Request

/-! ### The answers to a query, and the timers (R149, R150) -/

theorem queryAnswer_iff {l : Link} :
    (l.isUp && l.queryOut) = true ↔ l.state = .up ∧ l.outstanding = some .durableQuery := by
  have hquery : l.queryOut = true ↔ l.outstanding = some .durableQuery := by
    unfold Link.queryOut
    split
    · next h => exact iff_of_true rfl h
    · next h => exact iff_of_false Bool.false_ne_true h
  rw [Bool.and_eq_true, isUp_iff, hquery]

/-- The reply of a SYNC, in the terms of the statements. -/
theorem syncReply_eq (s : State) (st : Status) (waiting : Nat) : s.syncReply st waiting =
    ({ s with link := { s.link with sync := ⟨.idle, 0#8, [], 0⟩ } } : State).replied 0x0B#8 s.link.sync.tag
      (BitVec.ofNat 8 st.code) [BitVec.ofNat 8 waiting, 0#8, 0#8, 0#8] := rfl

/-- The waiting mask names the streams of the entries still noted (R150). -/
theorem waitingMask_spec (c : SyncCtx) : c.waitingMask < 16 ∧ ∀ i : StreamId,
    (BitVec.ofNat 8 c.waitingMask).getLsbD i.num = true ↔ ∃ q, (i, q) ∈ c.noted := by
  have hbits : ∀ b0 b1 b2 b3 : Bool,
      let n := (if b0 then 2 ^ 0 else 0) + ((if b1 then 2 ^ 1 else 0) + ((if b2 then 2 ^ 2 else 0) +
        ((if b3 then 2 ^ 3 else 0) + 0)))
      n < 16 ∧ (BitVec.ofNat 8 n).getLsbD 0 = b0 ∧ (BitVec.ofNat 8 n).getLsbD 1 = b1 ∧
        (BitVec.ofNat 8 n).getLsbD 2 = b2 ∧ (BitVec.ofNat 8 n).getLsbD 3 = b3 := by decide
  have hnoted (i : StreamId) : (c.noted.any fun p => decide (p.1 = i)) = true ↔ ∃ q, (i, q) ∈ c.noted := by
    rw [List.any_eq_true]
    constructor
    · rintro ⟨⟨j, q⟩, hm, hj⟩
      obtain rfl := of_decide_eq_true hj
      exact ⟨q, hm⟩
    · rintro ⟨q, hm⟩
      exact ⟨_, hm, decide_eq_true rfl⟩
  let b (i : StreamId) : Bool := c.noted.any fun p => decide (p.1 = i)
  obtain ⟨hlt, h0, h1, h2, h3⟩ := hbits (b .s0) (b .s1) (b .s2) (b .s3)
  refine ⟨hlt, fun i => ?_⟩
  rw [← hnoted]
  refine Bool.eq_iff_iff.1 ?_
  cases i with
  | s0 => exact h0
  | s1 => exact h1
  | s2 => exact h2
  | s3 => exact h3

/-- Settles O15: the SYNC request by its mask and the SYNC in flight, the answers to its query, and its two timers. -/
theorem syncRuns : Obligations.SyncRuns := by
  refine ⟨fun tag mask s h => ⟨sync_refused h tag mask, sync_busy h tag mask, fun hzero hwide hidle =>
    ⟨s.link.newestOf mask.toNat, fun i q => mem_newestOf, ?_⟩⟩, fun s => ?_⟩
  · rw [← syncStart_eq]
    exact sync_accepted h tag mask hzero hwide hidle
  · intro sync free enter ended
    refine ⟨fun hno => ?_, fun hup hquery => ?_, fun hp => congrArg Host.Outcome.next (if_pos hp),
      fun hp => congrArg Host.Outcome.next (if_neg hp), fun hp => congrArg Host.Outcome.next (if_pos hp), fun hp => ?_⟩
    · have hanswer : ¬ (s.link.isUp && s.link.queryOut) = true := fun h =>
        not_and_or.2 hno (queryAnswer_iff.1 h)
      exact ⟨congrArg Host.Outcome.next (if_neg hanswer), congrArg Host.Outcome.next (if_neg hanswer)⟩
    · have hanswer := queryAnswer_iff.2 ⟨hup, hquery⟩
      refine ⟨fun hp => ⟨?_, ?_⟩, fun hp => ⟨?_, ?_⟩⟩
      · exact congrArg Host.Outcome.next ((if_pos hanswer).trans ((if_pos hp).trans (syncReply_eq ..)))
      · exact congrArg Host.Outcome.next ((if_pos hanswer).trans (if_pos hp))
      · exact congrArg Host.Outcome.next ((if_pos hanswer).trans (if_neg hp))
      · exact congrArg Host.Outcome.next ((if_pos hanswer).trans (if_neg hp))
    · obtain ⟨hlt, hmask⟩ := waitingMask_spec sync
      refine ⟨BitVec.ofNat 8 sync.waitingMask, hmask, ?_,
        congrArg Host.Outcome.next ((if_neg hp).trans (syncReply_eq ..))⟩
      rw [BitVec.toNat_ofNat]
      omega

end Sys2Proof.Machine
end

section
/-! SUPPORT. ERROR_SETUP, ERROR_READ and INJECT: their frames, their checks, and what they leave of a memory's monitor
(R157, R170 to R172, section 11.3). -/

namespace Sys2Proof.Machine

/-! ### What the request bytes name (chapter 11) -/

/-- The code of a memory in a request (chapter 11). -/
def MemId.code : MemId → Nat
  | .capture => 0
  | .staging => 1
  | .replay => 2

theorem memoryOf_of_code {b : Byte} {m : MemId} (h : b = BitVec.ofNat 8 m.code) : memoryOf b.toNat = some m := by
  subst h; cases m <;> rfl

theorem memoryOf_none {n : Nat} (h : 2 < n) : memoryOf n = none := by
  obtain ⟨k, rfl⟩ := Nat.exists_eq_add_of_le' h
  rfl

theorem captureModeOf_of_code {b : Byte} {c : CaptureMode} (h : b = BitVec.ofNat 8 c.code) :
    captureModeOf b.toNat = some c := by
  subst h; cases c <;> rfl

theorem captureModeOf_none {n : Nat} (h : 1 < n) : captureModeOf n = none := by
  obtain ⟨k, rfl⟩ := Nat.exists_eq_add_of_le' h
  rfl

/-- A request taken at once that changes one memory's monitor and replies. -/
theorem modMon_at_once {s : State} (h : s.takesAtOnce) (m : MemId) (f : MemMon → MemMon) (kind tag : Byte)
    (st : Status) (fields : List Byte) : Host.Outcome.next (((s.takeFrame []).modMon m f).reply kind tag st fields) =
      (.next ((s.modMon m f).answered kind tag (BitVec.ofNat 8 st.code) fields) : Result) :=
  congrArg Host.Outcome.next (reply_of_taken h (t := (s.takeFrame []).modMon m f) rfl kind tag st fields)

/-! ### ERROR_SETUP (R157, R170) -/

/-- The address an error leaves captured, by the mode and the address held (R157). -/
theorem captureAddr_eq (c : CaptureMode) (held : Option Nat) (a : Nat) :
    captureAddr c held a = if c = .last ∨ held = none then some a else held := by
  cases c <;> cases held <;> rfl

theorem countCorrected_corrAddr (s : State) (m : MemId) (a : Nat) :
    ((s.countCorrected m a).integ.get m).corrAddr =
      captureAddr (s.integ.get m).mode (s.integ.get m).corrAddr a :=
  congrArg MemMon.corrAddr (Integrity.get_set_self ..)

theorem countUncorrectable_uncorrAddr (s : State) (m : MemId) (a : Nat) :
    ((s.countUncorrectable m a).integ.get m).uncorrAddr =
      captureAddr (s.integ.get m).mode (s.integ.get m).uncorrAddr a :=
  congrArg MemMon.uncorrAddr (Integrity.get_set_self ..)

/-- The frame of an ERROR_SETUP decodes to the ERROR_SETUP (section 11.3). -/
theorem exec_errorSetup {s : State} (h : s.takesAtOnce) (tag memory mode : Byte) :
    exec (.errorSetup tag memory mode) s = .next ((s.takeFrame []).errorSetup tag memory mode) :=
  congrArg Host.Outcome.next (submit_request h (r := .errorSetup memory mode) rfl)

/-- An ERROR_SETUP out of range is refused. -/
theorem errorSetup_range (s : State) (tag : Byte) {memory mode : Byte} (h : 2 < memory.toNat ∨ 1 < mode.toNat) :
    s.errorSetup tag memory mode = s.refuse kindErrorSetup tag .range := by
  unfold State.errorSetup
  obtain hmem | hmode := h
  · rw [memoryOf_none hmem]
  · rw [captureModeOf_none hmode]
    cases memoryOf memory.toNat <;> rfl

/-- An ERROR_SETUP in range replaces the mode. -/
theorem errorSetup_set (s : State) (tag : Byte) {memory mode : Byte} {m : MemId} {c : CaptureMode}
    (hm : memory = BitVec.ofNat 8 m.code) (hc : mode = BitVec.ofNat 8 c.code) :
    s.errorSetup tag memory mode = (s.modMon m fun x => { x with mode := c }).reply kindErrorSetup tag .ok
      [memory, mode, 0#8, 0#8] := by
  rw [State.errorSetup, memoryOf_of_code hm, captureModeOf_of_code hc, byteField_toNat, hc]
  rfl

/-- Settles O19: the refusal, the mode replaced, and the address each later error leaves captured. -/
theorem errorSetupSetsTheMode : Obligations.ErrorSetupSetsTheMode := by
  intro tag memory mode s h
  refine ⟨fun hout => ?_, fun m c hm hc => ?_⟩
  · rw [exec_errorSetup h, errorSetup_range _ tag hout]
    exact refuse_at_once h kindErrorSetup tag .range
  · let t := s.modMon m fun x => { x with mode := c }
    have hmon : t.integ.get m = { s.integ.get m with mode := c } := Integrity.get_set_self ..
    refine ⟨t, ?_, rfl, fun k hk => Integrity.get_set_other _ _ hk, hmon, fun a => ⟨?_, ?_⟩⟩
    · rw [exec_errorSetup h, errorSetup_set (m := m) (c := c) _ tag hm hc]
      exact modMon_at_once h m _ kindErrorSetup tag .ok _
    · rw [countCorrected_corrAddr, hmon, captureAddr_eq]
    · rw [countUncorrectable_uncorrAddr, hmon, captureAddr_eq]

/-! ### ERROR_READ (R171) -/

/-- The frame of an ERROR_READ decodes to the ERROR_READ (section 11.3). -/
theorem exec_errorRead {s : State} (h : s.takesAtOnce) (tag memory flags : Byte) :
    exec (.errorRead tag memory flags) s = .next ((s.takeFrame []).errorRead tag memory flags) :=
  congrArg Host.Outcome.next (submit_request h (r := .errorRead memory flags) rfl)

/-- The flags of an ERROR_READ reply: what is captured, and whether a flip is armed (section 11.4). -/
theorem flagNat_sum (a b c : Bool) : flagNat a + 2 * flagNat b + 4 * flagNat c =
    (if a then 1 else 0) + (if b then 2 else 0) + (if c then 4 else 0) := by
  cases a <;> cases b <;> cases c <;> rfl

theorem errorRead_of_memory (s : State) (tag flags : Byte) {memory : Byte} {m : MemId}
    (hm : memory = BitVec.ofNat 8 m.code) : s.errorRead tag memory flags =
      (s.modMon m fun x => x.cleared (flags.getLsbD 0) (flags.getLsbD 1)).reply kindErrorRead tag .ok
        ((s.integ.get m).fields memory.toNat) := by
  rw [State.errorRead, memoryOf_of_code hm]

/-! ### INJECT (R172) -/

theorem decodeFrame_inject (tag memory target present : Byte) (a b : BitVec 16) :
    decodeFrame (requestFrame tag (.inject memory target present a b)) =
      .request (.inject memory target present a b) := by
  let parts : List (List Byte) := [[memory, target, present, 0#8], fieldBytes 2 a, fieldBytes 2 b]
  have hbody : requestBody (.inject memory target present a b) = parts.flatten := by simp [requestBody, parts]
  have ha : fieldAt 16 parts.flatten 4 2 = a := fieldAt_flatten 1 rfl rfl (by decide)
  have hb : fieldAt 16 parts.flatten 6 2 = b := fieldAt_flatten 2 rfl rfl (by decide)
  change Decoded.request (.inject memory target present
    (fieldAt 16 (requestBody (.inject memory target present a b)) 4 2)
    (fieldAt 16 (requestBody (.inject memory target present a b)) 6 2)) = _
  rw [hbody, ha, hb]

/-- The frame of an INJECT decodes to the INJECT (section 11.3). -/
theorem exec_inject {s : State} (h : s.takesAtOnce) (tag memory target present : Byte) (a b : BitVec 16) :
    exec (.inject tag memory target present a b) s = .next ((s.takeFrame []).inject tag memory target present a b) :=
  congrArg Host.Outcome.next (submit_request h (decodeFrame_inject tag memory target present a b))

/-- An INJECT is refused for its memory, its target or a position out of range. -/
theorem inject_range (s : State) (tag : Byte) {memory target present : Byte} {a b : BitVec 16}
    (h : 2 < memory.toNat ∨ 1 < target.toNat ∨ ∃ m : MemId, memory = BitVec.ofNat 8 m.code ∧
      (positionLimit m (target = 1#8) ≤ a.toNat ∨
        (present ≠ 0#8 ∧ positionLimit m (target = 1#8) ≤ b.toNat))) :
    s.inject tag memory target present a b = s.refuse kindInject tag .range := by
  unfold State.inject
  obtain hmem | htarget | ⟨m, hm, hpos⟩ := h
  · rw [memoryOf_none hmem]
  · cases memoryOf memory.toNat with
    | none => rfl
    | some m => exact if_pos (.inl htarget)
  · rw [memoryOf_of_code hm]
    exact if_pos (.inr hpos)

/-- An INJECT in range arms its memory and replies whether it was armed. -/
theorem inject_arms (s : State) (tag : Byte) {memory target present : Byte} {a b : BitVec 16} {m : MemId}
    (hm : memory = BitVec.ofNat 8 m.code) (htarget : target.toNat ≤ 1) (ha : a.toNat < positionLimit m (target = 1#8))
    (hb : present = 0#8 ∨ b.toNat < positionLimit m (target = 1#8)) :
    s.inject tag memory target present a b =
      (s.modMon m fun x => { x with
        arming := some ⟨target = 1#8, a.toNat, if present = 0#8 then none else some b.toNat⟩ }).reply kindInject tag
        .ok (byteField (flagNat (s.integ.get m).arming.isSome) ++ zeros 3) := by
  have hin : ¬ (2 ≤ target.toNat ∨ positionLimit m (target = 1#8) ≤ a.toNat ∨
      (present ≠ 0#8 ∧ positionLimit m (target = 1#8) ≤ b.toNat)) := by
    rintro (h | h | ⟨hpresent, h⟩)
    · omega
    · omega
    · exact hb.elim hpresent h.not_gt
  rw [State.inject, memoryOf_of_code hm]
  exact if_neg hin

/-- Settles O20: ERROR_READ and INJECT, each refused or run. -/
theorem errorReadAndInject : Obligations.ErrorReadAndInject := by
  refine ⟨fun tag memory flags s h => ⟨fun hout => ?_, ?_⟩,
    fun tag memory target present a b s h => ⟨fun hout => ?_, ?_⟩⟩
  · rw [exec_errorRead h, State.errorRead, memoryOf_none hout]
    exact refuse_at_once h kindErrorRead tag .range
  · intro m hm x
    have hmode : byteField x.mode.code = [match x.mode with | .first => 0#8 | .last => 1#8] := by
      cases x.mode <;> rfl
    have hfields : ((s.takeFrame []).integ.get m).fields memory.toNat = x.fields memory.toNat := rfl
    rw [exec_errorRead h, errorRead_of_memory (m := m) _ tag flags hm, hfields, MemMon.fields, byteField_toNat, hmode,
      flagNat_sum]
    exact modMon_at_once h m _ kindErrorRead tag .ok _
  · rw [exec_inject h, inject_range _ tag (hout.imp_right .inl)]
    exact refuse_at_once h kindInject tag .range
  · intro m hm htarget limit
    have hlimit : limit = positionLimit m (target = 1#8) := by
      simp only [limit, positionLimit, decide_eq_true_eq]
      split
      · rfl
      · cases m <;> rfl
    refine ⟨fun hout => ?_, fun ha hb => ?_⟩
    · rw [hlimit] at hout
      rw [exec_inject h, inject_range _ tag (.inr (.inr ⟨m, hm, hout⟩))]
      exact refuse_at_once h kindInject tag .range
    · rw [hlimit] at ha hb
      have harmed : byteField (flagNat (s.integ.get m).arming.isSome) ++ zeros 3 =
          [if (s.integ.get m).arming.isSome then 1#8 else 0#8, 0#8, 0#8, 0#8] := by
        cases (s.integ.get m).arming <;> rfl
      rw [exec_inject h, inject_arms (m := m) _ tag hm htarget ha hb, ← harmed]
      exact modMon_at_once h m _ kindInject tag .ok _

end Sys2Proof.Machine
end

section
/-! SUPPORT. The code of capture memory: what an inverted bit does to a word, and what a read of it delivers (R158). -/

namespace Sys2Proof.Machine

/-! ### The number of bits set -/

theorem bitCount_eq_card {w : Nat} (x : BitVec w) :
    bitCount x = ((Finset.range w).filter fun i => x.getLsbD i = true).card := by
  rw [bitCount, Finset.card_def, Finset.filter_val, Finset.range_val, Multiset.range, Multiset.filter_coe,
    Multiset.coe_card]
  simp

@[simp] theorem bitCount_zero (w : Nat) : bitCount 0#w = 0 := by simp [bitCount]

/-- The bit that a flip inverts. -/
theorem getLsbD_one_shiftLeft {w q i : Nat} (hq : q < w) : (1#w <<< q).getLsbD i = decide (i = q) := by
  rw [BitVec.getLsbD_shiftLeft, BitVec.getLsbD_one]
  by_cases hi : i = q
  · simp [hi, hq]; omega
  · simp [hi]; omega

/-- Setting a bit that is clear counts one more. -/
theorem bitCount_set {w q : Nat} {x : BitVec w} (hq : q < w) (hx : x.getLsbD q = false) :
    bitCount (x ^^^ (1#w <<< q)) = bitCount x + 1 := by
  have hinsert : (Finset.range w).filter (fun i => (x ^^^ (1#w <<< q)).getLsbD i = true) =
      insert q ((Finset.range w).filter fun i => x.getLsbD i = true) := by
    ext i
    rw [Finset.mem_insert, Finset.mem_filter, Finset.mem_filter, BitVec.getLsbD_xor, getLsbD_one_shiftLeft hq]
    by_cases hi : i = q
    · subst hi; rw [hx]; simp [hq]
    · simp [hi]
  rw [bitCount_eq_card, bitCount_eq_card, hinsert, Finset.card_insert_of_notMem (by simp [hx])]

/-! ### The deviation of a word with an inverted bit (R158) -/

/-- The deviation of a word after one of its bits is inverted: data bits 0 to 63, check bits from 64 on. -/
def WordErr.flip (e : WordErr) (p : Nat) : WordErr :=
  if p < 64 then { e with data := e.data ^^^ (1#64 <<< p) } else { e with check := e.check ^^^ (1#8 <<< (p - 64)) }

/-- A bit of a word is in error. -/
def WordErr.inError (e : WordErr) (p : Nat) : Bool := if p < 64 then e.data.getLsbD p else e.check.getLsbD (p - 64)

@[simp] theorem WordErr.clean_poison : WordErr.clean.poison = false := rfl

@[simp] theorem WordErr.flip_poison (e : WordErr) (p : Nat) : (e.flip p).poison = e.poison := by
  unfold WordErr.flip; split <;> rfl

theorem WordErr.flip_bits {e : WordErr} {p : Nat} (hp : p < 72) (he : e.inError p = false) :
    (e.flip p).bits = e.bits + 1 := by
  unfold WordErr.flip WordErr.bits
  unfold WordErr.inError at he
  split at he
  · next hdata => rw [if_pos hdata, bitCount_set hdata he]; exact Nat.add_right_comm ..
  · next hdata => rw [if_neg hdata, bitCount_set (by omega) he]; exact (Nat.add_assoc ..).symm

theorem WordErr.flip_inError {e : WordErr} {p q : Nat} (hp : p < 72) (hq : q < 72) (hne : p ≠ q) :
    (e.flip p).inError q = e.inError q := by
  unfold WordErr.flip WordErr.inError
  by_cases hpd : p < 64
  · rw [if_pos hpd]
    split
    · rw [BitVec.getLsbD_xor, getLsbD_one_shiftLeft hpd]; simp [Ne.symm hne]
    · rfl
  · rw [if_neg hpd]
    split
    · rfl
    · rw [BitVec.getLsbD_xor, getLsbD_one_shiftLeft (by omega), decide_eq_false (by omega), Bool.xor_false]

theorem WordErr.clean_inError (p : Nat) : WordErr.clean.inError p = false := by
  unfold WordErr.inError; split <;> simp [WordErr.clean]

theorem WordErr.clean_flip_bits {p : Nat} (hp : p < 72) : (WordErr.clean.flip p).bits = 1 :=
  (flip_bits hp (clean_inError p)).trans (by simp [WordErr.bits, WordErr.clean])

/-- One bit in error is corrected. -/
theorem WordErr.flip_outcome {p : Nat} (hp : p < 72) : (WordErr.clean.flip p).outcome = .corrected := by
  simp [WordErr.outcome, clean_flip_bits hp]

/-- Two bits in error are uncorrectable. -/
theorem WordErr.flip_flip_outcome {p q : Nat} (hp : p < 72) (hq : q < 72) (hne : p ≠ q) :
    ((WordErr.clean.flip p).flip q).outcome = .uncorrectable := by
  have hbits : ((WordErr.clean.flip p).flip q).bits = 2 := by
    rw [flip_bits hq ((flip_inError hp hq hne).trans (clean_inError q)), clean_flip_bits hp]
  simp [WordErr.outcome, hbits]

/-! ### What a read delivers of a word with one bit in error (R158) -/

/-- What one inverted bit of a word does to its byte `j`. -/
def flipMask (p j : Nat) : Byte := if p < 64 ∧ j = p / 8 then 1#8 <<< (p % 8) else 0#8

theorem flip_data_byte (p j : Nat) :
    ((WordErr.clean.flip p).data >>> (8 * j)).setWidth 8 = flipMask p j := by
  unfold WordErr.flip flipMask
  by_cases hp : p < 64
  · refine BitVec.eq_of_getLsbD_eq fun i hi => ?_
    have hbyte : (i = p % 8 ∧ j = p / 8) ↔ 8 * j + i = p := by omega
    have hdata : (WordErr.clean.data ^^^ (1#64 <<< p)) = 1#64 <<< p := BitVec.zero_xor
    rw [if_pos hp, hdata, BitVec.getLsbD_setWidth, BitVec.getLsbD_ushiftRight, getLsbD_one_shiftLeft hp]
    by_cases hat : j = p / 8
    · rw [if_pos ⟨hp, hat⟩, getLsbD_one_shiftLeft (by omega)]
      rw [decide_eq_decide.2 (hbyte.symm.trans (and_iff_left hat)), decide_eq_true hi, Bool.true_and]
    · rw [if_neg fun h => hat h.2]
      simp [← hbyte, hat]
  · rw [if_neg hp, if_neg fun h => hp h.1]
    simp [WordErr.clean]

/-- The byte delivered is the one stored with the inverted bit put right. -/
theorem delivered_of_flip {m : Memory} {w p j : Nat} (he : m.errAt w = WordErr.clean.flip p) (hp : p < 72)
    (hj : j < 8) :
    m.delivered (8 * w + j) = m.byteAt (8 * w + j) ^^^ flipMask p j := by
  have hword : (8 * w + j) / 8 = w := by omega
  have hoff : (8 * w + j) % 8 = j := by omega
  unfold Memory.delivered
  dsimp only
  rw [hword, hoff, he, if_pos (by rw [WordErr.clean_flip_bits hp]; decide), if_pos (WordErr.flip_outcome hp),
    flip_data_byte]

/-! ### Capture memory with an inverted bit (R158) -/

theorem Memory.flip_errAt {m : Memory} (h : m.wf = true) (w v p : Nat) :
    (m.flip w p).errAt v = if v = w then (m.errAt w).flip p else m.errAt v := by
  obtain ⟨-, herrs⟩ := Memory.wf_iff.1 h
  unfold Memory.flip WordErr.flip
  dsimp only
  split
  · exact sparseRead_sparseWrite herrs
  · exact sparseRead_sparseWrite herrs

theorem Memory.flip_byteAt {m : Memory} (h : m.wf = true) {w v p j : Nat} (hj : j < 8) :
    (m.flip w p).byteAt (8 * v + j) =
      if v = w then m.byteAt (8 * v + j) ^^^ flipMask p j else m.byteAt (8 * v + j) := by
  obtain ⟨hcells, -⟩ := Memory.wf_iff.1 h
  unfold Memory.flip flipMask
  dsimp only
  split
  · next hp =>
    refine (sparseRead_sparseWrite hcells).trans ?_
    by_cases hv : v = w
    · subst hv
      by_cases hat : j = p / 8
      · rw [if_pos (by omega), if_pos rfl, if_pos ⟨hp, hat⟩, hat]
      · rw [if_neg (by omega), if_pos rfl, if_neg fun h => hat h.2, BitVec.xor_zero]; rfl
    · rw [if_neg (by omega), if_neg hv]; rfl
  · next hp =>
    have hmask : (if p < 64 ∧ j = p / 8 then 1#8 <<< (p % 8) else 0#8) = 0#8 := if_neg fun h => hp h.1
    rw [hmask, BitVec.xor_zero, ite_self]
    rfl

/-- Settles O34: the deviation and the byte that each flip leaves, and the bits that the code then finds in error. -/
theorem upsetWordsDecode : Obligations.UpsetWordsDecode := by
  intro m w p q hwf hclean hp hq
  have herr : (m.flip w p).errAt w = WordErr.clean.flip p := by rw [Memory.flip_errAt hwf, if_pos rfl, hclean]
  refine ⟨?_, fun j hj => ?_, fun hne => ?_, fun v hv => ⟨?_, fun j hj => ?_⟩⟩
  · rw [herr]
    exact WordErr.flip_outcome hp
  · rw [delivered_of_flip herr hp hj, Memory.flip_byteAt hwf hj, if_pos rfl, BitVec.xor_assoc, BitVec.xor_self,
      BitVec.xor_zero]
  · rw [Memory.flip_errAt (Memory.flip_wf hwf w p), if_pos rfl, herr]
    exact WordErr.flip_flip_outcome hp hq hne
  · rw [Memory.flip_errAt hwf, if_neg hv]
  · rw [Memory.flip_byteAt hwf hj, if_neg hv]

end Sys2Proof.Machine
end

section
/-! SUPPORT. What the rest of a command leaves of the error counts and of an armed flip: the tail of a flush, and what
follows at once (R157, R172, R173). -/

namespace Sys2Proof.Machine

/-! ### What follows at once (R132, R173) -/

/-- With REPLAY disarmed the end of a build changes the buffer alone. -/
theorem finishBuild_unarmed {s : State} (h : s.integ.replay.arming = none) (e : CommitEntry) (r : Replay) :
    s.finishBuild e r = s.modLink fun l => { l with replay := some (e.finish r) } := by
  unfold State.finishBuild
  rw [h]
  cases r.ranges <;> rfl

/-- With REPLAY disarmed what follows at once takes no flip (R173). -/
theorem settle_unarmed {s : State} (h : s.integ.replay.arming = none) :
    s.settle.integ = s.integ ∧ s.settle.notices = s.notices := by
  rw [State.settle, portGrant_integ, portGrant_notices]
  obtain hb | ⟨e, -, -, -, hb | hb⟩ := startBuild_cases (s.modLink Link.selectSending)
  · rw [hb]; exact ⟨rfl, rfl⟩
  · rw [hb, finishBuild_unarmed (s := s.modLink Link.selectSending) h]; exact ⟨rfl, rfl⟩
  · rw [hb]; exact ⟨rfl, rfl⟩

/-! ### The rest of a sample, and the tail of a flush (R30, R33, R173) -/

/-- `t` has the capture memory, the integrity monitor and the device notices of `s`. -/
structure State.SameErrors (s t : State) : Prop where
  mem : t.mem = s.mem := by rfl
  integ : t.integ = s.integ := by rfl
  device : t.notices.device = s.notices.device := by rfl

theorem State.SameErrors.trans {s t u : State} (h : s.SameErrors t) (h' : t.SameErrors u) : s.SameErrors u :=
  ⟨h'.mem.trans h.mem, h'.integ.trans h.integ, h'.device.trans h.device⟩

/-- `t` has them but for an armed flip of STAGING, which may have been taken. -/
def State.SameErrorsButFlip (s t : State) : Prop :=
  s.SameErrors t ∨ s.integ.staging.arming ≠ none ∧ (s.disarm .staging).SameErrors t

theorem State.SameErrorsButFlip.trans {s t u : State} (h : s.SameErrorsButFlip t) (h' : t.SameErrors u) :
    s.SameErrorsButFlip u := h.imp (·.trans h') fun ⟨ha, h⟩ => ⟨ha, h.trans h'⟩

theorem State.SameErrors.transButFlip {s t u : State} (h : s.SameErrors t) (h' : t.SameErrorsButFlip u) :
    s.SameErrorsButFlip u := by
  have hdisarm : (s.disarm .staging).SameErrors (t.disarm .staging) :=
    ⟨h.mem, congrArg (fun g => Integrity.set g .staging { g.get .staging with arming := none }) h.integ,
      congrArg (fun d => DeviceCounts.set d .injection (inc16 (d.get .injection))) h.device⟩
  refine h'.imp h.trans fun ⟨ha, h'⟩ => ⟨?_, hdisarm.trans h'⟩
  rwa [h.integ] at ha

theorem take_sameErrors {s t : State} {i : StreamId} {first k : Nat} {gap : Option Gap}
    (h : s.take i first k gap = some t) : s.SameErrors t := by
  obtain ⟨b, rest, -, rfl⟩ := take_some h
  dsimp only
  split <;> exact {}

theorem victimTake_sameErrors {s t : State} {i : StreamId} {first k : Nat} (h : s.victimTake i first k = some t) :
    s.SameErrors t := by
  unfold State.victimTake at h
  split at h
  · nomatch h
  · obtain rfl := Option.some.inj h
    exact {}

theorem getBlock_sameErrors (s : State) (i : StreamId) : s.SameErrors (s.getBlock i).1 := by
  unfold State.getBlock
  dsimp only
  split
  · next h => exact (take_sameErrors h).trans {}
  · split
    · split
      · next h => exact (victimTake_sameErrors h).trans {}
      · exact {}
    · exact {}

theorem stageKept_errors (s : State) (i : StreamId) (bytes : List Byte) :
    s.SameErrorsButFlip (s.stageKept i bytes) := by
  unfold State.stageKept State.takeStagingFlip
  split
  · next h =>
    obtain ⟨-, harm⟩ := Bool.and_eq_true_iff.1 h
    exact .inr ⟨Option.isSome_iff_ne_none.1 harm, {}⟩
  · exact .inl {}

theorem placeSample_errors (s : State) (i : StreamId) : s.SameErrorsButFlip (s.placeSample i) := by
  unfold State.placeSample
  dsimp only
  split
  · split
    · exact stageKept_errors ..
    · split
      · exact (getBlock_sameErrors s i).transButFlip (stageKept_errors ..)
      · exact .inl (getBlock_sameErrors s i)
  · exact .inl {}

theorem latchMarker_sameErrors (s : State) (i : StreamId) (index : Nat) (src : MarkSource) :
    s.SameErrors (s.latchMarker i index src) := by
  unfold State.latchMarker
  dsimp only
  split
  · split <;> exact {}
  · exact {}

theorem enterLaneMark_sameErrors (s : State) (i : StreamId) : s.SameErrors (s.enterLaneMark i) := by
  unfold State.enterLaneMark
  dsimp only
  split
  · exact (latchMarker_sameErrors ..).trans {}
  · exact {}

theorem finishSample_errors (s : State) (i : StreamId) : s.SameErrorsButFlip (s.finishSample i) := by
  cases hstall : (s.stream i).stalled with
  | true => rw [State.finishSample, if_pos hstall]; exact .inl {}
  | false =>
    rw [finishSample_eq hstall rfl]
    refine ((placeSample_errors s i).trans (enterLaneMark_sameErrors _ i)).trans ?_
    split <;> exact {}

theorem afterFlush_errors (s : State) (i : StreamId) : s.SameErrorsButFlip (s.afterFlush i) := by
  unfold State.afterFlush
  dsimp only
  split
  · have hseal : s.SameErrors (s.modStream i Stream.makeSeal) := {}
    split
    · exact hseal.transButFlip (finishSample_errors ..)
    · exact .inl hseal
  · exact .inl {}

/-! ### FLUSH_COMPLETE (R32, R33) -/

/-- The state after a granted flush of stream `i`, once its words are written: `u` is the state there. -/
def State.flushTail (u : State) (i : StreamId) : State := ((u.freePort.modWriter i Writer.flushed).afterFlush i).settle

theorem exec_flushComplete {s : State} {i : StreamId} {addr : Nat} {b : StageBuf} {rest : List StageBuf}
    (hg : s.port.granted = some (.flush i addr none)) (ha : (s.stream i).writer.awaiting = b :: rest)
    (hin : addr + 8 * b.words ≤ 17179869184) :
    exec (.flushComplete []) s = .next ((s.writeFlush b addr).flushTail i) := by
  have hlen : s.flushLen i none = 8 * b.words := by simp [State.flushLen, ha]
  change execFlushComplete [] s = _
  unfold execFlushComplete
  rw [hg]
  dsimp only
  rw [hlen, inCapture_of_le hin, if_pos rfl, show s.upsets [] = s from rfl, State.flushDone, ha]
  rfl

theorem flushTail_errors (u : State) (i : StreamId) :
    u.SameErrorsButFlip ((u.freePort.modWriter i Writer.flushed).afterFlush i) :=
  State.SameErrors.transButFlip (t := u.freePort.modWriter i Writer.flushed) {} (afterFlush_errors _ i)

theorem flushTail_mem (u : State) (i : StreamId) : (u.flushTail i).mem = u.mem := by
  rw [State.flushTail, settle_mem]
  obtain h | ⟨-, h⟩ := flushTail_errors u i <;> exact h.mem

/-- The tail of a flush counts no error. -/
theorem flushTail_counts (u : State) (i : StreamId) :
    (u.flushTail i).integ.staging.uncorrectable = u.integ.staging.uncorrectable ∧
      (u.flushTail i).notices.device.memory = u.notices.device.memory := by
  rw [State.flushTail, settle_staging, settle_memory]
  obtain h | ⟨-, h⟩ := flushTail_errors u i <;>
    exact ⟨congrArg (·.staging.uncorrectable) h.integ, congrArg (·.memory) h.device⟩

/-- With STAGING and REPLAY disarmed the tail of a flush takes no flip. -/
theorem flushTail_unarmed {u : State} (i : StreamId) (hs : u.integ.staging.arming = none)
    (hr : u.integ.replay.arming = none) :
    (u.flushTail i).integ = u.integ ∧ (u.flushTail i).notices.device = u.notices.device := by
  have h : u.SameErrors ((u.freePort.modWriter i Writer.flushed).afterFlush i) :=
    (flushTail_errors u i).resolve_right fun h => h.1 hs
  obtain ⟨hinteg, hnotices⟩ := settle_unarmed (s := (u.freePort.modWriter i Writer.flushed).afterFlush i)
    (by rw [h.integ]; exact hr)
  exact ⟨hinteg.trans h.integ, (congrArg Notices.device hnotices).trans h.device⟩

end Sys2Proof.Machine
end

section
/-! SUPPORT. The armed flip of STAGING: the first kept sample of a staging write takes it, and it stands over the parity
that each further sample sets (R166, R172, R173, log 7). -/

namespace Sys2Proof.Machine

/-! ### Flips of a staging buffer -/

/-- The flip of an arming inverts bits of the buffer's bytes or of its parity, in the line of a byte (R173). -/
theorem StageBuf.inject_eq (b : StageBuf) (o : Nat) (g : Arming) : b.inject o g = { b with
    data := if g.check then b.data else g.positions.foldl (fun bs q => flipBit bs (64 * (o / 64)) q) b.data,
    parity := if g.check then g.positions.foldl (fun ps q => flipParity ps (8 * (o / 64) + q)) b.parity
      else b.parity } := by
  unfold StageBuf.inject
  dsimp only
  generalize g.positions = qs
  induction qs generalizing b with
  | nil => cases g.check <;> rfl
  | cons q qs ih => rw [List.foldl_cons, ih]; cases g.check <;> rfl

theorem flippedBy_inject (b : StageBuf) (o : Nat) (g : Arming) :
    flippedBy g (o / 64) b.data (b.inject o g).data b.parity (b.inject o g).parity := by
  rw [StageBuf.inject_eq]
  exact flippedBy_flips ..

theorem flippedBy.symm {g : Arming} {line : Nat} {bs bs' : List Byte} {ps ps' : List Bool}
    (h : flippedBy g line bs bs' ps ps') : flippedBy g line bs' bs ps' ps := by
  obtain ⟨hbs, hps, hcheck, hdata⟩ := h
  refine ⟨hbs.symm, hps.symm, fun hg => ?_, fun hg => ?_⟩
  · obtain ⟨heq, hflip⟩ := hcheck hg
    exact ⟨heq.symm, fun n hn => ne_comm.trans (hflip n (hps ▸ hn))⟩
  · obtain ⟨heq, hflip⟩ := hdata hg
    exact ⟨heq.symm, fun n j hn hj => ne_comm.trans (hflip n j (hbs ▸ hn) hj)⟩

/-- Two bits that differ from a third in the same case are equal. -/
theorem bool_eq_of_ne_iff {a b c : Bool} {P : Prop} (ha : a ≠ c ↔ P) (hb : b ≠ c ↔ P) : a = b := by
  have hiff := ha.trans hb.symm
  revert hiff
  cases a <;> cases b <;> cases c <;> decide

/-- The bytes and the parity that a flip leaves are determined. -/
theorem flippedBy.unique {g : Arming} {line : Nat} {bs bs₁ bs₂ : List Byte} {ps ps₁ ps₂ : List Bool}
    (h₁ : flippedBy g line bs bs₁ ps ps₁) (h₂ : flippedBy g line bs bs₂ ps ps₂) : bs₁ = bs₂ ∧ ps₁ = ps₂ := by
  obtain ⟨hbs₁, hps₁, hcheck₁, hdata₁⟩ := h₁
  obtain ⟨hbs₂, hps₂, hcheck₂, hdata₂⟩ := h₂
  cases hg : g.check with
  | true =>
    obtain ⟨heq₁, hflip₁⟩ := hcheck₁ hg
    obtain ⟨heq₂, hflip₂⟩ := hcheck₂ hg
    refine ⟨heq₁.trans heq₂.symm, List.ext_getElem (hps₁.trans hps₂.symm) fun n hn₁ hn₂ => ?_⟩
    have hbit := bool_eq_of_ne_iff (hflip₁ n (hps₁ ▸ hn₁)) (hflip₂ n (hps₁ ▸ hn₁))
    rwa [List.getD_eq_getElem _ _ hn₁, List.getD_eq_getElem _ _ hn₂] at hbit
  | false =>
    obtain ⟨heq₁, hflip₁⟩ := hdata₁ hg
    obtain ⟨heq₂, hflip₂⟩ := hdata₂ hg
    refine ⟨List.ext_getElem (hbs₁.trans hbs₂.symm) fun n hn₁ hn₂ => ?_, heq₁.trans heq₂.symm⟩
    refine BitVec.eq_of_getLsbD_eq fun j hj => ?_
    have hbit := bool_eq_of_ne_iff (hflip₁ n j (hbs₁ ▸ hn₁) hj) (hflip₂ n j (hbs₁ ▸ hn₁) hj)
    rwa [List.getD_eq_getElem _ _ hn₁, List.getD_eq_getElem _ _ hn₂] at hbit

/-- A buffer that stands as another one under a flip is the other one when the flip is undone (R173). -/
theorem inject_of_flippedBy {b plain : StageBuf} {o : Nat} {g : Arming} (hc : plain.count = b.count)
    (h : flippedBy g (o / 64) plain.data b.data plain.parity b.parity) : b.inject o g = plain := by
  obtain ⟨hdata, hparity⟩ := (flippedBy_inject b o g).unique h.symm
  have hcount : (b.inject o g).count = plain.count := (StageBuf.inject_count ..).trans hc.symm
  cases hb : b.inject o g with
  | mk count data parity =>
    rw [hb] at hcount hdata hparity
    subst hcount hdata hparity
    rfl

theorem inject_inject (b : StageBuf) (o : Nat) (g : Arming) : (b.inject o g).inject o g = b :=
  inject_of_flippedBy (StageBuf.inject_count ..).symm (flippedBy_inject b o g)

/-! ### A sample that joins a write with a flip -/

/-- A sample joins a write that has taken a flip: the flip is applied over the bytes and parity of the sample, which are
those of the buffer without it (R173). -/
theorem Writer.stage_flipped {w : Writer} {o : Nat} {g : Arming} {plain : StageBuf} (bytes : List Byte)
    (armed : Option Arming) (hw : w.write = some ⟨o, some g⟩) (hplain : w.fillBuf.inject o g = plain) :
    w.stage bytes armed = { w with fillBuf := (plain.append bytes).inject o g } := by
  subst hplain
  cases w
  subst hw
  rfl

theorem takeStagingFlip_of_write {s : State} {i : StreamId} {d : StageWrite}
    (h : (s.stream i).writer.write = some d) : s.takeStagingFlip i = s := by
  rw [State.takeStagingFlip, h]
  rfl

/-- A staging write ends with its beat (log 7). -/
theorem Writer.movedPast_write (w : Writer) (width : Width) :
    (w.movedPast width).write = if w.beat.length ≤ width.bytes then none else w.write := by
  split
  · next hlast => rw [Writer.movedPast_ended (.inl hlast)]
  · next hmore => rw [Writer.movedPast_of_beat (Nat.lt_of_not_le hmore)]; rfl

/-- The next sample of stream `i` is a plain one to be kept, met in FILLING, and leaves its buffer short of full. -/
structure FillsShort (s : State) (i : StreamId) : Prop where
  sample : PlainSample (s.stream i)
  beat : (s.stream i).writer.beat ≠ []
  mode : (s.stream i).writer.mode = .filling
  kept : 2 ^ (s.stream i).writer.k ∣ (s.stream i).writer.index
  short : (s.stream i).writer.fillBuf.count + (s.stream i).cfg.width.bytes < 4096

namespace FillsShort

variable {s : State} {i : StreamId} (h : FillsShort s i)
include h

theorem mayProcess : (s.stream i).writer.mayProcess = true :=
  (mayProcess_iff _).2 ⟨h.beat, by rw [h.mode]; decide, by rw [h.mode]; decide⟩

theorem not_stalled : (s.stream i).stalled = false := by
  have hshort : ¬ stageBytes ≤ (s.stream i).writer.fillBuf.count + (s.stream i).cfg.width.bytes :=
    Nat.not_le.2 h.short
  simp [Stream.stalled, hshort]

theorem placeSample_eq :
    s.placeSample i = s.stageKept i ((s.stream i).writer.beat.take (s.stream i).cfg.width.bytes) := by
  have hkeeps : (s.stream i).writer.keeps = true := (keeps_iff _).2 ⟨by rw [h.mode]; decide, h.kept⟩
  unfold State.placeSample
  dsimp only
  rw [if_pos hkeeps, if_pos h.mode]

theorem sampleProcess_eq : s.sampleProcess i = (s.finishSample i).settle := by
  rw [State.sampleProcess, if_pos h.mayProcess, boundary_of_done h.sample.boundary]
  exact if_pos h.mayProcess

/-- Samples that are placed alike are processed alike. -/
theorem sampleProcess_congr {s' : State} (h' : FillsShort s' i) (hplace : s.placeSample i = s'.placeSample i) :
    s.sampleProcess i = s'.sampleProcess i := by
  rw [h.sampleProcess_eq, h'.sampleProcess_eq]
  simp only [State.finishSample, h.not_stalled, h'.not_stalled, hplace, Bool.false_eq_true, if_false]

/-- A further sample of a write with a flip: `plain` is the buffer without the flip. -/
theorem sampleProcess_flipped {o : Nat} {g : Arming} {plain : StageBuf} {list : List Entry} {e : Entry}
    (hw : (s.stream i).writer.write = some ⟨o, some g⟩) (hplain : (s.stream i).writer.fillBuf.inject o g = plain)
    (hcap : (s.stream i).capture = list ++ [e]) :
    let bytes := (s.stream i).writer.beat.take (s.stream i).cfg.width.bytes
    s.sampleProcess i = (s.setStream i { s.stream i with
      capture := list ++ [{ e with kept := e.kept + 1 }],
      writer := ({ (s.stream i).writer with
        fillBuf := (plain.append bytes).inject o g } : Writer).movedPast (s.stream i).cfg.width }).settle := by
  intro bytes
  have hcount : (plain.append bytes).count < 4096 := by
    have hlen : bytes.length ≤ (s.stream i).cfg.width.bytes := List.length_take_le ..
    have hshort := h.short
    have hsame : plain.count = (s.stream i).writer.fillBuf.count := hplain ▸ StageBuf.inject_count ..
    change plain.count + bytes.length < 4096
    omega
  have hswap : ({ (s.stream i).writer with fillBuf := (plain.append bytes).inject o g } : Writer).swapIfFull =
      { (s.stream i).writer with fillBuf := (plain.append bytes).inject o g } :=
    if_neg (by rw [StageBuf.inject_count]; exact Nat.not_le.2 hcount)
  have hplace : s.placeSample i = s.setStream i { s.stream i with
      capture := list ++ [{ e with kept := e.kept + 1 }],
      writer := { (s.stream i).writer with fillBuf := (plain.append bytes).inject o g } } := by
    rw [h.placeSample_eq, State.stageKept, takeStagingFlip_of_write hw, State.modStream,
      Writer.stage_flipped _ _ hw hplain, hswap, hcap, assignSample, modifyLast_append]
  have hroom : e.kept + 1 < 262144 / (s.stream i).cfg.width.bytes := h.sample.room e (by simp [hcap])
  rw [sampleProcess_plain h.sample h.mayProcess h.not_stalled hplace {}
    (by simp [Stream.blockFull, Stream.tail, blockBytes, Nat.not_le.2 hroom])]

/-- What a further sample of a write with a flip leaves: the monitor and the notices as they were, the write until its
beat ends, and the flip over the parity that the sample has set. -/
theorem sampleProcess_flipped_fields {o : Nat} {g : Arming} {plain : StageBuf} {list : List Entry} {e : Entry}
    (hw : (s.stream i).writer.write = some ⟨o, some g⟩) (hplain : (s.stream i).writer.fillBuf.inject o g = plain)
    (hcap : (s.stream i).capture = list ++ [e]) (hr : s.integ.replay.arming = none) :
    (s.sampleProcess i).integ = s.integ ∧ (s.sampleProcess i).notices = s.notices ∧
      ((s.sampleProcess i).stream i).writer.write =
        (if (s.stream i).writer.beat.length ≤ (s.stream i).cfg.width.bytes then none else some ⟨o, some g⟩) ∧
      ((s.sampleProcess i).stream i).writer.fillBuf =
        (plain.append ((s.stream i).writer.beat.take (s.stream i).cfg.width.bytes)).inject o g := by
  rw [h.sampleProcess_flipped hw hplain hcap]
  obtain ⟨hinteg, hnotices⟩ := settle_unarmed (s := s.setStream i _) hr
  refine ⟨hinteg, hnotices, ?_, ?_⟩
  · rw [settle_stream, State.setStream_stream_self, ← hw]
    exact Writer.movedPast_write ..
  · rw [settle_stream, State.setStream_stream_self]
    exact Writer.movedPast_fillBuf ..

end FillsShort

/-! ### The first sample of a write (R173, log 7) -/

/-- The state in which a staging write of stream `i` has taken the armed flip and has staged nothing yet. -/
def State.flipTaken (s : State) (i : StreamId) (g : Arming) : State :=
  (s.disarm .staging).setStream i { s.stream i with writer := { (s.stream i).writer with
    fillBuf := (s.stream i).writer.fillBuf.inject (s.stream i).writer.fillBuf.count g,
    write := some ⟨(s.stream i).writer.fillBuf.count, some g⟩ } }

section FlipTaken

variable {s : State} {i : StreamId} {g : Arming}

theorem flipTaken_stream : (s.flipTaken i g).stream i = { s.stream i with writer := { (s.stream i).writer with
    fillBuf := (s.stream i).writer.fillBuf.inject (s.stream i).writer.fillBuf.count g,
    write := some ⟨(s.stream i).writer.fillBuf.count, some g⟩ } } := State.setStream_stream_self ..

theorem FillsShort.flipTaken (h : FillsShort s i) : FillsShort (s.flipTaken i g) i := by
  obtain ⟨⟨hboundary, hmark, hlength, hlimit, hstop, hroom⟩, hbeat, hmode, hkept, hshort⟩ := h
  refine ⟨?_, ?_, ?_, ?_, ?_⟩ <;> rw [flipTaken_stream]
  · exact ⟨hboundary, hmark, hlength, hlimit, hstop, hroom⟩
  · exact hbeat
  · exact hmode
  · exact hkept
  · rw [StageBuf.inject_count]
    exact hshort

/-- The first sample of a write stages what a further one does once the flip is taken. -/
theorem stageKept_flipTaken (hw : (s.stream i).writer.write = none) (harm : s.integ.staging.arming = some g)
    (bytes : List Byte) : s.stageKept i bytes = (s.flipTaken i g).stageKept i bytes := by
  have htake : s.takeStagingFlip i = s.disarm .staging := by
    rw [State.takeStagingFlip, hw, harm]; rfl
  have hfirst : (s.stream i).writer.stage bytes (some g) = { (s.stream i).writer with
      fillBuf := ((s.stream i).writer.fillBuf.append bytes).inject (s.stream i).writer.fillBuf.count g,
      write := some ⟨(s.stream i).writer.fillBuf.count, some g⟩ } := by
    rw [Writer.stage, Writer.writeOf, hw]
    rfl
  have hwrite : ((s.flipTaken i g).stream i).writer.write = some ⟨(s.stream i).writer.fillBuf.count, some g⟩ := by
    rw [flipTaken_stream]
  have hplain : ((s.flipTaken i g).stream i).writer.fillBuf.inject (s.stream i).writer.fillBuf.count g =
      (s.stream i).writer.fillBuf := by rw [flipTaken_stream]; exact inject_inject ..
  have hfurther := Writer.stage_flipped bytes (s.flipTaken i g).integ.staging.arming hwrite hplain
  unfold State.stageKept
  rw [htake, takeStagingFlip_of_write hwrite, State.modStream, State.modStream, hfurther, flipTaken_stream, harm]
  dsimp only
  rw [show (s.disarm .staging).stream i = s.stream i from rfl, hfirst, State.flipTaken, State.setStream_setStream]

/-- The first kept sample of a write takes the armed flip of STAGING and goes on as a further one does. -/
theorem sampleProcess_flipTaken (h : FillsShort s i) (hw : (s.stream i).writer.write = none)
    (harm : s.integ.staging.arming = some g) : s.sampleProcess i = (s.flipTaken i g).sampleProcess i := by
  refine h.sampleProcess_congr h.flipTaken ?_
  rw [h.placeSample_eq, h.flipTaken.placeSample_eq, stageKept_flipTaken hw harm, flipTaken_stream]

end FlipTaken

end Sys2Proof.Machine
end

section
/-! SUPPORT. Poison units and the armed flip of CAPTURE in a flush: the words it writes, and what it counts (R158, R166,
R167, R172, R173). -/

namespace Sys2Proof.Machine

/-! ### The poison units (R167) -/

section Units

variable (addr : Nat)

/-- A failing word joins the units found, each unit once. -/
def joinUnit (acc : List (Nat × Nat)) (w : Nat) : List (Nat × Nat) :=
  let u := (addr / 8 + w) / 8
  if acc.any (fun p => p.1 == u) then acc else acc ++ [(u, addr + 8 * w)]

theorem poisonUnits_eq (b : StageBuf) : b.poisonUnits addr = b.badWords.foldl (joinUnit addr) [] := rfl

theorem joinUnit_units (acc : List (Nat × Nat)) (w : Nat) : (joinUnit addr acc w).map (·.1) =
    if (addr / 8 + w) / 8 ∈ acc.map (·.1) then acc.map (·.1) else acc.map (·.1) ++ [(addr / 8 + w) / 8] := by
  have hany : acc.any (fun p => p.1 == (addr / 8 + w) / 8) = true ↔ (addr / 8 + w) / 8 ∈ acc.map (·.1) := by
    simp [List.any_eq_true]
  unfold joinUnit
  dsimp only
  by_cases h : (addr / 8 + w) / 8 ∈ acc.map (·.1)
  · rw [if_pos (hany.2 h), if_pos h]
  · rw [if_neg fun h' => h (hany.1 h'), if_neg h, List.map_append]
    rfl

/-- The units found are those of the failing words, each once. -/
theorem foldl_joinUnit {ws : List Nat} {acc : List (Nat × Nat)} (h : (acc.map (·.1)).Nodup) :
    ((ws.foldl (joinUnit addr) acc).map (·.1)).Nodup ∧ ∀ u, u ∈ (ws.foldl (joinUnit addr) acc).map (·.1) ↔
      u ∈ acc.map (·.1) ∨ ∃ w ∈ ws, (addr / 8 + w) / 8 = u := by
  induction ws generalizing acc with
  | nil => exact ⟨h, fun u => by simp⟩
  | cons w ws ih =>
    have hunits := joinUnit_units addr acc w
    have hnext : ((joinUnit addr acc w).map (·.1)).Nodup ∧ ∀ u, u ∈ (joinUnit addr acc w).map (·.1) ↔
        u ∈ acc.map (·.1) ∨ (addr / 8 + w) / 8 = u := by
      rw [hunits]
      split
      · next hmem => exact ⟨h, fun u => ⟨.inl, fun hu => hu.elim id fun hw => hw ▸ hmem⟩⟩
      · next hmem => exact ⟨List.nodup_append_comm.1 (List.nodup_cons.2 ⟨hmem, h⟩), fun u => by simp [eq_comm]⟩
    obtain ⟨hnodup, hmem⟩ := ih hnext.1
    refine ⟨hnodup, fun u => (hmem u).trans ?_⟩
    rw [hnext.2]
    simp [or_assoc]

end Units

theorem mem_poisonUnits {b : StageBuf} {addr u : Nat} :
    u ∈ (b.poisonUnits addr).map (·.1) ↔ ∃ w ∈ b.badWords, (addr / 8 + w) / 8 = u := by
  rw [poisonUnits_eq, (foldl_joinUnit (acc := []) addr List.nodup_nil).2]
  simp

/-- Each unit with a failing word counts once. -/
theorem poisonUnits_length (b : StageBuf) (addr : Nat) :
    (b.poisonUnits addr).length = (b.badWords.map fun w => (addr / 8 + w) / 8).dedup.length := by
  have hnodup : ((b.poisonUnits addr).map (·.1)).Nodup := (foldl_joinUnit (acc := []) addr List.nodup_nil).1
  have hperm : ((b.poisonUnits addr).map (·.1)).Perm (b.badWords.map fun w => (addr / 8 + w) / 8).dedup :=
    (List.perm_ext_iff_of_nodup hnodup (List.nodup_dedup _)).2 fun u => by
      rw [mem_poisonUnits, List.mem_dedup, List.mem_map]
  rw [← hperm.length_eq, List.length_map]

theorem mem_badWords {b : StageBuf} {w : Nat} :
    w ∈ b.badWords ↔ w < b.words ∧ (parityOf (b.flushWord w) != b.parity.getD w false) = true := by
  rw [StageBuf.badWords, List.mem_filter, List.mem_range]
  rfl

/-! ### The words of a flush, one by one (R158, R167, R173) -/

theorem flipBytes_length (g : Arming) (bs : List Byte) : (g.flipBytes bs).length = bs.length := by
  unfold Arming.flipBytes
  split
  · rfl
  · exact foldl_flipBit_length ..

/-- Each word is written whole; without an armed flip its deviation is that of a clean or a poison word. -/
theorem writeFlushWords_cons (b : StageBuf) (addr : Nat) (poison : List Nat) (arm : Option Arming) (m : Memory)
    (n w : Nat) (ws : List Nat) : ∃ bytes e, bytes.length = 8 ∧
      (arm = none → e = ⟨0#64, 0#8, poison.contains ((addr / 8 + w) / 8)⟩) ∧
      writeFlushWords b addr poison arm m n (w :: ws) =
        writeFlushWords b addr poison arm (m.writeWord (addr / 8 + w) bytes e) (n + 1) ws := by
  have hlen : (if poison.contains ((addr / 8 + w) / 8) then zeros 8 else b.flushWord w).length = 8 := by
    split <;> simp
  match n, arm with
  | 0, some g => exact ⟨_, g.wordErr _, (flipBytes_length g _).trans hlen, nofun, rfl⟩
  | 0, none => exact ⟨_, _, hlen, fun _ => rfl, rfl⟩
  | n + 1, arm => exact ⟨_, _, hlen, fun _ => rfl, rfl⟩

/-- A word that is not among those written is left as it is. -/
theorem writeFlushWords_frame {b : StageBuf} {addr : Nat} {poison : List Nat} {arm : Option Arming} {m : Memory}
    (hm : m.wf = true) {n w : Nat} {ws : List Nat} (hw : w ∉ ws) :
    (writeFlushWords b addr poison arm m n ws).errAt (addr / 8 + w) = m.errAt (addr / 8 + w) ∧
      ∀ j, j < 8 → (writeFlushWords b addr poison arm m n ws).byteAt (8 * (addr / 8 + w) + j) =
        m.byteAt (8 * (addr / 8 + w) + j) := by
  induction ws generalizing m n with
  | nil => exact ⟨rfl, fun _ _ => rfl⟩
  | cons v ws ih =>
    obtain ⟨bytes, e, hlen, -, heq⟩ := writeFlushWords_cons b addr poison arm m n v ws
    obtain ⟨hne, hnot⟩ := not_or.1 (List.mem_cons.not.1 hw)
    obtain ⟨herr, hbyte⟩ :=
      ih (m := m.writeWord (addr / 8 + v) bytes e) (Memory.writeWord_wf hm ..) (n := n + 1) hnot
    rw [heq]
    refine ⟨herr.trans ?_, fun j hj => (hbyte j hj).trans ?_⟩
    · rw [Memory.writeWord_errAt hm, if_neg (by omega)]
    · rw [Memory.writeWord_byteAt hm, hlen, if_neg (by omega)]

/-- A flush without an armed flip writes the words of the poison units as poison, and no other (R167). -/
theorem writeFlushWords_errAt {b : StageBuf} {addr : Nat} {poison : List Nat} {m : Memory} (hm : m.wf = true)
    {n w : Nat} {ws : List Nat} (hws : ws.Nodup) (hw : w ∈ ws) :
    (writeFlushWords b addr poison none m n ws).errAt (addr / 8 + w) =
      ⟨0#64, 0#8, poison.contains ((addr / 8 + w) / 8)⟩ := by
  induction ws generalizing m n with
  | nil => nomatch hw
  | cons v ws ih =>
    obtain ⟨bytes, e, -, he, heq⟩ := writeFlushWords_cons b addr poison none m n v ws
    obtain ⟨hv, hws⟩ := List.nodup_cons.1 hws
    have hwf := Memory.writeWord_wf hm (addr / 8 + v) bytes e
    rw [heq]
    obtain rfl | hw := List.mem_cons.1 hw
    · obtain ⟨herr, -⟩ :=
        writeFlushWords_frame (b := b) (addr := addr) (poison := poison) (arm := none) hwf (n := n + 1) hv
      rw [herr, Memory.writeWord_errAt hm, if_pos rfl, he rfl]
    · exact ih hwf hws hw

theorem outcome_of_poison (p : Bool) : (⟨0#64, 0#8, p⟩ : WordErr).outcome = if p then .poison else .clean := by
  cases p <;> simp [WordErr.outcome, WordErr.bits]

/-! ### What a flush counts (R157, R167) -/

/-- Errors of STAGING counted one by one, each with MEMORY raised. -/
theorem foldl_countUncorrectable (us : List (Nat × Nat)) {s : State} (hs : s.integ.staging.uncorrectable ≤ 255)
    (hm : s.notices.device.memory ≤ 65535) :
    let t := us.foldl (fun s p => s.countUncorrectable .staging p.2) s
    t.integ.staging.uncorrectable = min 255 (s.integ.staging.uncorrectable + us.length) ∧
      t.notices.device.memory = min 65535 (s.notices.device.memory + us.length) := by
  induction us generalizing s with
  | nil => exact ⟨(Nat.min_eq_right hs).symm, (Nat.min_eq_right hm).symm⟩
  | cons u us ih =>
    have hcount : (s.countUncorrectable .staging u.2).integ.staging.uncorrectable =
        min 255 (s.integ.staging.uncorrectable + 1) := rfl
    have hmemory : (s.countUncorrectable .staging u.2).notices.device.memory =
        min 65535 (s.notices.device.memory + 1) := rfl
    obtain ⟨hcounts, hraised⟩ := ih (s := s.countUncorrectable .staging u.2) (by omega) (by omega)
    rw [List.foldl_cons, List.length_cons]
    exact ⟨by omega, by omega⟩

/-- A flush with CAPTURE disarmed counts each of its poison units (R167). -/
theorem writeFlush_counts {s : State} (b : StageBuf) (addr : Nat) (harm : s.integ.capture.arming = none)
    (hs : s.integ.staging.uncorrectable ≤ 255) (hm : s.notices.device.memory ≤ 65535) :
    (s.writeFlush b addr).integ.staging.uncorrectable =
        min 255 (s.integ.staging.uncorrectable + (b.poisonUnits addr).length) ∧
      (s.writeFlush b addr).notices.device.memory =
        min 65535 (s.notices.device.memory + (b.poisonUnits addr).length) := by
  unfold State.writeFlush
  rw [harm]
  exact foldl_countUncorrectable (b.poisonUnits addr) (s := { s with mem := _ }) hs hm

/-! ### The armed flip of CAPTURE (R172, R173) -/

/-- The bit of a word, check bits from 64 on, that position `q` of an arming names (R172). -/
def Arming.wordBit (g : Arming) (q : Nat) : Nat := if g.check then 64 + q else q

section Flip

variable {g : Arming}

theorem Arming.wordBit_lt {q : Nat} (hq : q < if g.check then 8 else 64) : g.wordBit q < 72 := by
  unfold Arming.wordBit
  split
  · next hcheck => rw [if_pos hcheck] at hq; omega
  · next hdata => rw [if_neg hdata] at hq; omega

/-- The deviation that a flip leaves in the word that takes it, position by position. -/
theorem Arming.wordErr_eq (h : ∀ q ∈ g.positions, q < if g.check then 8 else 64) :
    g.wordErr false = (g.positions.map g.wordBit).foldl WordErr.flip .clean := by
  unfold Arming.wordErr
  rw [List.foldl_map]
  refine List.foldl_ext _ _ _ fun e q hq => ?_
  have hlt := h q hq
  unfold WordErr.flip Arming.wordBit
  cases hg : g.check with
  | true => simp
  | false =>
    rw [hg] at hlt
    exact (if_pos hlt).symm

/-- The bytes of a word with one position of an arming inverted. -/
theorem Arming.flipBytes_getD {bs : List Byte} {j : Nat} (h : g.positions = [g.a]) (hj : j < bs.length)
    (ha : g.a < if g.check then 8 else 64) :
    (g.flipBytes bs).getD j 0#8 = bs.getD j 0#8 ^^^ flipMask (g.wordBit g.a) j := by
  unfold Arming.flipBytes Arming.wordBit flipMask
  rw [h]
  cases hg : g.check with
  | true => simp
  | false =>
    rw [hg] at ha
    have hlt : g.a < 64 := ha
    refine BitVec.eq_of_getLsbD_eq fun i hi => ?_
    refine (flipBit_getLsbD bs 0 g.a j i hj hi).trans ?_
    rw [BitVec.getLsbD_xor]
    by_cases hat : j = g.a / 8
    · simp [hat, hlt, getLsbD_one_shiftLeft (Nat.mod_lt g.a (by decide : 8 > 0))]
    · simp [hat]

theorem Arming.positions_of_one (h : g.b = none ∨ g.b = some g.a) : g.positions = [g.a] := by
  unfold Arming.positions
  obtain h | h := h <;> rw [h]
  exact if_pos rfl

theorem Arming.positions_of_two {q : Nat} (h : g.b = some q) (hne : q ≠ g.a) : g.positions = [g.a, q] := by
  unfold Arming.positions
  rw [h]
  exact if_neg hne

end Flip

/-- The first word of a flush takes the armed flip; the words after it do not touch it. -/
theorem writeFlushWords_first {b : StageBuf} {addr k : Nat} {g : Arming} {m : Memory} (hm : m.wf = true) :
    let m' := writeFlushWords b addr [] (some g) m 0 (List.range (k + 1))
    m'.errAt (addr / 8) = g.wordErr false ∧
      ∀ j, j < 8 → m'.byteAt (8 * (addr / 8) + j) = (g.flipBytes (b.flushWord 0)).getD j 0#8 := by
  have hlen : (g.flipBytes (b.flushWord 0)).length = 8 :=
    (flipBytes_length ..).trans (flushWord_length ..)
  have hwf := Memory.writeWord_wf hm (addr / 8) (g.flipBytes (b.flushWord 0)) (g.wordErr false)
  have hrest : 0 ∉ (List.range k).map Nat.succ := by simp
  obtain ⟨herr, hbyte⟩ :=
    writeFlushWords_frame (b := b) (addr := addr) (poison := []) (arm := some g) hwf (n := 1) hrest
  rw [List.range_succ_eq_map]
  refine ⟨herr.trans ?_, fun j hj => (hbyte j hj).trans ?_⟩
  · rw [Memory.writeWord_errAt hm]
    exact if_pos rfl
  · rw [Memory.writeWord_byteAt hm, hlen, Nat.add_zero, if_pos (by omega), Nat.add_sub_cancel_left]

/-- A flush of sound words with CAPTURE armed: the flip goes to the first word, the memory is disarmed and INJECTION is
raised (R173). -/
theorem writeFlush_armed {s : State} {b : StageBuf} {g : Arming} (addr : Nat) (harm : s.integ.capture.arming = some g)
    (hcount : 0 < b.words) (hok : ∀ w < b.words, b.flushOk w = true) :
    s.writeFlush b addr = ({ s with
      mem := writeFlushWords b addr [] (some g) s.mem 0 (List.range b.words) } : State).disarm .capture := by
  have hbad : b.badWords = [] := List.filter_eq_nil_iff.2 fun w hw => by simp [hok w (List.mem_range.1 hw)]
  have hunits : b.poisonUnits addr = [] := by rw [StageBuf.poisonUnits, hbad]; rfl
  unfold State.writeFlush
  rw [hunits, harm]
  exact if_pos (by simpa using hcount)

/-- One position inverted in the first word: it is corrected, and its bytes are delivered as the flush wrote them. -/
theorem flush_flips_one {b : StageBuf} {addr k : Nat} {g : Arming} {m : Memory} (hm : m.wf = true)
    (haddr : addr % 8 = 0) (hone : g.positions = [g.a]) (ha : g.a < if g.check then 8 else 64) :
    let m' := writeFlushWords b addr [] (some g) m 0 (List.range (k + 1))
    (m'.errAt (addr / 8)).outcome = .corrected ∧
      ∀ j, j < 8 → m'.delivered (addr + j) = (b.flushWord 0).getD j 0#8 := by
  intro m'
  obtain ⟨herr, hbyte⟩ := writeFlushWords_first (b := b) (addr := addr) (k := k) (g := g) hm
  have hlt : g.wordBit g.a < 72 := Arming.wordBit_lt ha
  have hflip : m'.errAt (addr / 8) = WordErr.clean.flip (g.wordBit g.a) := by
    rw [herr, Arming.wordErr_eq (by simpa [hone] using ha), hone]
    rfl
  refine ⟨by rw [hflip]; exact WordErr.flip_outcome hlt, fun j hj => ?_⟩
  have hbytes := Arming.flipBytes_getD (bs := b.flushWord 0) hone (by rwa [flushWord_length]) ha
  rw [show addr + j = 8 * (addr / 8) + j by omega, delivered_of_flip hflip hlt hj, hbyte j hj, hbytes, BitVec.xor_assoc,
    BitVec.xor_self, BitVec.xor_zero]

/-- Two positions inverted in the first word: it is uncorrectable. -/
theorem flush_flips_two {b : StageBuf} {addr k q : Nat} {g : Arming} {m : Memory} (hm : m.wf = true)
    (htwo : g.positions = [g.a, q]) (hne : q ≠ g.a) (ha : g.a < if g.check then 8 else 64)
    (hq : q < if g.check then 8 else 64) :
    ((writeFlushWords b addr [] (some g) m 0 (List.range (k + 1))).errAt (addr / 8)).outcome = .uncorrectable := by
  obtain ⟨herr, -⟩ := writeFlushWords_first (b := b) (addr := addr) (k := k) (g := g) hm
  have hbits : g.wordBit g.a ≠ g.wordBit q := by
    unfold Arming.wordBit
    split <;> omega
  rw [herr, Arming.wordErr_eq (by simpa [htwo] using ⟨ha, hq⟩), htwo]
  exact WordErr.flip_flip_outcome (Arming.wordBit_lt ha) (Arming.wordBit_lt hq) hbits

/-! ### The statement -/

/-- The words of the units with a parity error, and no other of the flush, are poison. -/
theorem flush_poisons {s : State} (i : StreamId) {addr : Nat} {b : StageBuf} (hwf : s.mem.wf = true)
    (harm : s.integ.capture.arming = none) {n : Nat} (hn : n < b.words) :
    ((((s.writeFlush b addr).flushTail i).mem.errAt (addr / 8 + n)).outcome = .poison ↔
      ∃ w ∈ b.badWords, (addr / 8 + w) / 8 = (addr / 8 + n) / 8) := by
  rw [flushTail_mem, State.writeFlush_mem, harm, writeFlushWords_errAt hwf List.nodup_range (List.mem_range.2 hn),
    outcome_of_poison, ← mem_poisonUnits, ← List.contains_iff_mem]
  split
  · next hp => exact iff_of_true rfl hp
  · next hp => exact iff_of_false nofun hp

/-- Settles O33: the poison units of a flush, the flip its first word takes, and the flip of a staging write. -/
theorem stagingErrorsAndInjection : Obligations.StagingErrorsAndInjection := by
  refine ⟨?_, ?_, ?_⟩
  · intro i addr b rest s words bad units hwf hg ha _ hin harm hs hm
    obtain ⟨hcount, hmemory⟩ := writeFlush_counts b addr harm hs hm
    obtain ⟨hcounted, hraised⟩ := flushTail_counts (s.writeFlush b addr) i
    rw [poisonUnits_length] at hcount hmemory
    refine ⟨_, exec_flushComplete hg ha hin, fun n hn => ?_, hcounted.trans hcount, hraised.trans hmemory⟩
    rw [flush_poisons i hwf harm hn]
    simp only [mem_badWords, and_assoc]
    exact exists_congr fun w => and_congr_right fun _ => and_comm
  · intro i addr b rest g s limit hwf hg ha haddr hin hcount hparity harm hstaging hreplay hlta hltb
    obtain ⟨k, hk⟩ : ∃ k, b.words = k + 1 := Nat.exists_eq_add_one.2 (by unfold StageBuf.words; omega)
    have hok (n : Nat) (hn : n < b.words) : b.flushOk n = true := by simp [StageBuf.flushOk, hparity n hn]
    have hwrite := writeFlush_armed addr harm (by omega) hok
    rw [hk] at hwrite
    obtain ⟨hinteg, hdevice⟩ := flushTail_unarmed (u := s.writeFlush b addr) i
      (by rw [hwrite]; exact hstaging) (by rw [hwrite]; exact hreplay)
    have hmem : ((s.writeFlush b addr).flushTail i).mem =
        writeFlushWords b addr [] (some g) s.mem 0 (List.range (k + 1)) := by rw [flushTail_mem, hwrite]; rfl
    refine ⟨_, exec_flushComplete hg ha hin, by rw [hinteg, hwrite]; rfl, by rw [hdevice, hwrite]; rfl,
      fun hone => ?_, fun q hq hne => ?_⟩
    · obtain ⟨houtcome, hbytes⟩ := flush_flips_one (b := b) (k := k) hwf haddr (Arming.positions_of_one hone) hlta
      rw [hmem]
      refine ⟨houtcome, fun j hj => (hbytes j hj).trans ?_⟩
      rw [flushWord_getD b 0 hj, Nat.mul_zero, Nat.zero_add]
    · rw [hmem]
      exact flush_flips_two hwf (Arming.positions_of_two hq hne) hne hlta (hltb q hq)
  · intro i list e g s x w bs hsample hbeat hmode hkept hshort hcap _
    have h : FillsShort s i := ⟨hsample, hbeat, hmode, hkept, hshort⟩
    refine ⟨fun hw harm hreplay => ⟨_, rfl, ?_⟩, fun o plain hw hreplay hcount hflip => ⟨_, rfl, ?_⟩⟩
    · obtain ⟨hinteg, hnotices, hwrite, hbuf⟩ := h.flipTaken.sampleProcess_flipped_fields (g := g)
        (plain := w.fillBuf) (o := w.fillBuf.count) (list := list) (e := e) (by rw [flipTaken_stream])
        (by rw [flipTaken_stream]; exact inject_inject ..) (by rw [flipTaken_stream]; exact hcap) hreplay
      rw [flipTaken_stream] at hwrite hbuf
      rw [sampleProcess_flipTaken h hw harm]
      refine ⟨hinteg, by rw [hnotices]; rfl, hwrite, ?_⟩
      dsimp only
      rw [hbuf]
      exact ⟨StageBuf.inject_count .., flippedBy_inject ..⟩
    · obtain ⟨hinteg, hnotices, -, hbuf⟩ :=
        h.sampleProcess_flipped_fields hw (inject_of_flippedBy hcount hflip) hcap hreplay
      refine ⟨hinteg, by rw [hnotices], ?_⟩
      dsimp only
      rw [hbuf]
      exact ⟨StageBuf.inject_count .., flippedBy_inject ..⟩

end Sys2Proof.Machine
end
section
/-! SUPPORT. The slots of the control link through every step: what leaves the outbound queue and the requests in flight
alone, and that a reservation is made for each request taken and ends with its reply (R178, R181, R182, R185, R188). -/

namespace Sys2Proof.Machine

/-! ### What leaves the slots alone -/

/-- The parts of the state that the law of the slots reads: the control link, the sync context and the PREVIEW. -/
def State.slotParts (s : State) : Control × SyncCtx × Option Preview := (s.ctl, s.link.sync, s.preview)

/-- State `t` holds the control link of `s`, and as many requests are in flight. -/
structure State.KeepsSlots (s t : State) : Prop where
  ctl : t.ctl = s.ctl
  owed : t.owed = s.owed

/-- The reservations of requests in flight depend on whether the sync context is idle and on whether a PREVIEW is in
flight (R185). -/
theorem owed_congr {s t : State} (hsync : t.link.sync.phase = .idle ↔ s.link.sync.phase = .idle)
    (hpreview : t.preview.isSome = s.preview.isSome) : t.owed = s.owed := by
  simp only [State.owed, hsync, hpreview]

namespace State.KeepsSlots

variable {s t u : State}

theorem refl (s : State) : s.KeepsSlots s := ⟨rfl, rfl⟩

theorem trans (h : s.KeepsSlots t) (g : t.KeepsSlots u) : s.KeepsSlots u :=
  ⟨g.ctl.trans h.ctl, g.owed.trans h.owed⟩

/-- A change that touches neither the control link nor the sync context nor a PREVIEW. -/
theorem of_same (h : t.slotParts = s.slotParts) : s.KeepsSlots t := by
  obtain ⟨hc, hrest⟩ := Prod.mk.inj h
  obtain ⟨hs, hp⟩ := Prod.mk.inj hrest
  exact ⟨hc, owed_congr (by rw [hs]) (by rw [hp])⟩

/-- A change of the sync context that leaves it idle, or in use. -/
theorem of_sync (hs : t.link.sync.phase = .idle ↔ s.link.sync.phase = .idle) (hc : t.ctl = s.ctl)
    (hp : t.preview = s.preview) : s.KeepsSlots t :=
  ⟨hc, owed_congr hs (by rw [hp])⟩

theorem settle (h : s.KeepsSlots t) : s.KeepsSlots t.settle :=
  h.trans (.of_same (by rw [State.slotParts, settle_ctl, settle_sync, settle_preview]; rfl))

/-- Changes made one after another leave the slots alone if each one does. -/
theorem foldl {α : Type} {f : State → α → State} (h : ∀ (s : State) (a : α), s.KeepsSlots (f s a)) (l : List α)
    (s : State) : s.KeepsSlots (l.foldl f s) := by
  induction l generalizing s with
  | nil => exact refl s
  | cons a l ih => exact (h s a).trans (ih _)

end State.KeepsSlots

/-! ### Capture memory and the block manager (chapters 1 and 8) -/

theorem countUncorrectable_keepsSlots (s : State) (m : MemId) (a : Nat) : s.KeepsSlots (s.countUncorrectable m a) :=
  .of_same rfl

theorem countUnits_keepsSlots (s : State) (addr len : Nat) (us : List Nat) :
    s.KeepsSlots (s.countUnits addr len us) := by
  obtain ⟨g, d, h⟩ := countUnits_eq s addr len us
  rw [h]; exact .of_same (by rfl)

theorem countStaging_keepsSlots (s : State) (addrs : List Nat) : s.KeepsSlots (s.countStaging addrs) := by
  obtain ⟨g, d, h⟩ := countStaging_eq s addrs
  rw [h]; exact .of_same (by rfl)

theorem writeFlush_keepsSlots (s : State) (b : StageBuf) (addr : Nat) : s.KeepsSlots (s.writeFlush b addr) := by
  unfold State.writeFlush
  dsimp only
  refine .trans ?_ (.foldl (fun s (p : Nat × Nat) => countUncorrectable_keepsSlots s .staging p.2) _ _)
  split <;> exact .of_same (by rfl)

theorem upsets_keepsSlots (s : State) (us : List Upset) : s.KeepsSlots (s.upsets us) :=
  .foldl (fun _ u => by cases u <;> exact .of_same (by rfl)) us s

theorem releaseScan_keepsSlots (s : State) (i : StreamId) (all : Bool) : s.KeepsSlots (s.releaseScan i all) := by
  rw [releaseScan_eq]; exact .of_same (by rfl)

theorem finishBuild_keepsSlots (s : State) (e : CommitEntry) (r : Replay) : s.KeepsSlots (s.finishBuild e r) := by
  obtain ⟨r', h | h⟩ := finishBuild_eq s e r <;> rw [h] <;> exact .of_same (by rfl)

theorem portGrant_keepsSlots (s : State) : s.KeepsSlots s.portGrant := by
  obtain ⟨p, h⟩ := portGrant_eq s
  rw [h]; exact .of_same (by rfl)

theorem drainTake_keepsSlots (s : State) (addr len pos : Nat) : s.KeepsSlots (s.drainTake addr len pos) := by
  unfold State.drainTake
  split
  · next e r _ _ =>
    have hmark (t : State) (c : Bool) : t.KeepsSlots (if c then t.modStream e.stream fun x =>
        { x with capture := markRetire (addr / blockBytes) x.capture } else t) := by
      split <;> exact .of_same (by rfl)
    have hread {t : State} (h : s.KeepsSlots t) (c : Bool) : s.KeepsSlots ((if c then t.modStream e.stream fun x =>
        { x with capture := markRetire (addr / blockBytes) x.capture } else t).countUnits addr len
          (unitsOf addr len)) := (h.trans (hmark t c)).trans (countUnits_keepsSlots ..)
    dsimp only
    split
    · exact (hread (.of_same (by rfl)) _).trans (finishBuild_keepsSlots ..)
    · exact hread (.of_same (by rfl)) _
  · exact .refl s

/-! ### The capture writer, lanes and AUX lines (chapters 2 and 3) -/

theorem startSeal_keepsSlots (s : State) (i : StreamId) : s.KeepsSlots (s.startSeal i) := by
  rw [startSeal_eq]; exact .of_same (by rfl)

theorem stopWriter_keepsSlots (s : State) (i : StreamId) : s.KeepsSlots (s.stopWriter i) := by
  rw [stopWriter_eq]; exact .of_same (by rfl)

theorem requestStop_keepsSlots (s : State) (i : StreamId) (reason : CloseReason) :
    s.KeepsSlots (s.requestStop i reason) := by
  rw [requestStop_eq]; exact .of_same (by rfl)

theorem take_keepsSlots {s t : State} {i : StreamId} {first k : Nat} {gap : Option Gap}
    (h : s.take i first k gap = some t) : s.KeepsSlots t := by
  obtain ⟨b, rest, -, rfl⟩ := take_some h
  dsimp only
  split <;> exact .of_same (by rfl)

theorem victimTake_keepsSlots {s t : State} {i : StreamId} {first k : Nat} (h : s.victimTake i first k = some t) :
    s.KeepsSlots t := by
  unfold State.victimTake at h
  split at h
  · nomatch h
  · obtain rfl := Option.some.inj h
    exact .of_same (by rfl)

theorem getBlock_keepsSlots (s : State) (i : StreamId) : s.KeepsSlots (s.getBlock i).1 := by
  have hdrop : s.KeepsSlots (s.enterDropping i) := .of_same (by rfl)
  unfold State.getBlock
  dsimp only
  split
  · next h => exact (take_keepsSlots h).trans (.of_same (by rfl))
  · split
    · split
      · next h => exact (victimTake_keepsSlots h).trans (.of_same (by rfl))
      · exact hdrop
    · exact hdrop

theorem stageKept_keepsSlots (s : State) (i : StreamId) (bytes : List Byte) : s.KeepsSlots (s.stageKept i bytes) := by
  have hflip : s.KeepsSlots (s.takeStagingFlip i) := by
    unfold State.takeStagingFlip
    split <;> exact .of_same (by rfl)
  exact hflip.trans (.of_same (by rfl))

theorem placeSample_keepsSlots (s : State) (i : StreamId) : s.KeepsSlots (s.placeSample i) := by
  unfold State.placeSample
  dsimp only
  split
  · split
    · exact stageKept_keepsSlots ..
    · split
      · exact (getBlock_keepsSlots s i).trans (stageKept_keepsSlots ..)
      · exact getBlock_keepsSlots s i
  · exact .refl s

theorem latchMarker_keepsSlots (s : State) (i : StreamId) (index : Nat) (src : MarkSource) :
    s.KeepsSlots (s.latchMarker i index src) := by
  unfold State.latchMarker
  dsimp only
  split
  · split <;> exact .of_same (by rfl)
  · exact .refl s

theorem boundary_keepsSlots (s : State) (i : StreamId) : s.KeepsSlots (s.boundary i) := by
  have hstep (t : State) : t.KeepsSlots (t.decimateAt i) := by
    rw [decimateAt_eq]
    split <;> exact .of_same (by rfl)
  have hresume (t : State) : t.KeepsSlots (t.resume i) := by
    unfold State.resume
    dsimp only
    split
    · split
      · next h => exact (take_keepsSlots h).trans (.of_same (by rfl))
      · exact .refl t
    · exact .refl t
  unfold State.boundary
  split
  · exact .trans (.of_same (by rfl)) ((hstep _).trans (hresume _))
  · exact .refl s

theorem finishSample_keepsSlots (s : State) (i : StreamId) : s.KeepsSlots (s.finishSample i) := by
  have hmark (t : State) : t.KeepsSlots (t.enterLaneMark i) := by
    obtain ⟨n, h, -⟩ := enterLaneMark_eq t i
    rw [h]; exact .of_same (by rfl)
  have hseal (t : State) : t.KeepsSlots (if (t.stream i).blockFull then t.startSeal i else t) := by
    split
    · exact startSeal_keepsSlots t i
    · exact .refl t
  have hlength (t : State) : t.KeepsSlots (t.lengthStop i) := by
    unfold State.lengthStop
    dsimp only
    split
    · exact .trans (.of_same (by rfl)) (requestStop_keepsSlots ..)
    · exact .refl t
  have hstop (t : State) : t.KeepsSlots (if (t.stream i).writer.stopReached then t.stopWriter i else t) := by
    split
    · exact stopWriter_keepsSlots t i
    · exact .refl t
  unfold State.finishSample
  split
  · exact .refl s
  · have hpast : s.KeepsSlots (((s.placeSample i).enterLaneMark i).advance i) :=
      ((placeSample_keepsSlots s i).trans (hmark _)).trans (.of_same (by rfl))
    exact ((hpast.trans (hseal _)).trans (hlength _)).trans (hstop _)

theorem sampleProcess_keepsSlots (s : State) (i : StreamId) : s.KeepsSlots (s.sampleProcess i) := by
  unfold State.sampleProcess
  dsimp only
  split
  · split
    · exact ((boundary_keepsSlots s i).trans (finishSample_keepsSlots _ i)).settle
    · exact (boundary_keepsSlots s i).settle
  · exact .refl s

theorem flushAgeExpiry_keepsSlots (s : State) (i : StreamId) : s.KeepsSlots (s.flushAgeExpiry i) := by
  unfold State.flushAgeExpiry
  dsimp only
  split
  · exact (startSeal_keepsSlots s i).settle
  · exact .refl s

theorem flushDone_keepsSlots (s : State) (i : StreamId) (addr : Nat) (orphan : Option StageBuf) :
    s.KeepsSlots (s.flushDone i addr orphan) := by
  have hwrite (b : StageBuf) : s.KeepsSlots (s.writeFlush b addr).freePort :=
    (writeFlush_keepsSlots ..).trans (.of_same (by rfl))
  have hafter (t : State) : t.KeepsSlots (t.afterFlush i) := by
    have hseal : t.KeepsSlots (t.modStream i Stream.makeSeal) := .of_same (by rfl)
    unfold State.afterFlush
    dsimp only
    split
    · split
      · exact hseal.trans (finishSample_keepsSlots ..)
      · exact hseal
    · exact .refl t
  unfold State.flushDone
  split
  · exact (hwrite _).settle
  · split
    · exact .settle (.of_same (by rfl))
    · next b _ _ =>
      have hflushed : s.KeepsSlots ((s.writeFlush b addr).freePort.modWriter i Writer.flushed) :=
        (hwrite b).trans (.of_same (by rfl))
      exact (hflushed.trans (hafter _)).settle

theorem beatArrival_keepsSlots (s : State) (i : StreamId) (beat : List Byte) (mark : Option Nat) :
    s.KeepsSlots (s.beatArrival i beat mark) := by
  unfold State.beatArrival
  dsimp only
  split
  · exact .refl s
  · exact .refl s
  · split <;> exact .of_same (by rfl)
  · exact .of_same (by rfl)
  · split <;> exact .of_same (by rfl)

theorem beatTake_keepsSlots (s : State) (i : StreamId) : s.KeepsSlots (s.beatTake i) := by
  unfold State.beatTake
  dsimp only
  split
  · exact .refl s
  · split <;> exact .of_same (by rfl)

theorem auxEdge_keepsSlots (s : State) (line : AuxLine) (rising : Bool) : s.KeepsSlots (s.auxEdge line rising) := by
  unfold State.auxEdge
  split
  · refine .foldl (fun s i => ?_) _ s
    unfold State.auxStream
    dsimp only
    split
    · exact .of_same (by rfl)
    · split
      · exact latchMarker_keepsSlots ..
      · exact .refl s
  · exact .refl s

/-! ### Run control (chapter 4) -/

theorem pfailAssert_keepsSlots (s : State) : s.KeepsSlots s.pfailAssert := by
  have hstream (s : State) (i : StreamId) : s.KeepsSlots (s.powerFailStream i) := by
    unfold State.powerFailStream
    split
    · exact .trans (.of_same (by rfl)) (requestStop_keepsSlots (s.raise i .run) i .powerFail)
    · exact .of_same (by rfl)
    · exact .refl s
  unfold State.pfailAssert
  split
  · exact .refl s
  · have hline : s.KeepsSlots { s with pfail := true, powerFail := true } := .of_same (by rfl)
    exact .settle (.trans (hline.trans (.foldl hstream StreamId.all _)) (.of_same (by rfl)))

theorem pfailDeassert_keepsSlots (s : State) : s.KeepsSlots s.pfailDeassert := by
  unfold State.pfailDeassert
  split <;> exact .of_same (by rfl)

/-- A PREVIEW that keeps its staged samples over an abort stays in flight (log 10). -/
theorem abortRun_keepsSlots (s : State) (i : StreamId) : s.KeepsSlots (s.abortRun i) := by
  have hsnap : s.KeepsSlots (s.previewSnap i) := by
    obtain h | ⟨p, segs, hp, -, h⟩ := previewSnap_cases s i <;> rw [h]
    · exact .refl s
    · exact ⟨rfl, owed_congr Iff.rfl (by rw [hp]; rfl)⟩
  unfold State.abortRun
  dsimp only
  split <;> exact hsnap.trans (.of_same (by rfl))

/-! ### The placement unit, the cutter and the archive link (chapters 5 to 7) -/

theorem evalLow_keepsSlots (s : State) : s.KeepsSlots s.evalLow := by
  unfold State.evalLow
  dsimp only
  split <;> exact .of_same (by rfl)

theorem placeRequest_keepsSlots (s : State) (size : Nat) : s.KeepsSlots (s.placeRequest size).1 := by
  unfold State.placeRequest
  dsimp only
  split
  · exact .trans (.of_same (by rfl)) (evalLow_keepsSlots _)
  · refine .trans ?_ (evalLow_keepsSlots _)
    split <;> exact .of_same (by rfl)

theorem cut_keepsSlots (s : State) : s.KeepsSlots s.cut := by
  unfold State.cut
  split
  · split
    · exact .refl s
    · split
      · exact .refl s
      · unfold State.cutRecord
        dsimp only
        split
        · exact placeRequest_keepsSlots ..
        · exact .settle ((placeRequest_keepsSlots ..).trans (.of_same (by rfl)))
  · exact .refl s

theorem rePlace_keepsSlots (s : State) : s.KeepsSlots s.rePlace := by
  unfold State.rePlace
  split
  · exact .refl s
  · split
    · exact .refl s
    · dsimp only
      split
      · exact placeRequest_keepsSlots ..
      · exact .settle ((placeRequest_keepsSlots ..).trans (.of_same (by rfl)))

theorem failEntry_keepsSlots (s : State) (p : CommitEntry → Bool) (e : CommitEntry) (cause : FailCause)
    (code : Option Byte) : s.KeepsSlots (s.failEntry p e cause code) := by
  have hbuffer (t : State) : t.KeepsSlots (if e.st = .sending then
      { t with port := t.port.orphanDrain, link := { t.link with replay := none } } else t) := by
    split <;> exact .of_same (by rfl)
  have hdead (t : State) : t.KeepsSlots (match e.addr with | none => t | some a => t.deadSpan a e.size) := by
    split <;> exact .of_same (by rfl)
  have hstuck (t : State) : t.KeepsSlots (if e.placements < 3 then t
      else (t.modStream e.stream fun x => { x with drain := .blocked }).raise e.stream .archiveFault) := by
    split <;> exact .of_same (by rfl)
  have hfailed : s.KeepsSlots (s.modLink fun l =>
      { l with commit := modifyFirst p (fun f => f.failed cause code) l.commit }) := .of_same (by rfl)
  exact ((hfailed.trans (hbuffer _)).trans (hdead _)).trans (hstuck _)

theorem trySend_keepsSlots (s : State) : s.KeepsSlots s.trySend := by
  have hcount (e : CommitEntry) (r : Replay) (bad : List Nat) : s.KeepsSlots (bad.foldl (fun s g =>
      s.countUncorrectable .replay (e.addr.getD 0 + r.off + 64 * g)) s) :=
    .foldl (fun s g => countUncorrectable_keepsSlots s .replay (e.addr.getD 0 + r.off + 64 * g)) bad s
  obtain h | ⟨e, r, -, -, -, -, ⟨-, h⟩ | ⟨-, h⟩⟩ := trySend_cases s <;> rw [h]
  · exact .refl s
  · exact .of_same (by rfl)
  · refine .trans ?_ (portGrant_keepsSlots _)
    unfold State.rebuild
    dsimp only
    split
    · exact (hcount ..).trans (finishBuild_keepsSlots ..)
    · exact (hcount ..).trans (.of_same (by rfl))

theorem durableQuerySend_keepsSlots (s : State) : s.KeepsSlots s.durableQuerySend := by
  rw [durableQuerySend_eq]
  split
  · next hdue => exact .of_sync (iff_of_false nofun (by rw [hdue.2.2]; nofun)) rfl rfl
  · exact .refl s

theorem accept_keepsSlots (s : State) : s.KeepsSlots s.accept := by
  obtain h | h | ⟨e, r, -, -, h⟩ := accept_cases s <;> rw [h]
  · exact .refl s
  · exact .of_same (by rfl)
  · exact .settle (.of_same (by rfl))

theorem retry_keepsSlots (s : State) (us : List Upset) : s.KeepsSlots (s.retry us) := by
  have hfree : s.KeepsSlots (s.modLink Link.freeSlot) := .of_same (by rfl)
  unfold State.retry
  split
  · dsimp only
    split
    · exact hfree
    · split
      · exact ((hfree.trans (.of_same (by rfl))).trans (upsets_keepsSlots _ us)).trans (trySend_keepsSlots _)
      · exact (hfree.trans (failEntry_keepsSlots ..)).settle
  · exact .refl s

theorem narrow_keepsSlots (s : State) : s.KeepsSlots s.narrow := by
  have hfree : s.KeepsSlots (s.modLink Link.freeSlot) := .of_same (by rfl)
  unfold State.narrow
  split
  · dsimp only
    split
    · split
      · exact (hfree.trans (.of_same (by rfl))).settle
      · exact (hfree.trans (failEntry_keepsSlots ..)).settle
    · exact hfree
  · exact .refl s

theorem refuseWrite_keepsSlots (s : State) (code : Byte) : s.KeepsSlots (s.refuseWrite code) := by
  have hfree : s.KeepsSlots (s.modLink Link.freeSlot) := .of_same (by rfl)
  unfold State.refuseWrite
  split
  · dsimp only
    split
    · exact hfree
    · exact (hfree.trans (failEntry_keepsSlots ..)).settle
  · exact .refl s

theorem refusedMessage_keepsSlots (s : State) (a : Nat) (code : Byte) : s.KeepsSlots (s.refusedMessage a code) := by
  unfold State.refusedMessage
  split
  · split
    · exact .of_same (by rfl)
    · exact failEntry_keepsSlots ..
  · exact .refl s

theorem commitTimeout_keepsSlots (s : State) (i : StreamId) (seq : Nat) : s.KeepsSlots (s.commitTimeout i seq) := by
  unfold State.commitTimeout
  split
  · exact .refl s
  · split
    · exact failEntry_keepsSlots ..
    · exact .refl s

/-- A query that is abandoned is due again: its SYNC stays in flight (R149). -/
theorem abandonLink_keepsSlots (s : State) : s.KeepsSlots s.abandonLink := by
  refine .of_sync ?_ rfl rfl
  show s.link.sync.requeue.phase = .idle ↔ _
  unfold SyncCtx.requeue
  split
  · next hout => exact iff_of_false nofun (by rw [hout]; nofun)
  · exact Iff.rfl

theorem raiseArchiveFaults_keepsSlots (s : State) : s.KeepsSlots s.raiseArchiveFaults := by
  obtain ⟨n, h, -⟩ := raiseArchiveFaults_eq s
  rw [h]; exact .of_same (by rfl)

theorem linkFault_keepsSlots (s : State) (cause : LinkFault) : s.KeepsSlots (s.linkFault cause) := by
  unfold State.linkFault
  split
  · exact ((abandonLink_keepsSlots s).trans (.of_same (by rfl))).trans (raiseArchiveFaults_keepsSlots _)
  · exact .refl s

theorem linkDisable_keepsSlots (s : State) : s.KeepsSlots s.linkDisable := by
  unfold State.linkDisable
  split
  · exact .refl s
  · exact ((abandonLink_keepsSlots s).trans (.of_same (by rfl))).trans (raiseArchiveFaults_keepsSlots _)

theorem linkEnable_keepsSlots (s : State) : s.KeepsSlots s.linkEnable := by
  unfold State.linkEnable
  split <;> exact .of_same (by rfl)

theorem responseTimeout_keepsSlots (s : State) : s.KeepsSlots s.responseTimeout := by
  unfold State.responseTimeout
  split
  · exact linkFault_keepsSlots ..
  · exact .refl s

theorem faultWaitEnd_keepsSlots (s : State) : s.KeepsSlots s.faultWaitEnd := by
  unfold State.faultWaitEnd
  split <;> exact .of_same (by rfl)

theorem trainingReply_keepsSlots (s : State) : s.KeepsSlots s.trainingReply := by
  unfold State.trainingReply
  split
  · exact .settle (.of_same (by rfl))
  · exact .refl s

theorem attemptEnd_keepsSlots (s : State) : s.KeepsSlots s.attemptEnd := by
  unfold State.attemptEnd
  split <;> exact .of_same (by rfl)

theorem restEnd_keepsSlots (s : State) : s.KeepsSlots s.restEnd := by
  unfold State.restEnd
  split <;> exact .of_same (by rfl)

theorem notYet_keepsSlots (s : State) : s.KeepsSlots s.notYet := by
  unfold State.notYet
  split
  · dsimp only
    split
    · next hout => exact .of_sync (iff_of_false nofun (by rw [hout]; nofun)) rfl rfl
    · exact .of_same (by rfl)
  · exact .refl s

theorem pollWaitEnd_keepsSlots (s : State) : s.KeepsSlots s.pollWaitEnd := by
  unfold State.pollWaitEnd
  split
  · next hwait => exact .of_sync (iff_of_false nofun (by rw [hwait]; nofun)) rfl rfl
  · exact .refl s

/-! ### The law of the slots -/

/-- The law of the slots, but for `n` reservations of requests taken whose rules still run. -/
structure State.Accounts (s : State) (n : Nat) : Prop where
  slots : s.ctl.reserved + s.ctl.out.length ≤ 8
  owed : s.ctl.reserved = s.owed + n
  hold : (s.ctl.out.filter OutFrame.isReset).length = if s.ctl.resetHold then 1 else 0
  short : s.ctl.shortUsed ≤ 16
  long : s.ctl.longUsed ≤ 2

theorem slotLaw_iff {s : State} : SlotLaw s ↔ s.Accounts 0 :=
  ⟨fun ⟨h1, h2, h3, h4, h5⟩ => ⟨h1, h2, h3, h4, h5⟩, fun ⟨h1, h2, h3, h4, h5⟩ => ⟨h1, h2, h3, h4, h5⟩⟩

namespace State.Accounts

variable {s t : State} {m n : Nat}

/-- A reservation passes from a request that runs to one in flight, or stays where it is. -/
theorem carry (h : s.Accounts m) (hc : t.ctl = s.ctl) (ho : t.owed + n = s.owed + m) : t.Accounts n := by
  obtain ⟨hslots, howed, hhold, hshort, hlong⟩ := h
  rw [← hc] at hslots howed hhold hshort hlong
  exact ⟨hslots, howed.trans ho.symm, hhold, hshort, hlong⟩

theorem keeps (h : s.Accounts n) (k : s.KeepsSlots t) : t.Accounts n := h.carry k.ctl (by rw [k.owed])

/-- A reply fills one reservation: that of a request that runs, or of one in flight, which ends (R181, R185). -/
theorem replied (h : s.Accounts m) {kind tag : Byte} {st : Status} {fields : List Byte}
    (hc : t.ctl = s.ctl.reply kind tag st fields) (ho : t.owed + n + 1 = s.owed + m) : t.Accounts n := by
  obtain ⟨hslots, howed, hhold, hshort, hlong⟩ := h
  have hreserved : t.ctl.reserved = s.ctl.reserved - 1 := by rw [hc]; rfl
  have hout : t.ctl.out.length = s.ctl.out.length + 1 := by rw [hc]; exact List.length_append
  refine ⟨by omega, by omega, ?_, by rw [hc]; exact hshort, by rw [hc]; exact hlong⟩
  rw [hc, Control.reply, List.filter_append, List.length_append, hhold]
  rfl

/-- The reply of the request that runs. -/
theorem reply (h : s.Accounts (n + 1)) (kind tag : Byte) (st : Status) (fields : List Byte) :
    (s.reply kind tag st fields).Accounts n := h.replied rfl rfl

theorem settle (h : s.Accounts n) : s.settle.Accounts n := h.keeps (.settle (.refl s))

end State.Accounts

/-! ### PREVIEW and SYNC in flight (R20 to R24, R147 to R150) -/

theorem owed_of_preview {s t : State} {p : Preview} (hs : s.preview = some p) (ht : t.preview = none)
    (hsync : t.link.sync = s.link.sync) : s.owed = t.owed + 1 := by
  simp only [State.owed, hs, ht, hsync]
  rfl

/-- The reply of the PREVIEW in flight fills its reservation (R24). -/
theorem previewReply_accounts {s : State} {n : Nat} (h : s.Accounts n) {p q : Preview} (hp : s.preview = some q) :
    (s.previewReply p).Accounts n := by
  obtain ⟨hlink, -, -, hnone, -⟩ := previewReply_keeps s p
  have hctl : (s.previewReply p).ctl = s.ctl.reply kindPreview p.tag .ok p.fields := by rw [previewReply_eq]
  have howed := owed_of_preview hp hnone (by rw [hlink])
  exact h.replied hctl (by omega)

theorem setPreview_keepsSlots {s : State} {p : Preview} (hp : s.preview = some p) (q : Preview) :
    s.KeepsSlots { s with preview := some q } := ⟨rfl, owed_congr Iff.rfl (by rw [hp]; rfl)⟩

theorem previewAdvance_accounts (fuel : Nat) {s : State} {n : Nat} (h : s.Accounts n) :
    (s.previewAdvance fuel).Accounts n := by
  induction fuel generalizing s with
  | zero => exact h
  | succ fuel ih =>
    unfold State.previewAdvance
    split
    · exact h
    · next p hp =>
      split
      · exact previewReply_accounts h hp
      · exact ih (h.keeps ((setPreview_keepsSlots hp _).trans (countStaging_keepsSlots ..)))
      · dsimp only
        split
        · exact ih (h.keeps (setPreview_keepsSlots hp _))
        · split
          · exact h
          · exact ih (h.keeps ((setPreview_keepsSlots hp _).trans (countStaging_keepsSlots ..)))

theorem previewRun_accounts {s : State} {n : Nat} (h : s.Accounts n) : s.previewRun.Accounts n := by
  unfold State.previewRun
  split
  · exact h
  · exact previewAdvance_accounts _ h

theorem previewTake_accounts {s : State} {n : Nat} (h : s.Accounts n) (addr len : Nat) :
    (s.previewTake addr len).Accounts n := by
  unfold State.previewTake
  split
  · exact h
  · next p hp =>
    exact previewRun_accounts (h.keeps ((setPreview_keepsSlots hp _).trans (countUnits_keepsSlots ..)))

/-- A stream that becomes IDLE ends its PREVIEW with the reply (R17, R24). -/
theorem streamIdle_accounts {s : State} {n : Nat} (h : s.Accounts n) (i : StreamId) : (s.streamIdle i).Accounts n := by
  have hidle : (s.idled i).Accounts n := h.keeps (.of_same (by rfl))
  obtain ⟨-, heq⟩ | ⟨p, -, hp, heq⟩ := streamIdle_cases s i <;> rw [heq]
  · exact hidle.keeps (releaseScan_keepsSlots ..)
  · exact (previewReply_accounts hidle hp).keeps (releaseScan_keepsSlots ..)

theorem leaveOne_accounts {s : State} {n : Nat} (h : s.Accounts n) (i : StreamId) (e : CommitEntry) :
    (s.leaveOne i e).Accounts n := by
  have hleft : (s.left i e).Accounts n := h.keeps (.of_sync Iff.rfl (by rfl) (by rfl))
  rw [leaveOne_eq]
  split
  · exact streamIdle_accounts hleft i
  · exact hleft

theorem leaveChain_accounts (i : StreamId) (fuel : Nat) {s : State} {n : Nat} (h : s.Accounts n) :
    (s.leaveChain i fuel).Accounts n := by
  induction fuel generalizing s with
  | zero => exact h
  | succ fuel ih =>
    unfold State.leaveChain
    split
    · exact h
    · split
      · exact ih (leaveOne_accounts h ..)
      · exact h

/-- The check of the sync context leaves it idle, or in use (R148). -/
theorem check_idle_iff (c : SyncCtx) : c.check.phase = .idle ↔ c.phase = .idle := by
  unfold SyncCtx.check
  split
  · next hwait => exact iff_of_false nofun (by rw [hwait.1]; nofun)
  · exact Iff.rfl

theorem committed_accounts {s : State} {n : Nat} (h : s.Accounts n) (a : Nat) : (s.committed a).Accounts n := by
  unfold State.committed
  split
  · split
    · exact h.keeps (.of_same (by rfl))
    · refine .settle ?_
      unfold State.leave
      refine .keeps ?_ (.of_sync (check_idle_iff _) (by rfl) (by rfl))
      exact leaveChain_accounts _ _ (h.keeps (.of_same (by rfl)))
  · exact h

theorem owed_of_sync {s t : State} (hs : s.link.sync.phase ≠ .idle) (ht : t.link.sync.phase = .idle)
    (hp : t.preview = s.preview) : s.owed = t.owed + 1 := by
  simp only [State.owed, if_neg hs, if_pos ht, hp]
  omega

/-- The reply of the SYNC in flight fills its reservation (R149, R150). -/
theorem syncReply_accounts {s : State} {n : Nat} (h : s.Accounts n) (hbusy : s.link.sync.phase ≠ .idle) (st : Status)
    (waiting : Nat) : (s.syncReply st waiting).Accounts n := by
  have howed : s.owed = (s.syncReply st waiting).owed + 1 := owed_of_sync hbusy rfl rfl
  exact h.replied rfl (by omega)

theorem durable_accounts {s : State} {n : Nat} (h : s.Accounts n) : s.durable.Accounts n := by
  have hfree : (s.modLink Link.freeSlot).Accounts n := h.keeps (.of_same (by rfl))
  unfold State.durable
  split
  · dsimp only
    split
    · next hout =>
      refine syncReply_accounts hfree ?_ ..
      show s.link.sync.phase ≠ .idle
      rw [hout]
      nofun
    · exact hfree
  · exact h

theorem syncTimeout_accounts {s : State} {n : Nat} (h : s.Accounts n) : s.syncTimeout.Accounts n := by
  unfold State.syncTimeout
  split
  · exact h
  · next hbusy => exact syncReply_accounts h hbusy ..

/-! ### Requests: each replies, or goes in flight with its reservation (R181, R185) -/

section Request

variable {s : State} {n : Nat} (h : s.Accounts (n + 1)) (tag : Byte)
include h

theorem streamSetup_accounts (f : SetupFields) : (s.streamSetup tag f).Accounts n := by
  unfold State.streamSetup
  split
  · exact h.reply ..
  · dsimp only
    split
    · exact h.reply ..
    · split
      · exact (h.keeps (.of_same (by rfl))).reply ..
      · split
        · exact h.reply ..
        · split
          · exact h.reply ..
          · exact (h.keeps (.of_same (by rfl))).reply ..

theorem auxRoute_accounts (line edge mask : Byte) : (s.auxRoute tag line edge mask).Accounts n := by
  unfold State.auxRoute
  split
  · exact (h.keeps (.of_same (by rfl))).reply ..
  · exact h.reply ..

theorem runStart_accounts (f : StartFields) : (s.runStart tag f).Accounts n := by
  unfold State.runStart
  split
  · exact h.reply ..
  · dsimp only
    split
    · exact h.reply ..
    · split
      · exact h.reply ..
      · split
        · exact h.reply ..
        · split
          · exact h.reply ..
          · exact (h.keeps (.of_same (by rfl))).reply ..

theorem runStop_accounts (stream : Byte) : (s.runStop tag stream).Accounts n := by
  unfold State.runStop
  split
  · exact h.reply ..
  · split
    · exact (h.keeps (.of_same (by rfl))).reply ..
    · exact (h.keeps (requestStop_keepsSlots ..).settle).reply ..
    · exact h.reply ..

theorem runAbort_accounts (stream : Byte) : (s.runAbort tag stream).Accounts n := by
  unfold State.runAbort
  split
  · exact h.reply ..
  · dsimp only
    split
    · exact (h.keeps (.of_same (by rfl))).reply ..
    · exact (h.keeps (abortRun_keepsSlots ..).settle).reply ..
    · exact (h.keeps (abortRun_keepsSlots ..).settle).reply ..
    · exact h.reply ..

theorem drainResume_accounts (stream : Byte) : (s.drainResume tag stream).Accounts n := by
  unfold State.drainResume
  split
  · exact h.reply ..
  · split
    · exact (h.keeps (.of_same (by rfl))).reply ..
    · exact h.reply ..

theorem markNow_accounts (stream : Byte) : (s.markNow tag stream).Accounts n := by
  unfold State.markNow
  split
  · exact h.reply ..
  · dsimp only
    split
    · exact (h.keeps (latchMarker_keepsSlots ..)).reply ..
    · exact h.reply ..

theorem windowGrant_accounts (start length : BitVec 48) : (s.windowGrant tag start length).Accounts n := by
  unfold State.windowGrant
  split
  · exact h.reply ..
  · split
    · exact h.reply ..
    · split
      · exact h.reply ..
      · exact (h.keeps (.trans (.of_same (by rfl)) (evalLow_keepsSlots _))).reply ..

theorem linkControl_accounts (action : Byte) : (s.linkControl tag action).Accounts n := by
  unfold State.linkControl
  split
  · exact (h.keeps (linkEnable_keepsSlots s)).reply ..
  · split
    · exact (h.keeps (linkDisable_keepsSlots s)).reply ..
    · exact h.reply ..

/-- An accepted SYNC goes in flight (R147). -/
theorem syncRequest_accounts (mask : Byte) : (s.syncRequest tag mask).Accounts n := by
  unfold State.syncRequest
  split
  · exact h.reply ..
  · split
    · exact h.reply ..
    · next hidle =>
      have hbusy : (s.syncStart tag mask.toNat).phase ≠ .idle := mt (check_idle_iff _).1 nofun
      have howed : (s.modLink fun l => { l with sync := s.syncStart tag mask.toNat }).owed = s.owed + 1 :=
        owed_of_sync hbusy (not_not.1 hidle) rfl
      exact h.carry rfl (by omega)

/-- An accepted PREVIEW goes in flight, and replies at once when it needs no access (R21 to R24). -/
theorem previewStart_accounts (hnone : s.preview = none) (i : StreamId) (plan : SpanPlan) :
    (s.previewStart i tag plan).Accounts n := by
  unfold State.previewStart
  dsimp only
  refine .settle (previewRun_accounts (h.carry rfl ?_))
  have howed := owed_of_preview (s := { s with preview := some {
      stream := i, tag := tag, k := plan.k, width := (s.stream i).cfg.width, first := plan.first,
      segs := plan.segs, data := [], replaced := 0, pinned := Seg.blocks plan.segs } }) (t := s) rfl hnone rfl
  exact (congrArg (· + n) howed).trans (by omega)

theorem previewRequest_accounts (stream sel : Byte) (maxBytes : BitVec 16) (index : BitVec 48) :
    (s.previewRequest tag stream sel maxBytes index).Accounts n := by
  unfold State.previewRequest
  split
  · exact h.reply ..
  · dsimp only
    split
    · exact h.reply ..
    · split
      · exact h.reply ..
      · split
        · exact h.reply ..
        · split
          · exact h.reply ..
          · next hbusy =>
            have hnone : s.preview = none := by simpa using hbusy
            split
            · exact previewStart_accounts h tag hnone ..
            · split
              · exact h.reply ..
              · split
                · exact h.reply ..
                · exact previewStart_accounts h tag hnone ..

theorem statusRequest_accounts (sel stream : Byte) : (s.statusRequest tag sel stream).Accounts n := by
  unfold State.statusRequest
  split
  · exact h.reply ..
  · split
    · split <;> exact h.reply ..
    · exact h.reply ..

theorem noticeMask_accounts (enables : BitVec 16) : (s.noticeMask tag enables).Accounts n := by
  unfold State.noticeMask
  split
  · exact h.reply ..
  · exact (h.keeps (.of_same (by rfl))).reply ..

theorem noticeTake_accounts (sel : BitVec 16) : (s.noticeTake tag sel).Accounts n := by
  unfold State.noticeTake
  split
  · exact h.reply ..
  · exact (h.keeps (.of_same (by rfl))).reply ..

theorem errorSetup_accounts (memory mode : Byte) : (s.errorSetup tag memory mode).Accounts n := by
  unfold State.errorSetup
  split
  · exact (h.keeps (.of_same (by rfl))).reply ..
  · exact h.reply ..

theorem errorRead_accounts (memory flags : Byte) : (s.errorRead tag memory flags).Accounts n := by
  unfold State.errorRead
  split
  · exact h.reply ..
  · exact (h.keeps (.of_same (by rfl))).reply ..

theorem inject_accounts (memory target present : Byte) (a b : BitVec 16) :
    (s.inject tag memory target present a b).Accounts n := by
  unfold State.inject
  split
  · exact h.reply ..
  · dsimp only
    split
    · exact h.reply ..
    · exact (h.keeps (.of_same (by rfl))).reply ..

theorem timingSet_accounts (flags : Byte) (commit sync lead : BitVec 32) :
    (s.timingSet tag flags commit sync lead).Accounts n := by
  have hset (t : Timing) : (s.modCtl fun c => { c with timing := t }).Accounts (n + 1) := { h with }
  unfold State.timingSet
  dsimp only
  split
  · exact (hset _).reply ..
  · exact ((hset _).keeps (evalLow_keepsSlots _)).reply ..

/-- A RESET taken queues the one RESET reply and sets the hold (R188). -/
theorem resetRequest_accounts (hfree : s.ctl.resetHold = false) : (s.resetRequest tag).Accounts n := by
  obtain ⟨hslots, howed, hhold, hshort, hlong⟩ := h
  have hout : (s.resetRequest tag).ctl.out.length = s.ctl.out.length + 1 := List.length_append
  have hreserved : (s.resetRequest tag).ctl.reserved = s.ctl.reserved - 1 := rfl
  have hsame : (s.resetRequest tag).owed = s.owed := rfl
  refine ⟨by omega, by omega, ?_, hshort, hlong⟩
  rw [hfree] at hhold
  show ((s.ctl.out ++ [_]).filter OutFrame.isReset).length = 1
  rw [List.filter_append, List.length_append, hhold]
  rfl

theorem runRequest_accounts (hfree : s.ctl.resetHold = false) (r : Request) : (s.runRequest tag r).Accounts n := by
  cases r with
  | ident => exact h.reply ..
  | streamSetup f => exact streamSetup_accounts h tag f
  | auxRoute line edge mask => exact auxRoute_accounts h tag line edge mask
  | runStart f => exact runStart_accounts h tag f
  | runStop i => exact runStop_accounts h tag i
  | runAbort i => exact runAbort_accounts h tag i
  | drainResume i => exact drainResume_accounts h tag i
  | markNow i => exact markNow_accounts h tag i
  | windowGrant a n => exact windowGrant_accounts h tag a n
  | linkControl a => exact linkControl_accounts h tag a
  | sync m => exact syncRequest_accounts h tag m
  | preview i sel n x => exact previewRequest_accounts h tag i sel n x
  | status sel i => exact statusRequest_accounts h tag sel i
  | noticeMask e => exact noticeMask_accounts h tag e
  | noticeTake e => exact noticeTake_accounts h tag e
  | errorSetup m c => exact errorSetup_accounts h tag m c
  | errorRead m f => exact errorRead_accounts h tag m f
  | inject m t p a b => exact inject_accounts h tag m t p a b
  | timingSet f c y l => exact timingSet_accounts h tag f c y l
  | reset => exact resetRequest_accounts h tag hfree

end Request

/-! ### The executor and the periods (R175 to R182, R188) -/

theorem Control.mayTake_iff (c : Control) : c.mayTake = true ↔ c.reserved + c.out.length < 8 ∧ c.resetHold = false := by
  rw [Control.mayTake, Bool.and_eq_true, decide_eq_true_eq, Bool.not_eq_true']
  rfl

/-- The oldest frame leaves its queue, and a slot is reserved for its reply (R181, R182). -/
theorem takeFrame_accounts {s : State} {n : Nat} (h : s.Accounts n) {f : InFrame} {rest : List InFrame}
    (hin : s.ctl.inbound = f :: rest) (hslot : s.ctl.reserved + s.ctl.out.length < 8) :
    (s.takeFrame rest).Accounts (n + 1) := by
  obtain ⟨-, howed, hhold, hshort, hlong⟩ := h
  have hfewer (p : InFrame → Bool) : (rest.filter p).length ≤ (s.ctl.inbound.filter p).length := by
    rw [hin]
    exact ((List.sublist_cons_self f rest).filter p).length_le
  have hreserved : (s.takeFrame rest).ctl.reserved + s.ctl.out.length ≤ 8 := by
    rw [State.takeFrame_ctl]; dsimp only; omega
  exact ⟨hreserved, congrArg (· + 1) howed, hhold, (hfewer _).trans hshort, (hfewer _).trans hlong⟩

theorem execute_accounts (fuel : Nat) {s : State} {n : Nat} (h : s.Accounts n) : (s.execute fuel).Accounts n := by
  induction fuel generalizing s with
  | zero => exact h
  | succ fuel ih =>
    unfold State.execute
    split
    · exact h
    · next f rest hin =>
      split
      · next hmay =>
        obtain ⟨hslot, hfree⟩ := s.ctl.mayTake_iff.1 hmay
        have htaken := takeFrame_accounts h hin hslot
        refine ih ?_
        unfold State.runFrame
        split
        · exact htaken.reply ..
        · exact htaken.reply ..
        · exact runRequest_accounts htaken f.tag hfree _
      · exact h

/-- What filing a frame can do: it joins a queue that has room, or is dropped (R178). -/
theorem file_cases (c : Control) (f : InFrame) :
    ((c.file f).reserved = c.reserved ∧ (c.file f).out = c.out ∧ (c.file f).resetHold = c.resetHold) ∧
    ((c.file f).inbound = c.inbound ∨ (c.file f).inbound = c.inbound ++ [f] ∧
      if f.isShort then c.shortUsed < 16 else c.longUsed < 2) := by
  unfold Control.file
  split
  · next hshort =>
    split
    · next hroom => exact ⟨⟨rfl, rfl, rfl⟩, .inr ⟨rfl, hroom⟩⟩
    · exact ⟨⟨rfl, rfl, rfl⟩, .inl rfl⟩
  · split
    · next hroom => exact ⟨⟨rfl, rfl, rfl⟩, .inr ⟨rfl, hroom⟩⟩
    · exact ⟨⟨rfl, rfl, rfl⟩, .inl rfl⟩

theorem file_accounts {s : State} {n : Nat} (h : s.Accounts n) (f : InFrame) :
    (s.modCtl fun c => c.file f).Accounts n := by
  obtain ⟨hslots, howed, hhold, hshort, hlong⟩ := h
  obtain ⟨⟨hreserved, hout, hheld⟩, hin⟩ := file_cases s.ctl f
  have hqueues : (s.ctl.file f).shortUsed ≤ 16 ∧ (s.ctl.file f).longUsed ≤ 2 := by
    unfold Control.shortUsed Control.longUsed at *
    obtain hin | ⟨hin, hroom⟩ := hin <;> rw [hin]
    · exact ⟨hshort, hlong⟩
    · rw [List.filter_append, List.filter_append, List.length_append, List.length_append, List.filter_singleton,
        List.filter_singleton]
      cases hf : f.isShort <;> rw [hf] at hroom
      · exact ⟨hshort, hroom⟩
      · exact ⟨hroom, hlong⟩
  refine ⟨?_, ?_, ?_, hqueues.1, hqueues.2⟩
  · rw [State.modCtl_ctl, hreserved, hout]; exact hslots
  · rw [State.modCtl_ctl, hreserved]; exact howed
  · rw [State.modCtl_ctl, hout, hheld]; exact hhold

theorem submit_accounts {s : State} {n : Nat} (h : s.Accounts n) (f : InFrame) : (s.submit f).Accounts n :=
  execute_accounts _ (file_accounts h f)

theorem writePeriodEnd_accounts {s : State} {n : Nat} (h : s.Accounts n) (bytes : List Byte) :
    (s.writePeriodEnd bytes).Accounts n := by
  unfold State.writePeriodEnd
  split
  · exact { h with }
  · exact { h with }
  · exact submit_accounts h _

/-- A part with nothing queued, reserved or in flight meets the law, whatever PFAIL# does to it (R79, R189, R191). -/
theorem takePfail_accounts {s : State} (h : s.Accounts 0) (level : Bool) : (s.takePfail level).Accounts 0 := by
  unfold State.takePfail
  dsimp only
  split <;> exact h.keeps (.of_same (by rfl))

theorem hardReset_accounts (s : State) (cause : ResetCause) : (s.hardReset cause).Accounts 0 :=
  takePfail_accounts ⟨Nat.zero_le _, rfl, rfl, Nat.zero_le _, Nat.zero_le _⟩ _

theorem softReset_accounts (s : State) : s.softReset.Accounts 0 :=
  takePfail_accounts ⟨Nat.zero_le _, rfl, rfl, Nat.zero_le _, Nat.zero_le _⟩ _

/-- The RESET reply's leaving resets the part; any other head frame frees its slot (R180, R182, R188). -/
theorem removeHead_accounts {s : State} (h : s.Accounts 0) : s.removeHead.Accounts 0 := by
  unfold State.removeHead
  split
  · exact h
  · next f rest hout =>
    split
    · exact softReset_accounts s
    · next hother =>
      obtain ⟨hslots, howed, hhold, hshort, hlong⟩ := h
      rw [hout] at hslots hhold
      rw [List.filter_cons_of_neg hother] at hhold
      exact execute_accounts _ ⟨Nat.le_of_succ_le hslots, howed, hhold, hshort, hlong⟩

theorem readPeriodEnd_accounts {s : State} (h : s.Accounts 0) (clocked : Nat) :
    (s.readPeriodEnd clocked).Accounts 0 := by
  have hended : (s.modCtl fun c => { c with reading := none }).Accounts 0 := { h with }
  unfold State.readPeriodEnd
  split
  · exact h
  · dsimp only
    split
    · exact removeHead_accounts hended
    · exact hended

/-! ### Every step -/

theorem flushComplete_keepsSlots {s t : State} {us : List Upset} (ht : execFlushComplete us s = .next t) :
    s.KeepsSlots t := by
  unfold execFlushComplete at ht
  split at ht
  · split at ht
    · obtain rfl := Host.Outcome.next.inj ht
      exact (upsets_keepsSlots s us).trans (flushDone_keepsSlots ..)
    · nomatch ht
  · obtain rfl := Host.Outcome.next.inj ht
    exact .refl s

theorem drainReadComplete_keepsSlots {s t : State} {us : List Upset} (ht : execDrainReadComplete us s = .next t) :
    s.KeepsSlots t := by
  unfold execDrainReadComplete at ht
  split at ht
  · split at ht
    · obtain rfl := Host.Outcome.next.inj ht
      have hread {u : State} (k : (s.upsets us).KeepsSlots u) : s.KeepsSlots u.freePort.settle :=
        ((upsets_keepsSlots s us).trans (k.trans (.of_same (by rfl)))).settle
      refine hread ?_
      split
      · exact drainTake_keepsSlots ..
      · exact countUnits_keepsSlots ..
    · nomatch ht
  · obtain rfl := Host.Outcome.next.inj ht
    exact .refl s

theorem previewReadComplete_accounts {s t : State} {n : Nat} (h : s.Accounts n) {us : List Upset}
    (ht : execPreviewReadComplete us s = .next t) : t.Accounts n := by
  unfold execPreviewReadComplete at ht
  split at ht
  · split at ht
    · obtain rfl := Host.Outcome.next.inj ht
      have hfreed : (s.upsets us).freePort.Accounts n := h.keeps ((upsets_keepsSlots s us).trans (.of_same (by rfl)))
      refine .settle ?_
      split
      · exact previewTake_accounts hfreed ..
      · exact hfreed.keeps (countUnits_keepsSlots ..)
    · nomatch ht
  · obtain rfl := Host.Outcome.next.inj ht
    exact h

/-- Every command keeps the law of the slots. -/
theorem exec_accounts {s t : State} (h : s.Accounts 0) {c : Instr} (ht : exec c s = .next t) : t.Accounts 0 := by
  have law {u : State} (k : u.Accounts 0) (hu : Host.Outcome.next u = (.next t : Result)) : t.Accounts 0 := by
    obtain rfl := Host.Outcome.next.inj hu; exact k
  have keeps {u : State} (k : s.KeepsSlots u) (hu : Host.Outcome.next u = (.next t : Result)) : t.Accounts 0 :=
    law (h.keeps k) hu
  cases c with
  | powerOn | rst => exact law (hardReset_accounts ..) ht
  | pfailAssert => exact keeps (pfailAssert_keepsSlots s) ht
  | pfailDeassert => exact keeps (pfailDeassert_keepsSlots s) ht
  | beatArrival lane beat mark => exact keeps (beatArrival_keepsSlots s lane beat mark) ht
  | beatTake i => exact keeps (beatTake_keepsSlots s i) ht
  | sampleProcess i => exact keeps (sampleProcess_keepsSlots s i) ht
  | flushAgeExpiry i => exact keeps (flushAgeExpiry_keepsSlots s i) ht
  | flushComplete us => exact h.keeps (flushComplete_keepsSlots ht)
  | drainReadComplete us => exact h.keeps (drainReadComplete_keepsSlots ht)
  | previewReadComplete us => exact previewReadComplete_accounts h ht
  | auxEdge line rising => exact keeps (auxEdge_keepsSlots s line rising) ht
  | cut => exact keeps (cut_keepsSlots s) ht
  | rePlacement => exact keeps (rePlace_keepsSlots s) ht
  | gateEnd => exact keeps (u := s.gateEnd) (.trans (.of_same (by rfl)) (evalLow_keepsSlots _)) ht
  | writeSend us => exact keeps ((upsets_keepsSlots s us).trans (trySend_keepsSlots _)) ht
  | durableQuerySend => exact keeps (durableQuerySend_keepsSlots s) ht
  | accept => exact keeps (accept_keepsSlots s) ht
  | retry us => exact keeps (retry_keepsSlots s us) ht
  | narrow => exact keeps (narrow_keepsSlots s) ht
  | refuse code => exact keeps (refuseWrite_keepsSlots s code) ht
  | committed a => exact law (committed_accounts h a.toNat) ht
  | refused a code => exact keeps (refusedMessage_keepsSlots s a.toNat code) ht
  | commitTimeout i seq => exact keeps (commitTimeout_keepsSlots s i seq) ht
  | durable => exact law (durable_accounts h) ht
  | notYet => exact keeps (notYet_keepsSlots s) ht
  | pollWaitEnd => exact keeps (pollWaitEnd_keepsSlots s) ht
  | syncTimeout => exact law (syncTimeout_accounts h) ht
  | responseTimeout => exact keeps (responseTimeout_keepsSlots s) ht
  | badFrame => exact keeps (linkFault_keepsSlots s .badFrame) ht
  | trainingLost => exact keeps (linkFault_keepsSlots s .trainingLost) ht
  | faultWaitEnd => exact keeps (faultWaitEnd_keepsSlots s) ht
  | trainingReply => exact keeps (trainingReply_keepsSlots s) ht
  | attemptEnd => exact keeps (attemptEnd_keepsSlots s) ht
  | restEnd => exact keeps (restEnd_keepsSlots s) ht
  | badOpener opener =>
    refine law (u := s.badOpener opener) ?_ ht
    unfold State.badOpener
    split
    · exact h
    · exact { h with }
  | writePeriodEnd bytes => exact law (writePeriodEnd_accounts h bytes) ht
  | readPeriodStart => exact law (u := s.readPeriodStart) { h with } ht
  | readPeriodEnd clocked => exact law (readPeriodEnd_accounts h clocked) ht
  | unknownRequest | ident | streamSetup | auxRoute | runStart | runStop | runAbort | drainResume | markNow
  | windowGrant | linkControlEnable | linkControlDisable | sync | preview | statusDevice | statusStream | noticeMask
  | noticeTake | errorSetup | errorRead | inject | timingSet | reset => exact law (submit_accounts h _) ht

/-- Settles O58: a slot is reserved as a frame is taken, and its reply fills it; a SYNC and a PREVIEW that go in flight
keep their reservation until they reply. -/
theorem stepsKeepTheSlots : Obligations.StepsKeepTheSlots := by
  intro s t h ht
  have haccounts := slotLaw_iff.1 h
  refine slotLaw_iff.2 ?_
  unfold step at ht
  split at ht
  · obtain rfl := Host.Outcome.next.inj ht
    exact haccounts
  · next c rest hp => exact exec_accounts (s := { s with pending := rest }) { haccounts with } ht

end Sys2Proof.Machine
end
section
/-! SUPPORT. Frames of the control link: what a request's frame decodes to, the periods that carry no good frame, and
the frames that must wait (R176 to R179, R182, R183, R186, R206, sections 11.2 to 11.4). -/

namespace Sys2Proof.Machine

/-! ### The frames of requests (section 11.3, R206) -/

/-- A field that is the whole body is read back. -/
theorem fieldAt_whole {w : Nat} (n : Nat) (x : BitVec w) (h : 2 ^ w ≤ 256 ^ n) :
    fieldAt w (fieldBytes n x) 0 n = x := by
  simpa using fieldAt_append n 0 x [] [] rfl h

theorem decodeFrame_noticeMask (tag : Byte) (set : BitVec 16) :
    decodeFrame (requestFrame tag (.noticeMask set)) = .request (.noticeMask set) := by
  change Decoded.request (.noticeMask (fieldAt 16 (fieldBytes 2 set) 0 2)) = _
  rw [fieldAt_whole 2 set (by decide)]

theorem decodeFrame_noticeTake (tag : Byte) (set : BitVec 16) :
    decodeFrame (requestFrame tag (.noticeTake set)) = .request (.noticeTake set) := by
  change Decoded.request (.noticeTake (fieldAt 16 (fieldBytes 2 set) 0 2)) = _
  rw [fieldAt_whole 2 set (by decide)]

theorem decodeFrame_timingSet (tag flags : Byte) (commit sync lead : BitVec 32) :
    decodeFrame (requestFrame tag (.timingSet flags commit sync lead)) =
      .request (.timingSet flags commit sync lead) := by
  let parts : List (List Byte) := [[flags], zeros 3, fieldBytes 4 commit, fieldBytes 4 sync, fieldBytes 4 lead]
  have hbody : requestBody (.timingSet flags commit sync lead) = parts.flatten := by simp [requestBody, parts]
  have hcommit : fieldAt 32 parts.flatten 4 4 = commit := fieldAt_flatten 2 rfl rfl (by decide)
  have hsync : fieldAt 32 parts.flatten 8 4 = sync := fieldAt_flatten 3 rfl rfl (by decide)
  have hlead : fieldAt 32 parts.flatten 12 4 = lead := fieldAt_flatten 4 rfl rfl (by decide)
  change Decoded.request (.timingSet flags
    (fieldAt 32 (requestBody (.timingSet flags commit sync lead)) 4 4)
    (fieldAt 32 (requestBody (.timingSet flags commit sync lead)) 8 4)
    (fieldAt 32 (requestBody (.timingSet flags commit sync lead)) 12 4)) = _
  rw [hbody, hcommit, hsync, hlead]

/-- The frame of every request decodes to it: the requests of single bytes by their bytes, the others field by field. -/
theorem decodeFrame_requestFrame (tag : Byte) (r : Request) : decodeFrame (requestFrame tag r) = .request r := by
  cases r with
  | ident | auxRoute | runStop | runAbort | drainResume | markNow | linkControl | sync | status | errorSetup
  | errorRead | reset => rfl
  | streamSetup f => exact decodeFrame_streamSetup tag f
  | runStart f => exact decodeFrame_runStart tag f
  | windowGrant a n => exact decodeFrame_windowGrant tag a n
  | preview i sel n x => exact decodeFrame_preview tag i sel n x
  | noticeMask e => exact decodeFrame_noticeMask tag e
  | noticeTake e => exact decodeFrame_noticeTake tag e
  | inject m t p a b => exact decodeFrame_inject tag m t p a b
  | timingSet f c y l => exact decodeFrame_timingSet tag f c y l

/-- Settles O3: every request by its fields, and every frame by its length and its CRC. -/
theorem requestFramesRoundTrip : Obligations.RequestFramesRoundTrip :=
  ⟨decodeFrame_requestFrame, fun _ => receive_frameBytes⟩

/-! ### Periods that carry no good frame (R176, R177) -/

theorem receive_of_truncated {bytes : List Byte} (h : bytes.length < 4) : receive bytes = .framing := by
  match bytes, h with
  | [], _ | [_], _ | [_, _], _ | [_, _, _], _ => rfl
  | _ :: _ :: _ :: _ :: _, h => exact absurd h (by simp)

/-- A body length above 256, or another number of bytes than the length asks for. -/
theorem receive_of_misfit {kind tag l0 l1 : Byte} {rest : List Byte}
    (h : 256 < l0.toNat + 256 * l1.toNat ∨ rest.length ≠ l0.toNat + 256 * l1.toNat + 2) :
    receive (kind :: tag :: l0 :: l1 :: rest) = .framing := by
  change (if 256 < l0.toNat + 256 * l1.toNat then Received.framing
    else if rest.length ≠ l0.toNat + 256 * l1.toNat + 2 then .framing else _) = _
  split
  · rfl
  · next hfits => exact if_pos (h.resolve_left hfits)

/-- A frame of the right length whose CRC field is not the CRC of what stands before it. -/
theorem receive_of_bad_crc {kind tag l0 l1 c0 c1 : Byte} {body : List Byte} (hle : l0.toNat + 256 * l1.toNat ≤ 256)
    (hlen : body.length = l0.toNat + 256 * l1.toNat)
    (hcrc : c0.toNat + 256 * c1.toNat ≠ (crc16 (kind :: tag :: l0 :: l1 :: body)).toNat) :
    receive (kind :: tag :: l0 :: l1 :: (body ++ [c0, c1])) = .crc := by
  have hrest : (body ++ [c0, c1]).length = l0.toNat + 256 * l1.toNat + 2 := by rw [List.length_append, hlen]; rfl
  change (if 256 < l0.toNat + 256 * l1.toNat then Received.framing
    else if (body ++ [c0, c1]).length ≠ l0.toNat + 256 * l1.toNat + 2 then .framing
    else if leNat ((body ++ [c0, c1]).drop (l0.toNat + 256 * l1.toNat)) = (crc16 (kind :: tag :: l0 :: l1 ::
        (body ++ [c0, c1]).take (l0.toNat + 256 * l1.toNat))).toNat
      then .frame ⟨kind, tag, (body ++ [c0, c1]).take (l0.toNat + 256 * l1.toNat)⟩ else .crc) = _
  rw [if_neg (Nat.not_lt.2 hle), if_neg (not_not.2 hrest), ← hlen, List.drop_left, List.take_left]
  exact if_neg hcrc

theorem exec_writePeriodEnd_framing {bytes : List Byte} (h : receive bytes = .framing) (s : State) :
    exec (.writePeriodEnd bytes) s = .next (s.modCtl fun c =>
      { c with framingErrors := min 65535 (c.framingErrors + 1) }) := by
  change Host.Outcome.next (s.writePeriodEnd bytes) = _
  rw [State.writePeriodEnd, h]
  rfl

theorem exec_writePeriodEnd_crc {bytes : List Byte} (h : receive bytes = .crc) (s : State) :
    exec (.writePeriodEnd bytes) s = .next (s.modCtl fun c =>
      { c with crcErrors := min 65535 (c.crcErrors + 1) }) := by
  change Host.Outcome.next (s.writePeriodEnd bytes) = _
  rw [State.writePeriodEnd, h]
  rfl

/-- A good frame is received as it was sent, and submitted (R178). -/
theorem exec_writePeriodEnd_frame {f : InFrame} (h : f.body.length ≤ 256) (s : State) :
    exec (.writePeriodEnd (frameBytes f)) s = .next (s.submit f) := by
  change Host.Outcome.next (s.writePeriodEnd (frameBytes f)) = _
  rw [State.writePeriodEnd, receive_frameBytes h]

/-! ### Frames that must wait (R178, R179, R182) -/

/-- The executor takes no frame without a free slot, or under the RESET hold (R182). -/
theorem executor_of_held {s : State} (h : s.ctl.mayTake = false) : s.executor = s := by
  unfold State.executor
  cases hin : s.ctl.inbound with
  | nil => rfl
  | cons f rest =>
    rw [List.length_cons, State.execute, hin]
    exact if_neg (Bool.eq_false_iff.1 h)

/-- A frame that cannot be taken is filed or dropped, and nothing else happens. -/
theorem submit_of_held {s : State} (h : s.ctl.mayTake = false) (f : InFrame) :
    s.submit f = s.modCtl fun c => c.file f := by
  obtain ⟨⟨hreserved, hout, hhold⟩, -⟩ := file_cases s.ctl f
  refine executor_of_held ?_
  rw [State.modCtl_ctl, Control.mayTake, hreserved, hout, hhold]
  exact h

theorem mayTake_of_held {c : Control} (h : 8 ≤ c.reserved + c.out.length ∨ c.resetHold = true) : c.mayTake = false := by
  refine Bool.eq_false_iff.2 fun hmay => ?_
  obtain ⟨hslot, hfree⟩ := c.mayTake_iff.1 hmay
  obtain hfull | hhold := h
  · exact hfull.not_gt hslot
  · exact Bool.false_ne_true (hfree.symm.trans hhold)

/-- Filing in the terms of the statements: a body of at most 32 bytes goes to the short queue (R178). -/
theorem file_eq (c : Control) (f : InFrame) : c.file f =
    if f.body.length ≤ 32 then
      if (c.inbound.filter fun g => decide (g.body.length ≤ 32)).length < 16 then { c with inbound := c.inbound ++ [f] }
      else { c with shortDrops := min 65535 (c.shortDrops + 1) }
    else
      if (c.inbound.filter fun g => !decide (g.body.length ≤ 32)).length < 2 then
        { c with inbound := c.inbound ++ [f] }
      else { c with longDrops := min 65535 (c.longDrops + 1) } := by
  unfold Control.file
  by_cases hshort : f.body.length ≤ 32
  · rw [if_pos hshort, if_pos (show f.isShort = true from decide_eq_true hshort)]
    rfl
  · rw [if_neg hshort, if_neg (show ¬ f.isShort = true from mt of_decide_eq_true hshort)]
    rfl

/-- Settles O4: the frames that are not good, by what their check finds, and the good ones that must wait. -/
theorem badAndWaitingFrames : Obligations.BadAndWaitingFrames := by
  refine ⟨fun bytes s => ⟨fun hshort => ?_, ?_⟩, fun f s hlen hheld => ?_⟩
  · exact exec_writePeriodEnd_framing (receive_of_truncated hshort) s
  · rintro kind tag l0 l1 rest rfl
    refine ⟨fun hmisfit => exec_writePeriodEnd_framing (receive_of_misfit hmisfit) s, ?_⟩
    rintro body c0 c1 hle hbody rfl hcrc
    exact exec_writePeriodEnd_crc (receive_of_bad_crc hle hbody hcrc) s
  · rw [exec_writePeriodEnd_frame hlen, submit_of_held (mayTake_of_held hheld)]
    simp only [file_eq]

/-! ### IDENT, unknown kinds and wrong lengths (R183, R186, R206) -/

theorem kindLength_none {kind : Byte} (h : kind = 0#8 ∨ 20 < kind.toNat) : kindLength kind = none := by
  obtain rfl | h := h
  · rfl
  · obtain ⟨n, hn⟩ := Nat.exists_eq_add_of_le' h
    rw [kindLength, hn]
    rfl

theorem runFrame_unknown {f : InFrame} (h : kindLength f.kind = none) (s : State) :
    s.runFrame f = s.refuse f.kind f.tag .unknown := by
  rw [State.runFrame, decodeFrame, h]

theorem runFrame_badLength {f : InFrame} {n : Nat} (h : kindLength f.kind = some n) (hne : f.body.length ≠ n)
    (s : State) : s.runFrame f = s.refuse f.kind f.tag .length := by
  simp only [State.runFrame, decodeFrame, h, if_neg hne]

/-- The fixed fields of IDENT in bytes (R186, section 11.4). -/
theorem identFields_eq (cause : ResetCause) : identFields cause =
    [0x48#8, 0x07#8, 0x01#8, (match cause with | .powerOn => 0#8 | .rst => 1#8 | .resetRequest => 2#8),
      4#8, 16#8, 8#8, 8#8, 16#8, 2#8, 0#8, 0#8, 0#8, 0#8, 1#8, 0#8, 0#8, 0#8, 4#8, 0#8] := by
  cases cause <;> rfl

/-- Settles O5: the two refusals before a request's own rule, and IDENT. -/
theorem identAndUnknownKinds : Obligations.IdentAndUnknownKinds := by
  refine ⟨fun tag kind body s h hlen => ⟨fun hkind => ?_, fun n hn hne => ?_⟩, fun tag s h => ?_⟩
  · change Host.Outcome.next (s.submit ⟨kind, tag, body⟩) = _
    rw [submit_of_takesAtOnce h, runFrame_unknown (kindLength_none hkind)]
    exact refuse_at_once h kind tag .unknown
  · rw [exec_writePeriodEnd_frame hlen, submit_of_takesAtOnce h, runFrame_badLength hn hne]
    exact refuse_at_once h kind tag .length
  · change Host.Outcome.next (s.submit (requestFrame tag .ident)) = _
    rw [submit_request h (decodeFrame_requestFrame ..)]
    refine (congrArg Host.Outcome.next (reply_of_taken h rfl kindIdent tag .ok _)).trans ?_
    rw [identFields_eq]
    rfl

end Sys2Proof.Machine
end
section
/-! SUPPORT. The periods of the control link: openers, read periods, what CL_SDO carries in them, and their ends (R175,
R180, R182). -/

namespace Sys2Proof.Machine

/-! ### What CL_SDO carries (R175, R180) -/

theorem outFrame_length (kind tag : Byte) (body : List Byte) : (outFrame kind tag body).length = body.length + 7 := by
  simp only [outFrame, List.length_cons, List.length_append, leBytes_length]
  omega

/-- In a read period CL_SDO carries 0x00 during the opener, then the frame, then 0x00. -/
theorem sdo_of_reading {s : State} {r : ReadPeriod} (h : s.ctl.reading = some r) :
    s.sdo 0 = 0#8 ∧ (∀ n, n < r.bytes.length → r.bytes[n]? = some (s.sdo (n + 1))) ∧
      ∀ n, r.bytes.length < n → s.sdo n = 0#8 := by
  have hsdo (n : Nat) : s.sdo n = r.sdo n := by rw [State.sdo, h]
  refine ⟨hsdo 0, fun n hn => ?_, fun n hn => ?_⟩
  · rw [hsdo, ReadPeriod.sdo, List.getElem?_eq_getElem hn, List.getD_eq_getElem _ _ hn]
  · obtain ⟨m, rfl⟩ := Nat.exists_eq_add_one_of_ne_zero (Nat.ne_zero_of_lt hn)
    rw [hsdo, ReadPeriod.sdo, List.getD_eq_default _ _ (Nat.le_of_lt_succ hn)]

/-- The bytes carried after the opener, taken together, are the frame. -/
theorem map_sdo_of_reading {s : State} {r : ReadPeriod} (h : s.ctl.reading = some r) :
    (List.range r.bytes.length).map (fun n => s.sdo (n + 1)) = r.bytes := by
  obtain ⟨-, hframe, -⟩ := sdo_of_reading h
  refine List.ext_getElem (by simp) fun n _ hn => ?_
  rw [List.getElem_map, List.getElem_range]
  exact (Option.some.inj ((List.getElem?_eq_getElem hn).symm.trans (hframe n hn))).symm

theorem sdo_of_idle {s : State} (h : s.ctl.reading = none) (n : Nat) : s.sdo n = 0#8 := by rw [State.sdo, h]

/-! ### Openers (R175, R180) -/

theorem exec_badOpener {o : Byte} (hread : o ≠ 0xA7#8) (hwrite : o ≠ 0xB4#8) (s : State) :
    exec (.badOpener o) s = .next (s.modCtl fun c => { c with framingErrors := min 65535 (c.framingErrors + 1) }) :=
  congrArg Host.Outcome.next (if_neg fun h => h.elim hread hwrite)

/-- A read period starts with the frame it sends. -/
theorem exec_readPeriodStart {s : State} {r : ReadPeriod} (h : s.ctl.readFrame = r) :
    exec .readPeriodStart s = .next (s.modCtl fun c => { c with reading := some r }) := by
  change Host.Outcome.next (s.modCtl fun c => { c with reading := some c.readFrame }) = _
  rw [State.modCtl, State.modCtl, h]

/-- A read period sends the head of the outbound queue. -/
theorem exec_readPeriodStart_queued {s : State} {f : OutFrame} {rest : List OutFrame} (h : s.ctl.out = f :: rest) :
    exec .readPeriodStart s = .next (s.modCtl fun c => { c with reading := some ⟨f.bytes, true⟩ }) :=
  exec_readPeriodStart (by rw [Control.readFrame, h])

/-- With no reply queued a read period sends the empty frame. -/
theorem exec_readPeriodStart_empty {s : State} (h : s.ctl.out = []) :
    exec .readPeriodStart s = .next (s.modCtl fun c => { c with
      reading := some ⟨outFrame 0#8 0#8
        [BitVec.ofNat 8 (16 - s.ctl.shortUsed), BitVec.ofNat 8 (2 - s.ctl.longUsed)], false⟩ }) := by
  refine exec_readPeriodStart ?_
  rw [Control.readFrame, h]
  rfl

/-! ### The ends of read periods (R180, R182) -/

/-- A read period that ends with its frame still in the queue, or that sent the empty frame, only ends. -/
theorem exec_readPeriodEnd_kept {s : State} {r : ReadPeriod} {n : Nat} (h : s.ctl.reading = some r)
    (hkept : (r.fromQueue && decide (r.bytes.length ≤ n)) = false) :
    exec (.readPeriodEnd n) s = .next (s.modCtl fun c => { c with reading := none }) := by
  change Host.Outcome.next (s.readPeriodEnd n) = _
  simp only [State.readPeriodEnd, h, hkept, Bool.false_eq_true, if_false]

/-- A queued frame clocked out to its last byte leaves the queue, and the executor goes on. -/
theorem exec_readPeriodEnd_sent {s : State} {f : OutFrame} {rest : List OutFrame} {n : Nat}
    (h : s.ctl.reading = some ⟨f.bytes, true⟩) (hout : s.ctl.out = f :: rest) (hn : f.bytes.length ≤ n)
    (hplain : f.isReset = false) :
    exec (.readPeriodEnd n) s = .next (s.modCtl fun c => { c with reading := none, out := rest }).executor := by
  have hhead : (s.modCtl fun c => { c with reading := none }).removeHead =
      (s.modCtl fun c => { c with reading := none, out := rest }).executor := by
    simp only [State.removeHead, State.modCtl_ctl, hout, hplain, Bool.false_eq_true, if_false]
    rfl
  change Host.Outcome.next (s.readPeriodEnd n) = _
  simp only [State.readPeriodEnd, h, decide_eq_true hn, Bool.true_and, if_true, hhead]

theorem executor_of_empty {s : State} (h : s.ctl.inbound = []) : s.executor = s := by
  rw [State.executor, h]
  rfl

/-- Settles O6: openers, the ends of read periods by what they sent and how far, and CL_SDO byte by byte. -/
theorem periodsOpenAndEnd : Obligations.PeriodsOpenAndEnd := by
  refine ⟨fun o s => ⟨fun hread hwrite => exec_badOpener hread hwrite s, fun f rest => exec_readPeriodStart_queued,
    exec_readPeriodStart_empty⟩, fun n f rest s hout => ⟨fun h hn => ?_, fun h hn hplain => ?_,
    fun hin h hn hplain => ?_⟩, fun n s => ⟨fun r h hempty => ?_, fun h => ?_⟩,
    fun s => ⟨fun f rest hout => ?_, fun hout => ?_, sdo_of_idle⟩⟩
  · exact exec_readPeriodEnd_kept h (decide_eq_false hn.not_ge)
  · exact exec_readPeriodEnd_sent h hout hn hplain
  · rw [exec_readPeriodEnd_sent h hout hn hplain]
    exact congrArg Host.Outcome.next (executor_of_empty hin)
  · exact exec_readPeriodEnd_kept h (by rw [hempty, Bool.false_and])
  · change Host.Outcome.next (s.readPeriodEnd n) = _
    rw [State.readPeriodEnd, h]
  · let t := s.modCtl fun c => { c with reading := some ⟨f.bytes, true⟩ }
    have hreading : t.ctl.reading = some ⟨f.bytes, true⟩ := rfl
    exact ⟨t, exec_readPeriodStart_queued hout, sdo_of_reading hreading⟩
  · have hlen (a b : Byte) : (outFrame 0#8 0#8 [a, b]).length = 9 := outFrame_length ..
    let t := s.modCtl fun c => { c with
      reading := some ⟨outFrame 0#8 0#8
        [BitVec.ofNat 8 (16 - s.ctl.shortUsed), BitVec.ofNat 8 (2 - s.ctl.longUsed)], false⟩ }
    have hreading : t.ctl.reading = some ⟨outFrame 0#8 0#8
        [BitVec.ofNat 8 (16 - s.ctl.shortUsed), BitVec.ofNat 8 (2 - s.ctl.longUsed)], false⟩ := rfl
    obtain ⟨hopener, -, hafter⟩ := sdo_of_reading hreading
    have hframe := map_sdo_of_reading hreading
    rw [hlen] at hafter hframe
    exact ⟨t, exec_readPeriodStart_empty hout, hframe, hopener, hafter⟩

end Sys2Proof.Machine
end
section
/-! SUPPORT. NOTICE_MASK and NOTICE_TAKE, the ATTN# line, and TIMING_SET (R119, R187, R190, R193, R195 to R197). -/

namespace Sys2Proof.Machine

/-! ### NOTICE_MASK (R195, R196) -/

theorem exec_noticeMask {s : State} (h : s.takesAtOnce) (tag : Byte) (set : BitVec 16) :
    exec (.noticeMask tag set) s = .next ((s.takeFrame []).noticeMask tag set) :=
  congrArg Host.Outcome.next (submit_request h (decodeFrame_noticeMask tag set))

theorem exec_noticeTake {s : State} (h : s.takesAtOnce) (tag : Byte) (set : BitVec 16) :
    exec (.noticeTake tag set) s = .next ((s.takeFrame []).noticeTake tag set) :=
  congrArg Host.Outcome.next (submit_request h (decodeFrame_noticeTake tag set))

/-- Below POWER the mask applied is the set given (R195). -/
theorem appliedMask_getLsbD (set : BitVec 16) {n : Nat} (h : n < 10) :
    (appliedMask set).getLsbD n = set.getLsbD n := by
  have hpower : ∀ n, n < 10 → powerBit.getLsbD n = false := by decide
  rw [appliedMask, BitVec.getLsbD_or, hpower n h, Bool.or_false, BitVec.getLsbD_setWidth,
    decide_eq_true (show n < 11 by omega), Bool.true_and]

/-- A request taken at once that changes the notices and replies. -/
theorem notices_at_once {s : State} (h : s.takesAtOnce) (n : Notices) (kind tag : Byte) (st : Status)
    (fields : List Byte) :
    Host.Outcome.next (({ s.takeFrame [] with notices := n } : State).reply kind tag st fields) =
      (.next (({ s with notices := n } : State).answered kind tag (BitVec.ofNat 8 st.code) fields) : Result) :=
  congrArg Host.Outcome.next (reply_of_taken h (t := { s.takeFrame [] with notices := n }) rfl kind tag st fields)

/-! ### NOTICE_TAKE (R197) -/

theorem StreamCat.mem_all (c : StreamCat) : c ∈ StreamCat.all := by cases c <;> decide

theorem DeviceCat.mem_all (c : DeviceCat) : c ∈ DeviceCat.all := by cases c <;> decide

/-- Counts set to 0 one after another, where a test selects them: each selected one of the list is 0, and no other has
changed. -/
theorem get_foldl_clear {α κ : Type} [DecidableEq κ] {get : α → κ → Nat} {set : α → κ → Nat → α}
    (hset : ∀ n c d x, get (set n c x) d = if d = c then x else get n d) (sel : κ → Bool) (d : κ) (l : List κ) (n : α) :
    get (l.foldl (fun n c => if sel c then set n c 0 else n) n) d = if d ∈ l ∧ sel d = true then 0 else get n d := by
  induction l generalizing n with
  | nil => simp
  | cons c l ih =>
    have hfirst : get (if sel c then set n c 0 else n) d = if d = c ∧ sel d = true then 0 else get n d := by
      by_cases hd : d = c
      · subst hd
        cases hsel : sel d <;> simp [hset]
      · cases hsel : sel c <;> simp [hset, hd]
    rw [List.foldl_cons, ih, hfirst]
    simp only [List.mem_cons, or_and_right]
    by_cases hl : d ∈ l ∧ sel d = true <;> simp [hl]

theorem StreamCounts.get_clear (sel : BitVec 16) (n : StreamCounts) (c : StreamCat) :
    (n.clear sel).get c = if sel.getLsbD c.bit then 0 else n.get c := by
  refine (get_foldl_clear StreamCounts.get_set (fun c => sel.getLsbD c.bit) c StreamCat.all n).trans ?_
  simp only [c.mem_all, true_and]

theorem DeviceCounts.get_clear (sel : BitVec 16) (n : DeviceCounts) (c : DeviceCat) :
    (n.clear sel).get c = if sel.getLsbD c.bit then 0 else n.get c := by
  refine (get_foldl_clear DeviceCounts.get_set (fun c => sel.getLsbD c.bit) c DeviceCat.all n).trans ?_
  simp only [c.mem_all, true_and]

/-- A take clears the counts of the categories selected, for every stream, and no other. -/
theorem taken_streamCount (n : Notices) (sel : BitVec 16) (i : StreamId) (c : StreamCat) :
    (n.taken sel).streamCount i c = if sel.getLsbD c.bit then 0 else n.streamCount i c := by
  have hstream : (n.taken sel).streams.get i = (n.streams.get i).clear sel := by cases i <;> rfl
  rw [Notices.streamCount, hstream, StreamCounts.get_clear]
  rfl

/-! ### The categories pending, and ATTN# (R190, R193) -/

theorem pendingStreams_pos {n : Notices} {c : StreamCat} :
    0 < n.pendingStreams c ↔ ∃ i, 0 < n.streamCount i c := by
  rw [Notices.pendingStreams, Nat.pos_iff_ne_zero, Ne, List.sum_eq_zero_iff]
  simp only [List.mem_map, StreamId.mem_all, true_and, forall_exists_index, forall_apply_eq_imp_iff, not_forall]
  refine exists_congr fun i => ?_
  split
  · next h => simpa using h
  · next h => simpa using h

/-- The bits of the categories pending, ascending. -/
def Notices.pendingList (n : Notices) : List Nat :=
  (StreamCat.all.filter fun c => 0 < n.pendingStreams c).map StreamCat.bit ++
    (DeviceCat.all.filter fun c => 0 < n.device.get c).map DeviceCat.bit

/-- Powers of two added where a test holds are the powers of the members that pass it. -/
theorem sum_powers_of_filter {α : Type} (p : α → Prop) [DecidablePred p] (bit : α → Nat) (l : List α) :
    (l.map fun a => if p a then 2 ^ bit a else 0).sum = (((l.filter p).map bit).map fun k => 2 ^ k).sum := by
  rw [List.sum_map_ite]
  simp [Function.comp_def]

theorem pendingBits_eq (n : Notices) : n.pendingBits = (n.pendingList.map fun k => 2 ^ k).sum := by
  rw [Notices.pendingBits, sum_powers_of_filter, sum_powers_of_filter, Notices.pendingList, List.map_append,
    List.sum_append]

theorem pendingList_sorted (n : Notices) : n.pendingList.SortedLT := by
  have hbits : n.pendingList.Sublist (List.range 11) :=
    (List.filter_sublist.map StreamCat.bit).append (List.filter_sublist.map DeviceCat.bit)
  exact (List.pairwise_lt_range.sublist hbits).sortedLT

/-- Each category pending has its bit in the pending set, and no other bit stands in it. -/
theorem testBit_pendingBits {n : Notices} {k : Nat} : n.pendingBits.testBit k = true ↔
    (∃ c : StreamCat, (∃ i, 0 < n.streamCount i c) ∧ c.bit = k) ∨ ∃ c : DeviceCat, 0 < n.device.get c ∧ c.bit = k := by
  rw [← Nat.mem_bitIndices, pendingBits_eq, Nat.bitIndices_sum_map_two_pow (pendingList_sorted n)]
  simp [Notices.pendingList, StreamCat.mem_all, DeviceCat.mem_all, pendingStreams_pos]

/-- Two masks meet exactly when they share a bit. -/
theorem and_ne_zero_iff {w : Nat} (x y : BitVec w) :
    x &&& y ≠ 0#w ↔ ∃ k, x.getLsbD k = true ∧ y.getLsbD k = true := by
  constructor
  · intro h
    by_contra hno
    refine h (BitVec.eq_of_getLsbD_eq fun k _ => ?_)
    rw [BitVec.getLsbD_and, BitVec.getLsbD_zero, Bool.and_eq_false_imp]
    exact fun hx => Bool.eq_false_iff.2 fun hy => hno ⟨k, hx, hy⟩
  · rintro ⟨k, hx, hy⟩ hzero
    have hbit := congrArg (·.getLsbD k) hzero
    simp [hx, hy] at hbit

/-- An enabled category is pending. -/
theorem mask_meets_pending (n : Notices) : n.mask &&& BitVec.ofNat 11 n.pendingBits ≠ 0#11 ↔
    (∃ i c, 0 < n.streamCount i c ∧ n.mask.getLsbD c.bit = true) ∨
      ∃ c, 0 < n.device.get c ∧ n.mask.getLsbD c.bit = true := by
  have hpending {k : Nat} : n.mask.getLsbD k = true ∧ (BitVec.ofNat 11 n.pendingBits).getLsbD k = true ↔
      n.mask.getLsbD k = true ∧ n.pendingBits.testBit k = true := by
    refine and_congr_right fun hk => ?_
    rw [BitVec.getLsbD_ofNat, decide_eq_true (BitVec.lt_of_getLsbD hk), Bool.true_and]
  simp only [and_ne_zero_iff, hpending, testBit_pendingBits]
  constructor
  · rintro ⟨_, hmask, ⟨c, ⟨i, hcount⟩, rfl⟩ | ⟨c, hcount, rfl⟩⟩
    · exact .inl ⟨i, c, hcount, hmask⟩
    · exact .inr ⟨c, hcount, hmask⟩
  · rintro (⟨i, c, hcount, hmask⟩ | ⟨c, hcount, hmask⟩)
    · exact ⟨c.bit, hmask, .inl ⟨c, ⟨i, hcount⟩, rfl⟩⟩
    · exact ⟨c.bit, hmask, .inr ⟨c, hcount, rfl⟩⟩

/-- ATTN# is asserted for a reply queued, an enabled category pending, or POWER pending (R190, R196). -/
theorem attn_iff (s : State) : s.attn = true ↔ s.ctl.out ≠ [] ∨
    (∃ i c, 0 < s.notices.streamCount i c ∧ s.notices.mask.getLsbD c.bit = true) ∨
      ∃ c, 0 < s.notices.device.get c ∧ (s.notices.mask.getLsbD c.bit = true ∨ c = .power) := by
  have hpower : 0 < s.notices.device.power ↔ ∃ c, 0 < s.notices.device.get c ∧ c = .power :=
    ⟨fun h => ⟨.power, h, rfl⟩, fun ⟨_, h, hc⟩ => by subst hc; exact h⟩
  rw [State.attn, Bool.or_eq_true, Bool.or_eq_true, Bool.not_eq_true', bne_iff_ne, mask_meets_pending,
    decide_eq_true_iff, hpower, or_assoc, or_assoc, ← exists_or]
  simp only [← and_or_left, List.isEmpty_eq_false_iff]

/-- Settles O18: the mask applied, the take, the refusal of both, and the line. -/
theorem noticesAndAttention : Obligations.NoticesAndAttention := by
  refine ⟨fun tag set s h => ⟨fun hout => ?_, fun hin => ?_⟩, attn_iff⟩
  · have hunknown : unknownCategory set = true := decide_eq_true hout
    rw [exec_noticeMask h, exec_noticeTake h, State.noticeMask, State.noticeTake, if_pos hunknown, if_pos hunknown]
    exact ⟨refuse_at_once h kindNoticeMask tag .range, refuse_at_once h kindNoticeTake tag .range⟩
  · have hknown : ¬ unknownCategory set = true := mt of_decide_eq_true (Nat.not_le.2 hin)
    refine ⟨⟨appliedMask set, appliedMask_power set, fun n => appliedMask_getLsbD set, ?_⟩,
      ⟨s.notices.taken set, rfl, taken_streamCount s.notices set, DeviceCounts.get_clear set _, ?_⟩⟩
    · rw [exec_noticeMask h, State.noticeMask, if_neg hknown]
      exact notices_at_once h { s.notices with mask := appliedMask set } kindNoticeMask tag .ok _
    · rw [exec_noticeTake h, State.noticeTake, if_neg hknown]
      exact notices_at_once h (s.notices.taken set) kindNoticeTake tag .ok _

/-! ### TIMING_SET (R119, R187) -/

theorem exec_timingSet {s : State} (h : s.takesAtOnce) (tag flags : Byte) (commit sync lead : BitVec 32) :
    exec (.timingSet tag flags commit sync lead) s =
      .next ((s.takeFrame []).timingSet tag flags commit sync lead) :=
  congrArg Host.Outcome.next (submit_request h (decodeFrame_timingSet tag flags commit sync lead))

/-- The flagged values clamped to their ranges (R187). -/
theorem Timing.apply_eq (t : Timing) (flags : Byte) (commit sync lead : Nat) : t.apply flags commit sync lead = {
    commit := if flags.getLsbD 0 then max 1 (min 1000 commit) else t.commit,
    sync := if flags.getLsbD 1 then max 10 (min 60000 sync) else t.sync,
    lead := if flags.getLsbD 2 then min 60000 lead else t.lead } := by
  have hlead : clampTo 0 60000 lead = min 60000 lead := Nat.zero_max ..
  rw [Timing.apply, hlead]
  rfl

/-- Of the control link an evaluation of the low state reads the lead time alone (R118, R119). -/
theorem evalLow_setCtl (s : State) {c : Control} (h : c.timing.lead = s.ctl.timing.lead) :
    ({ s with ctl := c } : State).evalLow = { s.evalLow with ctl := c } := by
  have hbelow : ({ s with ctl := c } : State).belowThreshold = s.belowThreshold := by
    simp only [State.belowThreshold, h]
  rw [evalLow_eq _ _ hbelow, evalLow_eq s _ rfl]
  split <;> rfl

/-- A TIMING_SET by the timing set it comes to. -/
theorem timingSet_eq (s : State) (tag : Byte) {flags : Byte} {commit sync lead : BitVec 32} {t : Timing}
    (ht : s.ctl.timing.apply flags commit.toNat sync.toNat lead.toNat = t) :
    s.timingSet tag flags commit sync lead =
      (if t.lead = s.ctl.timing.lead then s.modCtl fun c => { c with timing := t }
        else (s.modCtl fun c => { c with timing := t }).evalLow).reply kindTimingSet tag .ok t.bytes := by
  subst ht
  rfl

/-- Settles O21: the values clamped, and the low state evaluated when the lead time has changed. -/
theorem timingSetClamps : Obligations.TimingSetClamps := by
  intro tag flags commit sync lead s h t fields u
  have ht : s.ctl.timing.apply flags commit.toNat sync.toNat lead.toNat = t := Timing.apply_eq ..
  have hu : u.takesAtOnce := h
  have hrun : (s.takeFrame []).timingSet tag flags commit sync lead =
      (if t.lead = s.ctl.timing.lead then u.takeFrame [] else (u.takeFrame []).evalLow).reply
        kindTimingSet tag .ok fields := timingSet_eq (s.takeFrame []) tag ht
  have hexec := (exec_timingSet h tag flags commit sync lead).trans (congrArg Host.Outcome.next hrun)
  refine ⟨fun hsame => hexec.trans ?_, fun hchanged => ?_⟩
  · rw [if_pos hsame]
    exact congrArg Host.Outcome.next (reply_of_taken hu rfl kindTimingSet tag .ok fields)
  · intro low v
    have hlow : u.evalLow = if low = true ∧ s.place.low = false then v.raiseDev .windowLow else v :=
      evalLow_eq u low rfl
    have hevaluated : ({ (u.takeFrame []).evalLow with ctl := u.ctl } : State) = u.evalLow := by
      rw [show (u.takeFrame []).evalLow = _ from evalLow_setCtl u rfl, ← evalLow_ctl u]
    refine hexec.trans ?_
    rw [if_neg hchanged, reply_of_taken hu (evalLow_ctl _), hevaluated, hlow]
    rfl

end Sys2Proof.Machine
end
section
/-! SUPPORT. STATUS: the parts of the device and stream reports, their lengths, the fields that lie in them, and the
request that replies with them (R199 to R203, section 11.5). -/

namespace Sys2Proof.Machine

/-! ### A string of bytes laid part by part -/

/-- A field at `a` within part `j`, whose place `q` in the whole follows from the lengths of the parts before. -/
theorem slice_flatten_within {parts : List (List Byte)} {lens : List Nat} {p : List Byte} {q a n : Nat}
    (hlens : parts.map List.length = lens) (j : Nat) (hp : parts[j]? = some p) (hq : (lens.take j).sum + a = q)
    (hn : a + n ≤ p.length) : slice parts.flatten q n = slice p a n := by
  have hstart : (parts.take j).flatten.length = (lens.take j).sum := by rw [List.length_flatten, List.map_take, hlens]
  rw [← hq, ← slice_slice hn, slice_flatten j hp hstart rfl]

theorem take_eq_slice (bs : List Byte) (n : Nat) : bs.take n = slice bs 0 n := rfl

theorem length_flatMap_of_forall_eq {α β : Type} {l : List α} {f : α → List β} {k : Nat}
    (h : ∀ a, (f a).length = k) : (l.flatMap f).length = k * l.length := by
  simp [List.length_flatMap, h, Nat.mul_comm]

/-! ### The device report (R200, R201) -/

@[simp] theorem slotRemaining_length (n : Nat) : (slotRemaining n).length = 8 := by simp [slotRemaining_eq]

/-- The 6 bytes of the field of the remaining bytes: the number, or the free value where it does not fit (log 33). -/
theorem slice_slotRemaining (n : Nat) (rest : List Byte) : slice (slotRemaining n ++ rest) 0 6 =
    leBytes 6 (if n < 2 ^ 48 then n else (Config.remainingField n).toNat) := by
  rw [slotRemaining_eq]
  rfl

theorem statusConditions_length (s : State) : s.statusConditions.length = 16 := by simp [State.statusConditions]

theorem statusPlacement_length (s : State) : s.statusPlacement.length = 60 := by simp [State.statusPlacement]

theorem Notices.pendingSet_length (n : Notices) : n.pendingSet.length = 8 := by
  simp [Notices.pendingSet, StreamCat.all]

theorem CommitEntry.statusBytes_length (e : CommitEntry) : e.statusBytes.length = 32 := by
  simp [CommitEntry.statusBytes]

theorem Window.statusBytes_length (w : Window) : w.statusBytes.length = 24 := by simp [Window.statusBytes]

/-- The counts of the commit list and the window list, as they precede their entries. -/
def State.listCounts (s : State) : List Byte :=
  byteField s.link.commit.length ++ byteField s.place.windows.length ++ zeros 2

/-- The device report part by part. -/
def State.deviceParts (s : State) : List (List Byte) :=
  [s.statusConditions, s.statusPlacement, s.ctl.timing.bytes, s.ctl.countBytes, s.integ.countBytes,
    leBytes 2 (s.notices.mask ||| powerBit).toNat ++ zeros 2, s.notices.pendingSet,
    StreamId.all.flatMap fun i => leBytes 6 (s.stream i).commitIndex, s.listCounts,
    s.link.commit.flatMap CommitEntry.statusBytes, s.place.windows.flatMap Window.statusBytes]

theorem deviceReport_eq (s : State) : s.deviceReport = s.deviceParts.flatten := by
  simp [State.deviceReport, State.deviceParts, State.listCounts]

theorem deviceParts_lengths (s : State) : s.deviceParts.map List.length =
    [16, 60, 12, 8, 12, 4, 8, 24, 4, 32 * s.link.commit.length, 24 * s.place.windows.length] := by
  have hcommit : (s.link.commit.flatMap CommitEntry.statusBytes).length = 32 * s.link.commit.length :=
    length_flatMap_of_forall_eq CommitEntry.statusBytes_length
  have hwindows : (s.place.windows.flatMap Window.statusBytes).length = 24 * s.place.windows.length :=
    length_flatMap_of_forall_eq Window.statusBytes_length
  simp only [State.deviceParts, List.map_cons, List.map_nil, statusConditions_length, statusPlacement_length,
    Notices.pendingSet_length, hcommit, hwindows]
  rfl

theorem deviceReport_length (s : State) :
    s.deviceReport.length = 148 + 32 * s.link.commit.length + 24 * s.place.windows.length := by
  rw [deviceReport_eq, List.length_flatten, deviceParts_lengths]
  simp only [List.sum_cons, List.sum_nil]
  omega

/-- A field of the device report within its part `j`. -/
theorem slice_deviceReport {s : State} {p : List Byte} {q a n : Nat} (j : Nat) (hp : s.deviceParts[j]? = some p)
    (hq : (List.take j [16, 60, 12, 8, 12, 4, 8, 24, 4, 32 * s.link.commit.length,
      24 * s.place.windows.length]).sum + a = q) (hn : a + n ≤ p.length) :
    slice s.deviceReport q n = slice p a n := by
  rw [deviceReport_eq]
  exact slice_flatten_within (deviceParts_lengths s) j hp hq hn

theorem deviceReport_link (s : State) : s.deviceReport.take 4 =
    [BitVec.ofNat 8 s.link.state.code, BitVec.ofNat 8 s.link.train.code, BitVec.ofNat 8 s.link.outstandingCode,
      BitVec.ofNat 8 s.link.causeCode] := by
  have hpart : slice s.deviceReport 0 4 = slice s.statusConditions 0 4 :=
    slice_deviceReport 0 rfl rfl (by rw [statusConditions_length]; decide)
  rw [take_eq_slice, hpart]
  simp [State.statusConditions, byteField_eq, slice]

theorem deviceReport_remaining (s : State) : slice s.deviceReport 16 6 =
    leBytes 6 (if s.place.remaining < 2 ^ 48 then s.place.remaining
      else (Config.remainingField s.place.remaining).toNat) := by
  have hpart : slice s.deviceReport 16 6 = slice s.statusPlacement 0 6 :=
    slice_deviceReport 1 rfl rfl (by rw [statusPlacement_length]; decide)
  rw [hpart, State.statusPlacement]
  simp only [List.append_assoc]
  exact slice_slotRemaining ..

theorem deviceReport_commitTimeout (s : State) : slice s.deviceReport 76 4 = leBytes 4 s.ctl.timing.commit := by
  have hpart : slice s.deviceReport 76 4 = slice s.ctl.timing.bytes 0 4 :=
    slice_deviceReport 2 rfl rfl (show 4 ≤ 12 by decide)
  rw [hpart]
  rfl

theorem deviceReport_listCounts (s : State) : slice s.deviceReport 144 2 =
    [BitVec.ofNat 8 s.link.commit.length, BitVec.ofNat 8 s.place.windows.length] := by
  have hpart : slice s.deviceReport 144 2 = slice s.listCounts 0 2 :=
    slice_deviceReport 8 rfl rfl (show 2 ≤ 4 by decide)
  rw [hpart]
  rfl

/-! ### The stream report (R202, R203) -/

/-- The stream report part by part. -/
def Stream.reportParts (x : Stream) (i : StreamId) : List (List Byte) :=
  [x.statusRun i, x.statusConfig, x.statusWriter, x.statusBlocks, x.statusCutter]

theorem report_eq (x : Stream) (i : StreamId) : x.report i = (x.reportParts i).flatten := by
  simp [Stream.report, Stream.reportParts]

theorem reportParts_lengths (x : Stream) (i : StreamId) :
    (x.reportParts i).map List.length = [28, 40, 48, 52, 64] := by
  simp [Stream.reportParts, Stream.statusRun, Stream.statusConfig, Stream.statusWriter, Stream.statusBlocks,
    Stream.statusCutter]

theorem report_length (x : Stream) (i : StreamId) : (x.report i).length = 232 := by
  rw [report_eq, List.length_flatten, reportParts_lengths]
  rfl

/-- A field of the stream report within its part `j`. -/
theorem slice_report {x : Stream} {i : StreamId} {p : List Byte} {q a n : Nat} (j : Nat)
    (hp : (x.reportParts i)[j]? = some p) (hq : ([28, 40, 48, 52, 64].take j).sum + a = q) (hn : a + n ≤ p.length) :
    slice (x.report i) q n = slice p a n := by
  rw [report_eq]
  exact slice_flatten_within (reportParts_lengths x i) j hp hq hn

theorem report_run (x : Stream) (i : StreamId) : (x.report i).take 4 =
    [BitVec.ofNat 8 i.num, BitVec.ofNat 8 x.phase.code, BitVec.ofNat 8 x.drain.code,
      BitVec.ofNat 8 x.closeReason.code] := by
  have hpart : slice (x.report i) 0 4 = slice (x.statusRun i) 0 4 :=
    slice_report 0 rfl rfl (by simp [Stream.statusRun])
  rw [take_eq_slice, hpart]
  simp [Stream.statusRun, byteField_eq, slice]

theorem report_writerIndex (x : Stream) (i : StreamId) : slice (x.report i) 84 6 = leBytes 6 x.writer.index := by
  have hpart : slice (x.report i) 84 6 = slice x.statusWriter 16 6 :=
    slice_report 2 rfl rfl (by simp [Stream.statusWriter])
  rw [hpart]
  simp [Stream.statusWriter, slot8, slice, List.drop_append, List.drop_eq_nil_of_le]

theorem report_cutIndex (x : Stream) (i : StreamId) : slice (x.report i) 168 6 = leBytes 6 x.cutter.cutIndex := by
  have hpart : slice (x.report i) 168 6 = slice x.statusCutter 0 6 :=
    slice_report 4 rfl rfl (by simp [Stream.statusCutter])
  rw [hpart]
  simp [Stream.statusCutter, slot8, slice]

theorem report_commitIndex (x : Stream) (i : StreamId) : slice (x.report i) 224 6 = leBytes 6 x.commitIndex := by
  have hpart : slice (x.report i) 224 6 = slice x.statusCutter 56 6 :=
    slice_report 4 rfl rfl (by simp [Stream.statusCutter])
  rw [hpart, Stream.statusCutter]
  exact slice_append _ _ _ _ _ (by simp) (leBytes_length ..)

/-! ### The request (R199) -/

/-- A STATUS for the device replies with the report of the state it finds: taking its frame changes no field of it. -/
theorem exec_statusDevice {s : State} (h : s.takesAtOnce) (tag : Byte) :
    exec (.statusDevice tag) s = .next (s.answered kindStatus tag 0#8 s.deviceReport) :=
  congrArg Host.Outcome.next ((submit_request h (decodeFrame_requestFrame tag (.status 0#8 0#8))).trans
    (reply_of_taken h rfl kindStatus tag .ok s.deviceReport))

theorem exec_statusStream {s : State} (h : s.takesAtOnce) (tag b : Byte) :
    exec (.statusStream tag b) s = .next ((s.takeFrame []).statusRequest tag 1#8 b) :=
  congrArg Host.Outcome.next (submit_request h (decodeFrame_requestFrame tag (.status 1#8 b)))

theorem statusRequest_range (s : State) (tag : Byte) {b : Byte} (hb : 3 < b.toNat) :
    s.statusRequest tag 1#8 b = s.refuse kindStatus tag .range := by
  rw [State.statusRequest, streamOf_none hb]
  rfl

theorem statusRequest_stream (s : State) (tag : Byte) {b : Byte} {i : StreamId} (hb : b.toNat = i.num) :
    s.statusRequest tag 1#8 b = s.reply kindStatus tag .ok ((s.stream i).report i) := by
  rw [State.statusRequest, streamOf_num hb]
  rfl

/-- Settles O17: the device report and its fields, the refusal of a stream above 3, and the stream report and its
fields. -/
theorem statusReports : Obligations.StatusReports := by
  intro tag b s h
  refine ⟨exec_statusDevice h tag, deviceReport_length s, deviceReport_link s, fun hfits => ?_, fun hwide => ?_,
    deviceReport_commitTimeout s, deviceReport_listCounts s, fun hout => ?_, fun i hb => ⟨?_, report_length _ i, ?_,
      report_writerIndex _ i, report_cutIndex _ i, report_commitIndex _ i⟩⟩
  · rw [deviceReport_remaining, if_pos hfits]
  · rw [deviceReport_remaining, if_neg (Nat.not_lt.2 hwide)]
  · rw [exec_statusStream h, statusRequest_range _ tag hout]
    exact refuse_at_once h kindStatus tag .range
  · rw [exec_statusStream h, statusRequest_stream _ tag hb]
    exact congrArg Host.Outcome.next (reply_of_taken h rfl kindStatus tag .ok _)
  · rw [report_run, ← hb, BitVec.ofNat_toNat, BitVec.setWidth_eq]

end Sys2Proof.Machine
end

section
/-! SUPPORT. The queue of waiting commands (logs 16, 19, 29): each operation leaves it alone, so that no command touches
it and a step runs the command at its front on the state with the rest. -/

namespace Sys2Proof.Machine

variable (s : State)

/-! ### Capture memory and the block manager (chapters 1 and 8) -/

/-- Changes made one after another leave the queue alone if each one does. -/
theorem foldl_pending {α : Type} {f : State → α → State} (h : ∀ s a, (f s a).pending = s.pending) (l : List α) :
    (l.foldl f s).pending = s.pending := by
  induction l generalizing s with
  | nil => rfl
  | cons a l ih => exact (ih (f s a)).trans (h s a)

@[simp] theorem countUncorrectables_pending {α : Type} (m : MemId) (f : α → Nat) (l : List α) :
    (l.foldl (fun s a => s.countUncorrectable m (f a)) s).pending = s.pending :=
  foldl_pending s (f := fun s a => s.countUncorrectable m (f a)) (fun _ _ => rfl) l

@[simp] theorem countUnits_pending (addr len : Nat) (us : List Nat) :
    (s.countUnits addr len us).pending = s.pending := by
  obtain ⟨g, d, h⟩ := countUnits_eq s addr len us; rw [h]

@[simp] theorem countStaging_pending (addrs : List Nat) : (s.countStaging addrs).pending = s.pending := by
  obtain ⟨g, d, h⟩ := countStaging_eq s addrs; rw [h]

@[simp] theorem upsets_pending (us : List Upset) : (s.upsets us).pending = s.pending :=
  foldl_pending s (fun _ u => by cases u <;> rfl) us

@[simp] theorem writeFlush_pending (b : StageBuf) (addr : Nat) : (s.writeFlush b addr).pending = s.pending := by
  unfold State.writeFlush
  rw [countUncorrectables_pending]
  split <;> rfl

@[simp] theorem releaseScan_pending (i : StreamId) (all : Bool) : (s.releaseScan i all).pending = s.pending := by
  rw [releaseScan_eq]

theorem take_pending {s t : State} {i : StreamId} {first k : Nat} {gap : Option Gap}
    (h : s.take i first k gap = some t) : t.pending = s.pending := by
  obtain ⟨b, rest, -, rfl⟩ := take_some h
  split <;> rfl

theorem victimTake_pending {s t : State} {i : StreamId} {first k : Nat} (h : s.victimTake i first k = some t) :
    t.pending = s.pending := by
  unfold State.victimTake at h
  split at h
  · nomatch h
  · obtain rfl := Option.some.inj h; rfl

@[simp] theorem drainTake_pending (addr len pos : Nat) : (s.drainTake addr len pos).pending = s.pending := by
  unfold State.drainTake
  split
  · dsimp only
    split <;> simp [apply_ite State.pending]
  · rfl

/-! ### PREVIEW (section 1.9) -/

@[simp] theorem previewReply_pending (p : Preview) : (s.previewReply p).pending = s.pending := by
  simp [State.previewReply]

@[simp] theorem previewAdvance_pending (fuel : Nat) : (s.previewAdvance fuel).pending = s.pending := by
  induction fuel generalizing s with
  | zero => rfl
  | succ fuel ih =>
    unfold State.previewAdvance
    split
    · rfl
    · split
      · exact previewReply_pending ..
      · exact (ih _).trans (countStaging_pending ..)
      · dsimp only
        split
        · exact ih _
        · split
          · rfl
          · exact (ih _).trans (countStaging_pending ..)

@[simp] theorem previewRun_pending : s.previewRun.pending = s.pending := by
  unfold State.previewRun
  split
  · rfl
  · exact previewAdvance_pending ..

@[simp] theorem previewTake_pending (addr len : Nat) : (s.previewTake addr len).pending = s.pending := by
  unfold State.previewTake
  split
  · rfl
  · simp

@[simp] theorem previewSnap_pending (i : StreamId) : (s.previewSnap i).pending = s.pending := by
  obtain h | ⟨p, segs, -, -, h⟩ := previewSnap_cases s i <;> rw [h]

/-! ### The capture writer, lanes and AUX lines (chapters 2 and 3) -/

@[simp] theorem latchMarker_pending (i : StreamId) (index : Nat) (src : MarkSource) :
    (s.latchMarker i index src).pending = s.pending := by
  obtain ⟨n, h, -⟩ := latchMarker_eq s i index src; rw [h]; rfl

@[simp] theorem beatArrival_pending (i : StreamId) (beat : List Byte) (mark : Option Nat) :
    (s.beatArrival i beat mark).pending = s.pending := by
  unfold State.beatArrival
  dsimp only
  split
  · rfl
  · rfl
  · split <;> rfl
  · rfl
  · split <;> rfl

@[simp] theorem beatTake_pending (i : StreamId) : (s.beatTake i).pending = s.pending := by
  unfold State.beatTake
  dsimp only
  split
  · rfl
  · split <;> rfl

@[simp] theorem stageKept_pending (i : StreamId) (bytes : List Byte) : (s.stageKept i bytes).pending = s.pending := by
  simp only [State.stageKept, State.takeStagingFlip, State.modStream_pending]
  split <;> rfl

@[simp] theorem startSeal_pending (i : StreamId) : (s.startSeal i).pending = s.pending := by
  rw [startSeal_eq]; rfl

@[simp] theorem stopWriter_pending (i : StreamId) : (s.stopWriter i).pending = s.pending := by
  rw [stopWriter_eq]; rfl

@[simp] theorem requestStop_pending (i : StreamId) (reason : CloseReason) :
    (s.requestStop i reason).pending = s.pending := by
  rw [requestStop_eq]; rfl

@[simp] theorem getBlock_pending (i : StreamId) : (s.getBlock i).1.pending = s.pending := by
  unfold State.getBlock
  dsimp only
  split
  · next h => exact (State.modStream_pending ..).trans (take_pending h)
  · split
    · split
      · next h => exact (State.modStream_pending ..).trans (victimTake_pending h)
      · rfl
    · rfl

@[simp] theorem decimateAt_pending (i : StreamId) : (s.decimateAt i).pending = s.pending := by
  rw [decimateAt_eq]
  split <;> rfl

@[simp] theorem resume_pending (i : StreamId) : (s.resume i).pending = s.pending := by
  unfold State.resume
  dsimp only
  split
  · split
    · next h => exact (State.modStream_pending ..).trans (take_pending h)
    · rfl
  · rfl

@[simp] theorem boundary_pending (i : StreamId) : (s.boundary i).pending = s.pending := by
  unfold State.boundary
  split
  · simp
  · rfl

@[simp] theorem placeSample_pending (i : StreamId) : (s.placeSample i).pending = s.pending := by
  unfold State.placeSample
  dsimp only
  split
  · split
    · exact stageKept_pending ..
    · split <;> simp
  · rfl

@[simp] theorem enterLaneMark_pending (i : StreamId) : (s.enterLaneMark i).pending = s.pending := by
  obtain ⟨n, h, -⟩ := enterLaneMark_eq s i; rw [h]; rfl

@[simp] theorem advance_pending (i : StreamId) : (s.advance i).pending = s.pending := rfl

@[simp] theorem lengthStop_pending (i : StreamId) : (s.lengthStop i).pending = s.pending := by
  unfold State.lengthStop
  dsimp only
  split
  · exact requestStop_pending ..
  · rfl

@[simp] theorem finishSample_pending (i : StreamId) : (s.finishSample i).pending = s.pending := by
  unfold State.finishSample
  split
  · rfl
  · simp [apply_ite State.pending]

@[simp] theorem sampleProcess_pending (i : StreamId) : (s.sampleProcess i).pending = s.pending := by
  unfold State.sampleProcess
  dsimp only
  split
  · split <;> simp
  · rfl

@[simp] theorem flushAgeExpiry_pending (i : StreamId) : (s.flushAgeExpiry i).pending = s.pending := by
  unfold State.flushAgeExpiry
  dsimp only
  split
  · simp
  · rfl

@[simp] theorem afterFlush_pending (i : StreamId) : (s.afterFlush i).pending = s.pending := by
  unfold State.afterFlush
  dsimp only
  split
  · split <;> simp
  · rfl

@[simp] theorem flushDone_pending (i : StreamId) (addr : Nat) (orphan : Option StageBuf) :
    (s.flushDone i addr orphan).pending = s.pending := by
  unfold State.flushDone
  split
  · simp
  · split <;> simp

@[simp] theorem auxEdge_pending (line : AuxLine) (rising : Bool) : (s.auxEdge line rising).pending = s.pending := by
  have hstream (t : State) (i : StreamId) : (t.auxStream line i).pending = t.pending := by rw [auxStream_eq]; rfl
  unfold State.auxEdge
  split
  · exact foldl_pending s hstream _
  · rfl

/-! ### Run control (chapter 4) -/

@[simp] theorem pfailAssert_pending : s.pfailAssert.pending = s.pending := by
  have hstream (t : State) (i : StreamId) : (t.powerFailStream i).pending = t.pending := by
    obtain ⟨n, h, -⟩ := powerFailStream_eq t i; rw [h]; rfl
  unfold State.pfailAssert
  split
  · rfl
  · simp [foldl_pending _ hstream]

@[simp] theorem pfailDeassert_pending : s.pfailDeassert.pending = s.pending := by
  unfold State.pfailDeassert
  split <;> rfl

@[simp] theorem abortRun_pending (i : StreamId) : (s.abortRun i).pending = s.pending := by
  rw [abortRun_eq]
  split <;> rfl

theorem streamSetup_pending (tag : Byte) (f : SetupFields) : (s.streamSetup tag f).pending = s.pending := by
  unfold State.streamSetup
  split
  · rfl
  · dsimp only
    split
    · rfl
    · split
      · rfl
      · split
        · rfl
        · split <;> rfl

theorem runStart_pending (tag : Byte) (f : StartFields) : (s.runStart tag f).pending = s.pending := by
  unfold State.runStart
  split
  · rfl
  · dsimp only
    split
    · rfl
    · split
      · rfl
      · split
        · rfl
        · split <;> rfl

theorem runStop_pending (tag stream : Byte) : (s.runStop tag stream).pending = s.pending := by
  unfold State.runStop
  split
  · rfl
  · split
    · rfl
    · simp
    · rfl

theorem runAbort_pending (tag stream : Byte) : (s.runAbort tag stream).pending = s.pending := by
  unfold State.runAbort
  split
  · rfl
  · dsimp only
    split
    · rfl
    · simp
    · simp
    · rfl

theorem markNow_pending (tag stream : Byte) : (s.markNow tag stream).pending = s.pending := by
  unfold State.markNow
  split
  · rfl
  · dsimp only
    split
    · simp
    · rfl

theorem auxRoute_pending (tag line edge mask : Byte) : (s.auxRoute tag line edge mask).pending = s.pending := by
  unfold State.auxRoute
  split <;> rfl

theorem drainResume_pending (tag stream : Byte) : (s.drainResume tag stream).pending = s.pending := by
  unfold State.drainResume
  split
  · rfl
  · split <;> rfl

/-! ### Archive windows and the cutter (chapters 5 and 6) -/

@[simp] theorem evalLow_pending : s.evalLow.pending = s.pending := by
  rw [evalLow_eq s _ rfl]
  split <;> rfl

@[simp] theorem placeRequest_pending (size : Nat) : (s.placeRequest size).1.pending = s.pending := by
  unfold State.placeRequest
  dsimp only
  split
  · simp
  · dsimp only
    split <;> simp

@[simp] theorem gateEnd_pending : s.gateEnd.pending = s.pending := evalLow_pending _

@[simp] theorem cutRecord_pending (i : StreamId) (n : NextRecord) : (s.cutRecord i n).pending = s.pending := by
  unfold State.cutRecord
  dsimp only
  split <;> simp

@[simp] theorem cut_pending : s.cut.pending = s.pending := by
  unfold State.cut
  split
  · split
    · rfl
    · split
      · rfl
      · exact cutRecord_pending ..
  · rfl

@[simp] theorem rePlace_pending : s.rePlace.pending = s.pending := by
  unfold State.rePlace
  split
  · rfl
  · split
    · rfl
    · dsimp only
      split <;> simp

theorem windowGrant_pending (tag : Byte) (a n : BitVec 48) : (s.windowGrant tag a n).pending = s.pending := by
  unfold State.windowGrant
  split
  · rfl
  · split
    · rfl
    · split
      · rfl
      · exact evalLow_pending _

/-! ### The archive link (chapter 7) -/

@[simp] theorem rebuild_pending (e : CommitEntry) (r : Replay) (bad : List Nat) :
    (s.rebuild e r bad).pending = s.pending := by
  unfold State.rebuild
  dsimp only
  split <;> simp

@[simp] theorem trySend_pending : s.trySend.pending = s.pending := by
  obtain h | ⟨e, r, -, -, -, -, ⟨-, h⟩ | ⟨-, h⟩⟩ := trySend_cases s <;> rw [h]
  · rfl
  · simp

@[simp] theorem durableQuerySend_pending : s.durableQuerySend.pending = s.pending := by
  rw [durableQuerySend_eq]
  split <;> rfl

@[simp] theorem raiseArchiveFaults_pending : s.raiseArchiveFaults.pending = s.pending := by
  obtain ⟨n, h, -⟩ := raiseArchiveFaults_eq s; rw [h]

@[simp] theorem linkFault_pending (cause : LinkFault) : (s.linkFault cause).pending = s.pending := by
  unfold State.linkFault
  split
  · exact raiseArchiveFaults_pending _
  · rfl

@[simp] theorem responseTimeout_pending : s.responseTimeout.pending = s.pending := by
  unfold State.responseTimeout
  split
  · exact linkFault_pending ..
  · rfl

@[simp] theorem linkEnable_pending : s.linkEnable.pending = s.pending := by
  unfold State.linkEnable
  split <;> rfl

@[simp] theorem linkDisable_pending : s.linkDisable.pending = s.pending := by
  unfold State.linkDisable
  split
  · rfl
  · exact raiseArchiveFaults_pending _

@[simp] theorem faultWaitEnd_pending : s.faultWaitEnd.pending = s.pending := by
  unfold State.faultWaitEnd
  split <;> rfl

@[simp] theorem trainingReply_pending : s.trainingReply.pending = s.pending := by
  unfold State.trainingReply
  split
  · simp
  · rfl

@[simp] theorem attemptEnd_pending : s.attemptEnd.pending = s.pending := by
  unfold State.attemptEnd
  split <;> rfl

@[simp] theorem restEnd_pending : s.restEnd.pending = s.pending := by
  unfold State.restEnd
  split <;> rfl

@[simp] theorem failEntry_pending (p : CommitEntry → Bool) (e : CommitEntry) (cause : FailCause)
    (code : Option Byte) : (s.failEntry p e cause code).pending = s.pending := by
  have hbuffer (t : State) : (if e.st = .sending then
      { t with port := t.port.orphanDrain, link := { t.link with replay := none } } else t).pending = t.pending := by
    split <;> rfl
  have hdead (t : State) : (match e.addr with | none => t | some a => t.deadSpan a e.size : State).pending =
      t.pending := by
    split <;> rfl
  have hstuck (t : State) : (if e.placements < 3 then t
      else (t.modStream e.stream fun x => { x with drain := .blocked }).raise e.stream .archiveFault).pending =
      t.pending := by
    split <;> rfl
  exact (hstuck _).trans ((hdead _).trans (hbuffer _))

@[simp] theorem accept_pending : s.accept.pending = s.pending := by
  obtain h | h | ⟨e, r, -, -, h⟩ := accept_cases s <;> rw [h]
  · rfl
  · simp

@[simp] theorem retry_pending (us : List Upset) : (s.retry us).pending = s.pending := by
  unfold State.retry
  split
  · dsimp only
    split
    · rfl
    · split <;> simp
  · rfl

@[simp] theorem narrow_pending : s.narrow.pending = s.pending := by
  unfold State.narrow
  split
  · dsimp only
    split
    · split <;> simp
    · rfl
  · rfl

@[simp] theorem refuseWrite_pending (code : Byte) : (s.refuseWrite code).pending = s.pending := by
  unfold State.refuseWrite
  split
  · dsimp only
    split
    · rfl
    · simp
  · rfl

@[simp] theorem streamIdle_pending (i : StreamId) : (s.streamIdle i).pending = s.pending := by
  obtain ⟨-, h⟩ | ⟨p, -, -, h⟩ := streamIdle_cases s i <;> rw [h] <;> simp [State.idled]

@[simp] theorem leaveOne_pending (i : StreamId) (e : CommitEntry) : (s.leaveOne i e).pending = s.pending := by
  unfold State.leaveOne
  split <;> simp

@[simp] theorem leave_pending (i : StreamId) : (s.leave i).pending = s.pending := by
  have hchain (fuel : Nat) (s : State) : (s.leaveChain i fuel).pending = s.pending := by
    induction fuel generalizing s with
    | zero => rfl
    | succ fuel ih =>
      unfold State.leaveChain
      split
      · rfl
      · split
        · exact (ih _).trans (leaveOne_pending ..)
        · rfl
  exact hchain ..

@[simp] theorem committed_pending (a : Nat) : (s.committed a).pending = s.pending := by
  unfold State.committed
  split
  · split
    · rfl
    · simp
  · rfl

@[simp] theorem refusedMessage_pending (a : Nat) (code : Byte) : (s.refusedMessage a code).pending = s.pending := by
  unfold State.refusedMessage
  split
  · split
    · rfl
    · exact failEntry_pending ..
  · rfl

@[simp] theorem commitTimeout_pending (i : StreamId) (seq : Nat) : (s.commitTimeout i seq).pending = s.pending := by
  unfold State.commitTimeout
  split
  · rfl
  · split
    · exact failEntry_pending ..
    · rfl

@[simp] theorem durable_pending : s.durable.pending = s.pending := by
  unfold State.durable
  split
  · dsimp only
    split <;> rfl
  · rfl

@[simp] theorem notYet_pending : s.notYet.pending = s.pending := by
  unfold State.notYet
  split
  · dsimp only
    split <;> rfl
  · rfl

@[simp] theorem pollWaitEnd_pending : s.pollWaitEnd.pending = s.pending := by
  unfold State.pollWaitEnd
  split <;> rfl

@[simp] theorem syncTimeout_pending : s.syncTimeout.pending = s.pending := by
  unfold State.syncTimeout
  split <;> rfl

theorem linkControl_pending (tag a : Byte) : (s.linkControl tag a).pending = s.pending := by
  unfold State.linkControl
  split
  · simp
  · split
    · simp
    · rfl

theorem syncRequest_pending (tag m : Byte) : (s.syncRequest tag m).pending = s.pending := by
  unfold State.syncRequest
  split
  · rfl
  · split <;> rfl

/-! ### Requests (chapters 1 and 8 to 11) -/

theorem previewRequest_pending (tag stream sel : Byte) (maxBytes : BitVec 16) (index : BitVec 48) :
    (s.previewRequest tag stream sel maxBytes index).pending = s.pending := by
  have hstart (i : StreamId) (plan : SpanPlan) : (s.previewStart i tag plan).pending = s.pending := by
    simp [State.previewStart]
  unfold State.previewRequest
  split
  · rfl
  · dsimp only
    split
    · rfl
    · split
      · rfl
      · split
        · rfl
        · split
          · rfl
          · split
            · exact hstart ..
            · split
              · rfl
              · split
                · rfl
                · exact hstart ..

theorem statusRequest_pending (tag sel i : Byte) : (s.statusRequest tag sel i).pending = s.pending := by
  unfold State.statusRequest
  split
  · rfl
  · split
    · split <;> rfl
    · rfl

theorem noticeMask_pending (tag : Byte) (e : BitVec 16) : (s.noticeMask tag e).pending = s.pending := by
  unfold State.noticeMask
  split <;> rfl

theorem noticeTake_pending (tag : Byte) (e : BitVec 16) : (s.noticeTake tag e).pending = s.pending := by
  unfold State.noticeTake
  split <;> rfl

theorem errorSetup_pending (tag m c : Byte) : (s.errorSetup tag m c).pending = s.pending := by
  unfold State.errorSetup
  split <;> rfl

theorem errorRead_pending (tag m f : Byte) : (s.errorRead tag m f).pending = s.pending := by
  unfold State.errorRead
  split <;> rfl

theorem inject_pending (tag m t p : Byte) (a b : BitVec 16) : (s.inject tag m t p a b).pending = s.pending := by
  unfold State.inject
  split
  · rfl
  · dsimp only
    split <;> rfl

theorem timingSet_pending (tag f : Byte) (c y l : BitVec 32) : (s.timingSet tag f c y l).pending = s.pending := by
  unfold State.timingSet
  dsimp only
  split
  · rfl
  · simp

@[simp] theorem runRequest_pending (tag : Byte) (r : Request) : (s.runRequest tag r).pending = s.pending := by
  cases r with
  | ident | reset => rfl
  | streamSetup f => exact streamSetup_pending s tag f
  | auxRoute line edge mask => exact auxRoute_pending s tag line edge mask
  | runStart f => exact runStart_pending s tag f
  | runStop i => exact runStop_pending s tag i
  | runAbort i => exact runAbort_pending s tag i
  | drainResume i => exact drainResume_pending s tag i
  | markNow i => exact markNow_pending s tag i
  | windowGrant a n => exact windowGrant_pending s tag a n
  | linkControl a => exact linkControl_pending s tag a
  | sync m => exact syncRequest_pending s tag m
  | preview i sel n x => exact previewRequest_pending s tag i sel n x
  | status sel i => exact statusRequest_pending s tag sel i
  | noticeMask e => exact noticeMask_pending s tag e
  | noticeTake e => exact noticeTake_pending s tag e
  | errorSetup m c => exact errorSetup_pending s tag m c
  | errorRead m f => exact errorRead_pending s tag m f
  | inject m t p a b => exact inject_pending s tag m t p a b
  | timingSet f c y l => exact timingSet_pending s tag f c y l

/-! ### The control link and the resets (chapters 4 and 9) -/

@[simp] theorem runFrame_pending (f : InFrame) : (s.runFrame f).pending = s.pending := by
  unfold State.runFrame
  split
  · rfl
  · rfl
  · exact runRequest_pending ..

@[simp] theorem execute_pending (fuel : Nat) : (s.execute fuel).pending = s.pending := by
  induction fuel generalizing s with
  | zero => rfl
  | succ fuel ih =>
    unfold State.execute
    split
    · rfl
    · split
      · exact (ih _).trans (runFrame_pending ..)
      · rfl

@[simp] theorem submit_pending (f : InFrame) : (s.submit f).pending = s.pending := execute_pending ..

@[simp] theorem badOpener_pending (opener : Byte) : (s.badOpener opener).pending = s.pending := by
  unfold State.badOpener
  split <;> rfl

@[simp] theorem writePeriodEnd_pending (bytes : List Byte) : (s.writePeriodEnd bytes).pending = s.pending := by
  unfold State.writePeriodEnd
  split
  · rfl
  · rfl
  · exact submit_pending ..

/-- Power-on and RST# keep the commands that wait (log 29). -/
@[simp] theorem hardReset_pending (cause : ResetCause) : (s.hardReset cause).pending = s.pending := by
  rw [hardReset_eq]

/-- So does a RESET as it takes effect. -/
@[simp] theorem softReset_pending : s.softReset.pending = s.pending := by rw [softReset_eq]

@[simp] theorem removeHead_pending : s.removeHead.pending = s.pending := by
  unfold State.removeHead
  split
  · rfl
  · split
    · exact softReset_pending s
    · exact execute_pending ..

@[simp] theorem readPeriodEnd_pending (clocked : Nat) : (s.readPeriodEnd clocked).pending = s.pending := by
  unfold State.readPeriodEnd
  split
  · rfl
  · dsimp only
    split
    · exact removeHead_pending _
    · rfl

/-! ### Every command -/

section Completions

variable {s t : State} {us : List Upset}

theorem flushComplete_pending (h : execFlushComplete us s = .next t) : t.pending = s.pending := by
  unfold execFlushComplete at h
  split at h
  · split at h
    · obtain rfl := Host.Outcome.next.inj h; simp
    · nomatch h
  · obtain rfl := Host.Outcome.next.inj h; rfl

theorem drainReadComplete_pending (h : execDrainReadComplete us s = .next t) : t.pending = s.pending := by
  unfold execDrainReadComplete at h
  split at h
  · split at h
    · obtain rfl := Host.Outcome.next.inj h
      simp [apply_ite State.pending]
    · nomatch h
  · obtain rfl := Host.Outcome.next.inj h; rfl

theorem previewReadComplete_pending (h : execPreviewReadComplete us s = .next t) : t.pending = s.pending := by
  unfold execPreviewReadComplete at h
  split at h
  · split at h
    · obtain rfl := Host.Outcome.next.inj h
      simp [apply_ite State.pending]
    · nomatch h
  · obtain rfl := Host.Outcome.next.inj h; rfl

end Completions

/-- Settles O2: each command's meaning leaves the queue alone, the resets by carrying it over, the rest by never
naming it. -/
theorem commandsKeepTheQueue : Obligations.CommandsKeepTheQueue := by
  intro c s t ht
  have keeps {u : State} (k : u.pending = s.pending) (hu : Host.Outcome.next u = (.next t : Result)) :
      t.pending = s.pending := by
    obtain rfl := Host.Outcome.next.inj hu; exact k
  cases c with
  | powerOn => exact keeps (hardReset_pending s .powerOn) ht
  | rst => exact keeps (hardReset_pending s .rst) ht
  | pfailAssert => exact keeps (pfailAssert_pending s) ht
  | pfailDeassert => exact keeps (pfailDeassert_pending s) ht
  | beatArrival lane beat mark => exact keeps (beatArrival_pending s lane beat mark) ht
  | beatTake i => exact keeps (beatTake_pending s i) ht
  | sampleProcess i => exact keeps (sampleProcess_pending s i) ht
  | flushAgeExpiry i => exact keeps (flushAgeExpiry_pending s i) ht
  | flushComplete us => exact flushComplete_pending ht
  | drainReadComplete us => exact drainReadComplete_pending ht
  | previewReadComplete us => exact previewReadComplete_pending ht
  | auxEdge line rising => exact keeps (auxEdge_pending s line rising) ht
  | cut => exact keeps (cut_pending s) ht
  | rePlacement => exact keeps (rePlace_pending s) ht
  | gateEnd => exact keeps (gateEnd_pending s) ht
  | writeSend us => exact keeps ((trySend_pending _).trans (upsets_pending s us)) ht
  | durableQuerySend => exact keeps (durableQuerySend_pending s) ht
  | accept => exact keeps (accept_pending s) ht
  | retry us => exact keeps (retry_pending s us) ht
  | narrow => exact keeps (narrow_pending s) ht
  | refuse code => exact keeps (refuseWrite_pending s code) ht
  | committed a => exact keeps (committed_pending s a.toNat) ht
  | refused a code => exact keeps (refusedMessage_pending s a.toNat code) ht
  | commitTimeout i seq => exact keeps (commitTimeout_pending s i seq) ht
  | durable => exact keeps (durable_pending s) ht
  | notYet => exact keeps (notYet_pending s) ht
  | pollWaitEnd => exact keeps (pollWaitEnd_pending s) ht
  | syncTimeout => exact keeps (syncTimeout_pending s) ht
  | responseTimeout => exact keeps (responseTimeout_pending s) ht
  | badFrame => exact keeps (linkFault_pending s .badFrame) ht
  | trainingLost => exact keeps (linkFault_pending s .trainingLost) ht
  | faultWaitEnd => exact keeps (faultWaitEnd_pending s) ht
  | trainingReply => exact keeps (trainingReply_pending s) ht
  | attemptEnd => exact keeps (attemptEnd_pending s) ht
  | restEnd => exact keeps (restEnd_pending s) ht
  | badOpener opener => exact keeps (badOpener_pending s opener) ht
  | writePeriodEnd bytes => exact keeps (writePeriodEnd_pending s bytes) ht
  | readPeriodStart => exact keeps (State.modCtl_pending s _) ht
  | readPeriodEnd clocked => exact keeps (readPeriodEnd_pending s clocked) ht
  | unknownRequest | ident | streamSetup | auxRoute | runStart | runStop | runAbort | drainResume | markNow
  | windowGrant | linkControlEnable | linkControlDisable | sync | preview | statusDevice | statusStream | noticeMask
  | noticeTake | errorSetup | errorRead | inject | timingSet | reset => exact keeps (submit_pending s _) ht

/-! ### The step -/

/-- Settles O1: with a command waiting, the step is that command's meaning on the state with the rest. -/
theorem stepRunsTheFrontCommand : Obligations.StepRunsTheFrontCommand := by
  intro c rest s h
  rw [step, h]

end Sys2Proof.Machine
end
